-- ==== Sys2Proof/Word.lean ====
section
/-! DEFINITION. The word types of the Olusol 9 (R4, R42, R55, R151). -/

namespace Sys2Proof

/-- One byte of memory. -/
abbrev Byte := BitVec 8

/-- One V register (R7). -/
abbrev Word32 := BitVec 32

/-- One instruction word, header, register pair or device register (R42, R56). -/
abbrev Word64 := BitVec 64

/-- A clause address or global virtual address (R42, R143). -/
abbrev VAddr := BitVec 57

/-- A physical address (R151). -/
abbrev PAddr := BitVec 52

/-- A 7-bit register field of an instruction word (R55). -/
abbrev RegF := BitVec 7

end Sys2Proof
end

