-- ==== Sys2Proof/Config.lean ====
section
/-! DEFINITION. What the implementation fixes and the manual does not give: free values (opaque constants with no body) and
the few limits that firmware or fuses set. No statement rests on a value of an opaque constant. -/

namespace Sys2Proof.Config

/-- Free choice between the old and the new code word at a fetch (R50); DESIGN CHOICE, log 6. -/
opaque fetchOld : Nat → Bool

/-- The home slice of a physical 128-byte line: the die's own function, not disclosed (text before R146); DESIGN CHOICE, log 7. -/
opaque homeSlice : Nat → Nat

/-- ASTC decode of one channel of one texel of a block, as UNORM16 (LDR) or FP16 (HDR): the manual names the ASTC decode
and does not restate it (R288); DESIGN CHOICE, log 8. -/
opaque astcTexel : (hdr : Bool) → (block : BitVec 128) → (bw bh x y channel : Nat) → BitVec 16

/-- Whether an ASTC block has an illegal encoding (R288); DESIGN CHOICE, log 8. -/
opaque astcIllegal : (hdr : Bool) → (block : BitVec 128) → (bw bh : Nat) → Bool

/-- Number of bitstream bytes of a coded superblock row: the manual gives no rule for AV1 bytes. What the encoder has coded before and what
the row holds are the arguments (R268); DESIGN CHOICE, log 9. -/
opaque av1RowBytes : Nat → List Nat → Nat

/-- One byte of the bitstream of a row, by its place (R268); DESIGN CHOICE, log 9. -/
opaque av1Byte : Nat → List Nat → Nat → Byte

/-- A 256-bit piece of an LMS signature by the identity key (R330); DESIGN CHOICE, log 10. -/
opaque lmsSignature : Nat → BitVec 256

/-- The part identity that an attestation reports (R330); DESIGN CHOICE, log 10. -/
opaque partIdentity : BitVec 256

/-- The rate adjustment the firmware's servo writes after a PTP sync (R249, R325); DESIGN CHOICE, log 11. -/
opaque ptpServo : Nat → Word64

/-- Which words a pipe tags, whether the home's L2 answers, and the stage times of a SAMPLE record, in cycles (R315); DESIGN CHOICE, log 12. -/
opaque sampleTimes : Nat → BitVec 128

/-- The security version in the fuses (R330); DESIGN CHOICE, log 10. -/
opaque fuseVersion : Nat

/-- The last value of the identity key's counter (R330); DESIGN CHOICE, log 10. -/
opaque attestationLast : Nat

/-- Number of signatures the identity key's counter allows: it counts from 0 to its last value (R330). -/
def attestationLimit : Nat := attestationLast + 1

/-- Whether PTP selects the port an Announce arrived on as better than the present one (R325); DESIGN CHOICE, log 11. -/
opaque ptpBetter : Nat → Bool

/-- A value that the manual leaves unstated: a texture sampled at an infinite coordinate (R289); DESIGN CHOICE, log 29. -/
opaque freeWord : Nat → BitVec 32

/-- A unit code of the device error log (R304, R324); DESIGN CHOICE, log 33. -/
opaque unitCode : Nat → BitVec 16

/-- A byte of a checkpoint image's first GiB, header included, by its place: the manual does not give their layout (R328); DESIGN CHOICE,
log 37. -/
opaque imageByte : Nat → Nat → Byte

/-- A measurement register as the boot stages extend it (R330); DESIGN CHOICE, log 34. -/
opaque measurement : Nat → BitVec 256 → BitVec 256

/-- Corrected-error threshold that firmware has set: 16 by default (R329). -/
def correctedThreshold : Nat := 16

end Sys2Proof.Config
end

