-- ==== Sys2Proof/Syntax.lean ====
section
/-! DEFINITION. The instructions and device events of the Olusol 9: one constructor for each row of the opcode table. -/

namespace Sys2Proof

/-- The place of a thread on the device: core 4·cluster + physical core, workgroup slot, workgroup thread index
(32·SQID + SQIX), and `ctx`, 0 for a launched thread and k + 1 for the handler context in record slot k (R295, R305). -/
structure ThreadName where
  core : Nat
  slot : Nat
  wti : Nat
  ctx : Nat
deriving DecidableEq, Repr

/-- Operands of the VR form and of the VI form (R60, R61). -/
inductive VOp where
  | r (d a b c : RegF) (ka kb kc : Bool) (ty sub : BitVec 4)
  | i (d a : RegF) (ty sub : BitVec 4) (ka : Bool) (imm : Word32)
deriving DecidableEq, Repr

/-- Operands of the MR format (R62). -/
structure MrOp where
  d : RegF
  a : RegF
  g : BitVec 4
  gn : Bool
  scope : BitVec 3
  ord : BitVec 2
  pol : BitVec 2
  width : BitVec 3
  sx : Bool
  ka : Bool
  kd : Bool
  off : BitVec 24
deriving DecidableEq, Repr

/-- Operands of the CT format (R64). -/
structure CtOp where
  g : BitVec 4
  gn : Bool
  a : RegF
  sub12 : BitVec 12
  off : BitVec 32
deriving DecidableEq, Repr

/-- Operands of the AS and GX formats, which share one layout (R66). -/
structure AgOp where
  d : RegF
  a : RegF
  g : BitVec 4
  gn : Bool
  scope : BitVec 3
  ord : BitVec 2
  b : RegF
  kd : Bool
  ka : Bool
  kb : Bool
  sub6 : BitVec 6
  imm : BitVec 16
deriving DecidableEq, Repr

/-- Operands of the MX format (R67). -/
structure MxOp where
  d : RegF
  a : RegF
  g : BitVec 4
  gn : Bool
  bsl : BitVec 2
  mode : BitVec 2
  q : Bool
  fa : BitVec 4
  fb : BitVec 4
  ka : Bool
  kd : Bool
  sub6 : BitVec 6
  imm : BitVec 16
deriving DecidableEq, Repr

/-- Operands of the SY format (R68). -/
structure SyOp where
  g : BitVec 4
  gn : Bool
  a : RegF
  sub12 : BitVec 12
  d : RegF
  ka : Bool
  imm : BitVec 16
deriving DecidableEq, Repr

/-- Where an uncorrectable ECC error lies (R304). -/
inductive EccPlace where
  | cleanLine (pa : PAddr)
  | dirtyLine (core : Nat) (pa : PAddr)
  | memory (pa : PAddr)
  | register (t : ThreadName) (r : Nat)
  | scratch (core : Nat) (off : Nat)
  | accumulator (cluster row : Nat)
  | ringSram (ring slot : Nat)
  | refStore (planSlot : Nat)
deriving DecidableEq, Repr

/-- A firmware image as the boot ROM meets it: its security version, whether its LMS signature verifies, and the
SHA-256 digest that the boot stages extend (R330). -/
structure FwImage where
  version : Nat
  signatureVerifies : Bool
  digest : BitVec 256
deriving DecidableEq, Repr

/-- What bring-up finds on the part: the image, the capability words its tests and the spare map give, and the carve-outs of the L2 that
system software pins, as physical base and size (R150, R321, R331). -/
structure BootFound where
  image : FwImage
  cle : Word64
  cores : BitVec 4
  cap2 : Word32
  cap3 : Word32
  astb : Word64
  carveouts : List (Nat × Nat)
  sramTestOk : Bool
deriving DecidableEq, Repr

/-- Transport of a PTP event message (R249). -/
inductive PtpTransport where
  | udp4
  | udp6
  | layer2
deriving DecidableEq, Repr

/-- An event message of PTP as a port sends or receives it, in one step or two (R249). -/
structure PtpEvent where
  port : Nat
  oneStep : Bool
  transport : PtpTransport
deriving DecidableEq, Repr

/-- What the caches of translations do at a walk, as the device pleases (R158): the L1 TLB of a core of the cluster that caches what is found,
and the cached leaves and table entries that are dropped first. -/
structure TlbTurn where
  core : Option Nat
  evict : List Nat
  evictWalks : List Nat
deriving DecidableEq, Repr

/-- A PTP message that reaches the firmware's ordinary clock (R325). -/
inductive PtpMessage where
  | announce
  | sync
  | other
deriving DecidableEq, Repr

/-- The instructions and device events: one constructor for each row of the opcode table. -/
inductive Instr where
  /-- NOP (R407). -/
  | nop
  /-- PFX (R411). -/
  | pfx (h1 h0 : BitVec 28)
  /-- BRA (R354). -/
  | bra (o : CtOp)
  /-- BRX (R355). -/
  | brx (o : CtOp)
  /-- CALL (R360). -/
  | call (o : CtOp)
  /-- CALLX (R360). -/
  | callx (o : CtOp)
  /-- RET (R422). -/
  | ret (o : CtOp)
  /-- EXIT (R373). -/
  | exit (o : CtOp)
  /-- SWITCH (R431). -/
  | switch (o : CtOp)
  /-- LOOP (R397). -/
  | loop (o : CtOp)
  /-- LPOP (R398). -/
  | lpop (o : CtOp)
  /-- LPOP_DROP (R398). -/
  | lpopDrop (o : CtOp)
  /-- YIELD (R448). -/
  | yield (o : CtOp)
  /-- WAITT_ABS (R438). -/
  | waittAbs (o : CtOp)
  /-- WAITT_REL (R438). -/
  | waittRel (o : CtOp)
  /-- IADD (R384). -/
  | iadd (o : VOp)
  /-- IADC (R385). -/
  | iadc (o : VOp)
  /-- ISUB (R384). -/
  | isub (o : VOp)
  /-- IMUL (R384). -/
  | imul (o : VOp)
  /-- IMULH (R384). -/
  | imulh (o : VOp)
  /-- IMAD (R384). -/
  | imad (o : VOp)
  /-- IMIN (R384). -/
  | imin (o : VOp)
  /-- IMAX (R384). -/
  | imax (o : VOp)
  /-- IABS (R384). -/
  | iabs (o : VOp)
  /-- ICMP (R386). -/
  | icmp (o : VOp)
  /-- LEA (R393). -/
  | lea (o : VOp)
  /-- AND (R336). -/
  | and (o : VOp)
  /-- OR (R409). -/
  | or (o : VOp)
  /-- XOR (R409). -/
  | xor (o : VOp)
  /-- SHL (R427). -/
  | shl (o : VOp)
  /-- SHR (R427). -/
  | shr (o : VOp)
  /-- SAR (R427). -/
  | sar (o : VOp)
  /-- BFE (R348). -/
  | bfe (o : VOp)
  /-- BFI (R349). -/
  | bfi (o : VOp)
  /-- POPC (R414). -/
  | popc (o : VOp)
  /-- CLZ (R363). -/
  | clz (o : VOp)
  /-- BREV (R356). -/
  | brev (o : VOp)
  /-- FADD (R375). -/
  | fadd (o : VOp)
  /-- FSUB (R375). -/
  | fsub (o : VOp)
  /-- FMUL (R375). -/
  | fmul (o : VOp)
  /-- FFMA (R375). -/
  | ffma (o : VOp)
  /-- FMIN (R375). -/
  | fmin (o : VOp)
  /-- FMAX (R375). -/
  | fmax (o : VOp)
  /-- FMINN (R375). -/
  | fminn (o : VOp)
  /-- FMAXN (R375). -/
  | fmaxn (o : VOp)
  /-- FCMP (R377). -/
  | fcmp (o : VOp)
  /-- FCLASS (R376). -/
  | fclass (o : VOp)
  /-- FRND (R380). -/
  | frnd (o : VOp)
  /-- FRND_X (R380). -/
  | frndX (o : VOp)
  /-- FCVT (R378). -/
  | fcvt (o : VOp)
  /-- ICVT (R387). -/
  | icvt (o : VOp)
  /-- DSUBS (R372). -/
  | dsubs (o : VOp)
  /-- MOV (R404). -/
  | mov (o : VOp)
  /-- MOVI (R405). -/
  | movi (o : VOp)
  /-- SEL (R428). -/
  | sel (o : VOp)
  /-- PLOP (R412). -/
  | plop (o : VOp)
  /-- PMOV (R413). -/
  | pmov (o : VOp)
  /-- PERM (R410). -/
  | perm (o : VOp)
  /-- BCST (R346). -/
  | bcst (o : VOp)
  /-- VOTE (R437). -/
  | vote (o : VOp)
  /-- REDX (R421). -/
  | redx (o : VOp)
  /-- SCANX (R421). -/
  | scanx (o : VOp)
  /-- MATCH (R400). -/
  | match (o : VOp)
  /-- XEQ (R441). -/
  | xeq (o : VOp)
  /-- LOGC (R394). -/
  | logc (o : VOp)
  /-- EXPC (R374). -/
  | expc (o : VOp)
  /-- LSCL (R395). -/
  | lscl (o : VOp)
  /-- FSIN (R374). -/
  | fsin (o : VOp)
  /-- FCOS (R374). -/
  | fcos (o : VOp)
  /-- ACTV (R335). -/
  | actv (o : VOp)
  /-- RCP (R419). -/
  | rcp (o : VOp)
  /-- RSQ (R419). -/
  | rsq (o : VOp)
  /-- LD (R388). -/
  | ld (o : MrOp)
  /-- ST (R430). -/
  | st (o : MrOp)
  /-- LDS (R388). -/
  | lds (o : MrOp)
  /-- STS (R430). -/
  | sts (o : MrOp)
  /-- ATOM (R339). -/
  | atom (o : MrOp)
  /-- ATOMS (R339). -/
  | atoms (o : MrOp)
  /-- RED (R420). -/
  | red (o : MrOp)
  /-- FENCE (R379). -/
  | fence (o : MrOp)
  /-- CCTL_WB (R361). -/
  | cctlWb (o : MrOp)
  /-- CCTL_WBINV (R361). -/
  | cctlWbinv (o : MrOp)
  /-- CCTL_IINV (R361). -/
  | cctlIinv (o : MrOp)
  /-- CCTL_WBALL (R361). -/
  | cctlWball (o : MrOp)
  /-- CCTL_IINVALL (R361). -/
  | cctlIinvall (o : MrOp)
  /-- CCTL_PF (R361). -/
  | cctlPf (o : MrOp)
  /-- SAMP (R425). -/
  | samp (o : MrOp)
  /-- LDW (R391). -/
  | ldw (o : MrOp)
  /-- WSET (R439). -/
  | wset (o : MrOp)
  /-- CPY (R364). -/
  | cpy (o : AgOp)
  /-- CPYS (R364). -/
  | cpys (o : AgOp)
  /-- CSEAL (R366). -/
  | cseal (o : AgOp)
  /-- CWAIT_REL (R371). -/
  | cwaitRel (o : AgOp)
  /-- CWAIT_LND (R371). -/
  | cwaitLnd (o : AgOp)
  /-- TOWN (R433). -/
  | town (o : AgOp)
  /-- BINIT (R351). -/
  | binit (o : AgOp)
  /-- BARV (R345). -/
  | barv (o : AgOp)
  /-- BWAIT (R359). -/
  | bwait (o : AgOp)
  /-- BSYNC (R357). -/
  | bsync (o : AgOp)
  /-- TSPAWN (R436). -/
  | tspawn (o : AgOp)
  /-- QINIT (R415). -/
  | qinit (o : AgOp)
  /-- QPUSH (R416). -/
  | qpush (o : AgOp)
  /-- QPUSH_C (R416). -/
  | qpushC (o : AgOp)
  /-- QPUSH_AMP (R276). -/
  | qpushAmp (o : AgOp)
  /-- QPUSH_CLOSE (R120). -/
  | qpushClose (o : AgOp)
  /-- QPOP (R416). -/
  | qpop (o : AgOp)
  /-- QPOP_E (R416). -/
  | qpopE (o : AgOp)
  /-- MACQ (R399). -/
  | macq (o : MxOp)
  /-- MREL (R406). -/
  | mrel (o : MxOp)
  /-- MMA (R403). -/
  | mma (o : MxOp)
  /-- MZERO (R402). -/
  | mzero (o : MxOp)
  /-- MDRN (R401). -/
  | mdrn (o : MxOp)
  /-- MLDA (R402). -/
  | mlda (o : MxOp)
  /-- APOP (R337). -/
  | apop (o : MxOp)
  /-- GEVAL (R383). -/
  | geval (o : MxOp)
  /-- GCFG (R382). -/
  | gcfg (o : MxOp)
  /-- RAST (R418). -/
  | rast (o : AgOp)
  /-- BINA (R350). -/
  | bina (o : AgOp)
  /-- BINA_CLR (R273). -/
  | binaClr (o : AgOp)
  /-- OCCR (R408). -/
  | occr (o : AgOp)
  /-- OCCR_CLR (R408). -/
  | occrClr (o : AgOp)
  /-- RGACQ (R423). -/
  | rgacq (o : AgOp)
  /-- RGREL_PUB (R265). -/
  | rgrelPub (o : AgOp)
  /-- RGREL_REL (R265). -/
  | rgrelRel (o : AgOp)
  /-- RGHOLD (R265). -/
  | rghold (o : AgOp)
  /-- SREAD (R429). -/
  | sread (o : SyOp)
  /-- SWRITE (R429). -/
  | swrite (o : SyOp)
  /-- TRAP (R434). -/
  | trap (o : SyOp)
  /-- TRET (R298). -/
  | tret (o : SyOp)
  /-- TRET_END (R298). -/
  | tretEnd (o : SyOp)
  /-- BKPT (R353). -/
  | bkpt (o : SyOp)
  /-- TLBI_PAGE (R432). -/
  | tlbiPage (o : SyOp)
  /-- TLBI_ASID (R432). -/
  | tlbiAsid (o : SyOp)
  /-- TLBI_ALL (R432). -/
  | tlbiAll (o : SyOp)
  /-- CTXSV_COPY (R368). -/
  | ctxsvCopy (o : SyOp)
  /-- CTXSV_REL (R368). -/
  | ctxsvRel (o : SyOp)
  /-- CTXSV_WG (R368). -/
  | ctxsvWg (o : SyOp)
  /-- CTXLD_REGS (R368). -/
  | ctxldRegs (o : SyOp)
  /-- CTXLD_FULL (R368). -/
  | ctxldFull (o : SyOp)
  /-- CTXLD_WG (R368). -/
  | ctxldWg (o : SyOp)
  /-- ROLEQ (R424). -/
  | roleq (o : SyOp)
  /-- LAUNCH_QUEUE_WRITE (R322), a device event. -/
  | launchQueueWrite (lqt : BitVec 32)
  /-- LAUNCH_ADMISSION (R31), a device event. -/
  | launchAdmission
  /-- GANG_START (R19), a device event. -/
  | gangStart (lid w : Nat)
  /-- WORKGROUP_EXITED (R21), a device event. -/
  | workgroupExited (core slot : Nat)
  /-- PICKER_DECISION (R98), a device event. -/
  | pickerDecision (core pipe : Nat)
  /-- AGING_PROMOTION (R39), a device event. -/
  | agingPromotion (core slot crew : Nat) (ca : BitVec 57)
  /-- STARVED_BUCKET (R100), a device event. -/
  | starvedBucket (core slot crew : Nat) (ca : BitVec 57)
  /-- CLASS_PREEMPTION (R105), a device event. -/
  | classPreemption (core pipe : Nat)
  /-- THREAD_WAKE (R36), a device event. -/
  | threadWake (t : ThreadName)
  /-- WAITT_WAKE (R438), a device event. -/
  | waittWake (t : ThreadName)
  /-- REGISTER_SPILL (R103), a device event. -/
  | registerSpill (t : ThreadName) (regs : List Nat)
  /-- REGISTER_REFILL (R101), a device event. -/
  | registerRefill (t : ThreadName) (r : Nat)
  /-- CALL_STACK_TRANSFER (R9), a device event. -/
  | callStackTransfer (t : ThreadName)
  /-- PAGE_WALK (R155), a device event. -/
  | pageWalk (cluster : Nat) (asid : BitVec 16) (va : BitVec 57) (turn : TlbTurn)
  /-- FAULT_RECORD (R324), a device event. -/
  | faultRecord
  /-- FAULT_ANSWER_RETRY (R161), a device event. -/
  | faultAnswerRetry (fid : BitVec 32)
  /-- FAULT_ANSWER_FAIL (R161), a device event. -/
  | faultAnswerFail (fid : BitVec 32)
  /-- FAULT_BUFFER_CONFIG (R324), a device event. -/
  | faultBufferConfig (v : BitVec 64)
  /-- DETECTION_STALL_END (R179), a device event. -/
  | detectionStallEnd (t : ThreadName)
  /-- MMX_CAPACITY_TIMEOUT (R179), a device event. -/
  | mmxCapacityTimeout (t : ThreadName)
  /-- TSPAWN_TIMEOUT (R112), a device event. -/
  | tspawnTimeout (core pipe : Nat)
  /-- ROW_QUEUE_TIMEOUT (R234), a device event. -/
  | rowQueueTimeout (cluster : Nat)
  /-- TASK_DISPATCH (R114), a device event. -/
  | taskDispatch (cluster entry coreRole : Nat)
  /-- STRIP_ADMISSION (R256), a device event. -/
  | stripAdmission (slot : Nat)
  /-- CHAIN_FINISH (R261), a device event. -/
  | chainFinish (slot n : Nat)
  /-- RING_PUBLISH (R265), a device event. -/
  | ringPublish (ring slot : Nat)
  /-- SLOT_SETTLE_AT_EXIT (R265), a device event. -/
  | slotSettleAtExit (ring slot : Nat)
  /-- SERIALISER_STRIP_NEED (R267), a device event. -/
  | serialiserStripNeed (unit : Nat)
  /-- SERIALISER_LINE (R267), a device event. -/
  | serialiserLine (unit : Nat)
  /-- LINK_TRAINING (R267), a device event. -/
  | linkTraining (unit rate lanes bpc : Nat)
  /-- ENCODER_SUPERBLOCK_ROW (R268), a device event. -/
  | encoderSuperblockRow (slot : Nat)
  /-- BSRD_WRITE (R268), a device event. -/
  | bsrdWrite (slot : Nat) (v : BitVec 32)
  /-- PLAN_ENABLE (R253), a device event. -/
  | planEnable (slot : Nat) (v : BitVec 64)
  /-- PLAN_DISABLE (R253), a device event. -/
  | planDisable (slot : Nat)
  /-- DTC_TICK (R247), a device event. -/
  | dtcTick
  /-- ADJ_WRITE (R247), a device event. -/
  | adjWrite (v : BitVec 64)
  /-- STEPV_WRITE (R248), a device event. -/
  | stepvWrite (v : BitVec 64)
  /-- PTP_EVENT_TIMESTAMP (R249), a device event. -/
  | ptpEventTimestamp (message : PtpEvent)
  /-- PTP_ANNOUNCE_TIMEOUT (R325), a device event. -/
  | ptpAnnounceTimeout (heard : BitVec 4)
  /-- COPY_LANDING (R201), a device event. -/
  | copyLanding (core ch : Nat)
  /-- PASS_GRANT (R232), a device event. -/
  | passGrant (cluster : Nat)
  /-- PASS_COMPLETE (R226), a device event. -/
  | passComplete (cluster : Nat)
  /-- GRAMMAR_EVALUATION (R244), a device event. -/
  | grammarEvaluation (cluster : Nat)
  /-- EVALUATION_END (R243), a device event. -/
  | evaluationEnd (cluster : Nat)
  /-- EVALUATION_ROW_PUSH (R243), a device event. -/
  | evaluationRowPush (cluster pitch : Nat)
  /-- DRAIN_EXECUTION (R237), a device event. -/
  | drainExecution (cluster : Nat)
  /-- LOAD_BACK_EXECUTION (R239), a device event. -/
  | loadBackExecution (cluster : Nat)
  /-- ACCUMULATOR_CLEAR (R239), a device event. -/
  | accumulatorClear (cluster : Nat)
  /-- PITCH_RELEASE (R223), a device event. -/
  | pitchRelease (cluster pitch : Nat)
  /-- FREEZE_REQUEST (R240), a device event. -/
  | freezeRequest (cluster : Nat) (on : Bool)
  /-- FREEZE_DONE (R240), a device event. -/
  | freezeDone (cluster : Nat)
  /-- RAST_OPERATION (R283), a device event. -/
  | rastOperation (cluster : Nat)
  /-- HANDLER_CONTEXT_START (R295), a device event. -/
  | handlerContextStart (t : ThreadName)
  /-- HOLD_REQUEST (R302), a device event. -/
  | holdRequest (core slot : Nat) (hold svc : Bool)
  /-- SERVICE_CONTEXT_START (R303), a device event. -/
  | serviceContextStart (core slot : Nat)
  /-- RESTORE_GO (R303), a device event. -/
  | restoreGo (core : Nat)
  /-- CORRECTED_ERROR (R329), a device event. -/
  | correctedError (unit index : Nat)
  /-- UNCORRECTABLE_ERROR (R304), a device event. -/
  | uncorrectableError (w : EccPlace)
  /-- UNIT_RETIREMENT (R329), a device event. -/
  | unitRetirement (cluster : Nat) (testOk : Bool)
  /-- CLUSTER_STOP_TRIGGER (R310), a device event. -/
  | clusterStopTrigger (cluster src idx : Nat)
  /-- CLUSTER_STOP_ARRIVAL (R311), a device event. -/
  | clusterStopArrival (core : Nat)
  /-- STOP_COMPLETE (R310), a device event. -/
  | stopComplete (cluster : Nat)
  /-- THAW (R310), a device event. -/
  | thaw (cluster : Nat)
  /-- DUMP (R306), a device event. -/
  | dump (cluster : Nat)
  /-- DEBUG_STEP (R312), a device event. -/
  | debugStep (cluster : Nat)
  /-- SAMPLE_RECORD (R315), a device event. -/
  | sampleRecord (core pipe : Nat)
  /-- TRACE_SUMMARY (R314), a device event. -/
  | traceSummary (core : Nat)
  /-- TRAIL_ENABLE (R306), a device event. -/
  | trailEnable (cluster : Nat) (v : BitVec 64)
  /-- REPLAY_DIVERGENCE (R317), a device event. -/
  | replayDivergence (cluster : Nat)
  /-- CHECKPOINT_GO (R328), a device event. -/
  | checkpointGo (halt : Bool)
  /-- CHECKPOINT_COMPLETE (R328), a device event. -/
  | checkpointComplete (ms : Nat) (portError : Bool)
  /-- HOST_RDMA_ACCESS (R319), a device event. -/
  | hostRdmaAccess (write : Bool) (pa : BitVec 52) (size : Nat) (data : BitVec 128)
  /-- RING_DESCRIPTOR_WRITE (R263), a device event. -/
  | ringDescriptorWrite (ring word : Nat) (v : BitVec 64)
  /-- ATTESTATION_REQUEST (R330), a device event. -/
  | attestationRequest (nonce : BitVec 256)
  /-- BRING_UP (R331), a device event. -/
  | bringUp (b : BootFound)
  /-- THERMAL_HOLD (R332), a device event. -/
  | thermalHold (celsius : Nat)
  /-- THERMAL_TRIP (R332), a device event. -/
  | thermalTrip (celsius : Nat)
  /-- POWER_CAP_WRITE (R332), a device event. -/
  | powerCapWrite (watts : Nat)
  /-- REGISTER_WRITE (R5), a device event. -/
  | registerWrite (pa : BitVec 52) (v : BitVec 64) (level : BitVec 2)
  /-- MEMORY_ACCESS_PERFORMED (R47), a device event. -/
  | memoryAccessPerformed (k : Nat) (evict : List Nat)
  /-- XFN_RESULT_WRITTEN (R142), a device event. -/
  | xfnResultWritten (t : ThreadName)
  /-- CHECKPOINT_RESTORE (R328), a device event. -/
  | checkpointRestore
  /-- FIRMWARE_UPLOAD (R330), a device event. -/
  | firmwareUpload (image : FwImage)
  /-- PTP_MESSAGE_RECEIVED (R325), a device event. -/
  | ptpMessageReceived (port : Nat) (m : PtpMessage)
  /-- RDMA_CONNECTION_SETUP (R216), a device event. -/
  | rdmaConnectionSetup (peer : Nat) (chunks : Bool)
deriving DecidableEq, Repr

end Sys2Proof
end

