-- ==== Sys2Proof/Machine/Num.lean ====
section
/-! DEFINITION. Exact arithmetic on rationals, the number formats of R121 to R128, and the functions of the log path as exact or
sticky values (R130, R140). -/

namespace Sys2Proof.Machine

/-- A real of the pseudocode (R130): NaN (signalling or quiet), infinity, or (-1)^neg · num / den with den positive. -/
inductive Ex where
  | nan (signalling : Bool)
  | inf (neg : Bool)
  | fin (neg : Bool) (num den : Nat)
deriving DecidableEq, Repr

/-- A binary floating-point format (R121): stored mantissa bits, exponent bits, bias, largest finite pattern, whether it has
infinities. -/
structure Fmt where
  p : Nat
  eb : Nat
  bias : Nat
  maxBits : Nat
  hasInf : Bool
  nan : Nat
deriving DecidableEq, Repr

def fp64 : Fmt := { p := 52, eb := 11, bias := 1023, maxBits := 0x7FEFFFFFFFFFFFFF, hasInf := true, nan := 0x7FF8000000000000 }
def fp32 : Fmt := { p := 23, eb := 8, bias := 127, maxBits := 0x7F7FFFFF, hasInf := true, nan := 0x7FC00000 }
def fp16 : Fmt := { p := 10, eb := 5, bias := 15, maxBits := 0x7BFF, hasInf := true, nan := 0x7E00 }
def bf16 : Fmt := { p := 7, eb := 8, bias := 127, maxBits := 0x7F7F, hasInf := true, nan := 0x7FC0 }
def f8a : Fmt := { p := 3, eb := 4, bias := 7, maxBits := 0x7E, hasInf := false, nan := 0x7F }
def f8b : Fmt := { p := 2, eb := 5, bias := 15, maxBits := 0x7B, hasInf := true, nan := 0x7E }

/-- Rounding modes (R130). -/
inductive RMode where
  | rne | rz | rp | rm | rna
deriving DecidableEq, Repr

/-- m · 2^e as a numerator and a denominator. -/
def scale2 (m : Nat) (e : Int) : Nat × Nat :=
  match e with
  | .ofNat k => (m * 2 ^ k, 1)
  | .negSucc k => (m, 2 ^ (k + 1))

/-- Exponent of the value 0 pattern's neighbour: every finite value is a multiple of 2^qmin. -/
def Fmt.qmin (f : Fmt) : Int := 1 - (f.bias : Int) - (f.p : Int)

/-- Sign bit position. -/
def Fmt.signBit (f : Fmt) : Nat := f.p + f.eb

/-- `Val` of a floating-point pattern (R121, R122). -/
def Fmt.val (f : Fmt) (b : Nat) : Ex :=
  let neg := b.testBit f.signBit
  let e := (b / 2 ^ f.p) % 2 ^ f.eb
  let m := b % 2 ^ f.p
  if f.hasInf then
    if e == 2 ^ f.eb - 1 then (if m == 0 then .inf neg else .nan (m < 2 ^ (f.p - 1)))
    else if e == 0 then let (n, d) := scale2 m f.qmin; .fin neg n d
    else let (n, d) := scale2 (m + 2 ^ f.p) (f.qmin + (e : Int) - 1); .fin neg n d
  else if b % 2 ^ f.signBit == f.nan then .nan false
  else if e == 0 then let (n, d) := scale2 m f.qmin; .fin neg n d
  else let (n, d) := scale2 (m + 2 ^ f.p) (f.qmin + (e : Int) - 1); .fin neg n d

/-- Is the pattern subnormal (R121)? -/
def Fmt.subnormal (f : Fmt) (b : Nat) : Bool :=
  (b / 2 ^ f.p) % 2 ^ f.eb == 0 && b % 2 ^ f.p != 0

/-- Round num / den to an integer by mode, for a value of the given sign (R130). -/
def roundNat (mode : RMode) (neg : Bool) (num den : Nat) : Nat :=
  let q := num / den
  let r := num % den
  if r == 0 then q else
  match mode with
  | .rz => q
  | .rp => if neg then q else q + 1
  | .rm => if neg then q + 1 else q
  | .rna => if den ≤ 2 * r then q + 1 else q
  | .rne => if 2 * r < den then q else if den < 2 * r then q + 1 else if q % 2 == 0 then q else q + 1

/-- floor(log2(num / den)) of a positive rational. -/
def floorLog2 (num den : Nat) : Int :=
  let e : Int := (Nat.log2 num : Int) - (Nat.log2 den : Int)
  let (n, d) := match e with
    | .ofNat k => (num, den * 2 ^ k)
    | .negSucc k => (num * 2 ^ (k + 1), den)
  if n < d then e - 1 else e

/-- num / den in units of 2^q, rounded to an integer. -/
def roundUnits (mode : RMode) (neg : Bool) (num den : Nat) (q : Int) : Nat :=
  match q with
  | .ofNat k => roundNat mode neg num (den * 2 ^ k)
  | .negSucc k => roundNat mode neg (num * 2 ^ (k + 1)) den

/-- Is m · 2^q equal to num / den? -/
def sameValue (m : Nat) (q : Int) (num den : Nat) : Bool :=
  let (n, d) := scale2 m q
  n * den == num * d

/-- Is num / den below m · 2^q? -/
def belowValue (num den m : Nat) (q : Int) : Bool :=
  let (n, d) := scale2 m q
  num * d < n * den

/-- A signed rational as an integer numerator over its denominator. -/
def signed (neg : Bool) (num : Nat) : Int := if neg then -(num : Int) else num

/-- A rational from a signed numerator; a zero takes the sign given. -/
def Ex.ofInt (zeroNeg : Bool) (n : Int) (den : Nat) : Ex :=
  if n == 0 then .fin zeroNeg 0 1 else .fin (n < 0) n.natAbs den

/-- An integer as a real, zero being +0. -/
def Ex.int (n : Int) : Ex := .ofInt false n 1

/-- A ratio of integers as a real, for a positive denominator. -/
def Ex.ratio (n : Int) (den : Nat) : Ex := .ofInt false n den

def Ex.isNan : Ex → Bool
  | .nan _ => true
  | _ => false

def Ex.isSnan : Ex → Bool
  | .nan s => s
  | _ => false

def Ex.isInf : Ex → Bool
  | .inf _ => true
  | _ => false

def Ex.isZero : Ex → Bool
  | .fin _ 0 _ => true
  | _ => false

def Ex.neg : Ex → Bool
  | .nan _ => false
  | .inf s => s
  | .fin s _ _ => s

def Ex.negate : Ex → Ex
  | .nan s => .nan s
  | .inf s => .inf (!s)
  | .fin s n d => .fin (!s) n d

/-- Exact sum of numerators over a common denominator. -/
def addRat (n1 : Int) (d1 : Nat) (n2 : Int) (d2 : Nat) : Int × Nat :=
  if d1 == d2 then (n1 + n2, d1)
  else if d1 % d2 == 0 then (n1 + n2 * (d1 / d2 : Nat), d1)
  else if d2 % d1 == 0 then (n1 * (d2 / d1 : Nat) + n2, d2)
  else (n1 * d2 + n2 * d1, d1 * d2)

/-- Exact sum with the zero signs of R131; the sum of opposite infinities is a NaN. -/
def Ex.add (mode : RMode) : Ex → Ex → Ex
  | .nan _, _ => .nan false
  | _, .nan _ => .nan false
  | .inf a, .inf b => if a == b then .inf a else .nan false
  | .inf a, _ => .inf a
  | _, .inf b => .inf b
  | .fin s1 n1 d1, .fin s2 n2 d2 =>
    if n1 == 0 && n2 == 0 && s1 == s2 then .fin s1 0 1
    else
      let (n, d) := addRat (signed s1 n1) d1 (signed s2 n2) d2
      .ofInt (mode == .rm) n d

/-- Exact product; infinity times zero is a NaN. -/
def Ex.mul : Ex → Ex → Ex
  | .nan _, _ => .nan false
  | _, .nan _ => .nan false
  | .inf a, .inf b => .inf (a != b)
  | .inf a, .fin s n _ => if n == 0 then .nan false else .inf (a != s)
  | .fin s n _, .inf a => if n == 0 then .nan false else .inf (a != s)
  | .fin s1 n1 d1, .fin s2 n2 d2 => .fin (s1 != s2) (n1 * n2) (d1 * d2)

/-- Compare two reals that are not NaN: -1, 0 or 1; the zeros are equal. -/
def Ex.cmp : Ex → Ex → Int
  | .inf a, .inf b => if a == b then 0 else if a then -1 else 1
  | .inf a, _ => if a then -1 else 1
  | _, .inf b => if b then 1 else -1
  | .fin s1 n1 d1, .fin s2 n2 d2 =>
    let x : Int := signed s1 n1 * d2
    let y : Int := signed s2 n2 * d1
    if x < y then -1 else if y < x then 1 else 0
  | _, _ => 0

/-- `RoundInt` (R130) of a rational. -/
def roundInt (mode : RMode) (neg : Bool) (num den : Nat) : Int := signed neg (roundNat mode neg num den)

/-- Clamp (R130). -/
def satN (x lo hi : Int) : Int := if x < lo then lo else if hi < x then hi else x

/-- floor(sqrt n) by bits, from bit k - 1 down. -/
def isqrtBits (n : Nat) : Nat → Nat → Nat
  | 0, r => r
  | k + 1, r => let t := r + 2 ^ k; isqrtBits n k (if t * t ≤ n then t else r)

/-- floor(sqrt n). -/
def isqrt (n : Nat) : Nat := isqrtBits n (Nat.log2 n / 2 + 1) 0

/-- floor of the fifth root of n by bits, from bit k - 1 down. -/
def root5Bits (n : Nat) : Nat → Nat → Nat
  | 0, r => r
  | k + 1, r => let t := r + 2 ^ k; root5Bits n k (if t ^ 5 ≤ n then t else r)

/-- A real that lies strictly between v / 2^p and (v + 1) / 2^p, for values no rounding boundary of any format separates from
that interval's middle. -/
def sticky (neg : Bool) (v p : Nat) : Ex := .fin neg (2 * v + 1) (2 ^ (p + 1))

/-- Working precision of the log path, in bits (DEDUCED, log 14). -/
def workBits : Nat := 256

/-- Bits of log2 of y / 2^workBits, in [1, 2), by repeated squaring: k of them, most significant first. -/
def log2Bits : Nat → Nat → Nat → Nat
  | 0, _, acc => acc
  | k + 1, y, acc =>
    let z := y * y / 2 ^ workBits
    if 2 ^ (workBits + 1) ≤ z then log2Bits k (z / 2) (2 * acc + 1) else log2Bits k z (2 * acc)

/-- floor(log2(num / den) · 2^k) of a positive rational. -/
def log2Fixed (num den k : Nat) : Int :=
  let e := floorLog2 num den
  let y := match e with
    | .ofNat j => num * 2 ^ workBits / (den * 2 ^ j)
    | .negSucc j => num * 2 ^ (workBits + j + 1) / den
  e * (2 ^ k : Nat) + (log2Bits k y 0 : Nat)

/-- Is the positive rational a power of two? -/
def isPow2 (num den : Nat) : Bool := let e := floorLog2 num den; sameValue 1 e num den

/-- 2^(f / 2^k) in units of 2^-workBits, f below 2^k: product of square roots of two. -/
def exp2Frac (k f : Nat) : Nat → Nat → Nat → Nat
  | 0, _, acc => acc
  | j + 1, root, acc =>
    -- root is 2^(2^-(k-j)) · 2^workBits; bit j of f selects it
    exp2Frac k f j (isqrt (root * 2 ^ workBits)) (if f.testBit j then acc * root / 2 ^ workBits else acc)

/-- 2^(n / 2^23) for Q8.23 n (R140): exact for an integer exponent, sticky otherwise. -/
def exp2Q823 (n : Int) : Ex :=
  let e := n / (2 ^ 23 : Nat)
  let f := (n - e * (2 ^ 23 : Nat)).toNat
  if f == 0 then let (a, b) := scale2 1 e; .fin false a b
  else
    let m := exp2Frac 23 f 23 (isqrt (2 * 2 ^ workBits * 2 ^ workBits)) (2 ^ workBits)
    match e with
    | .ofNat j => sticky false (m * 2 ^ j) workBits
    | .negSucc j => sticky false m (workBits + j + 1)

/-- floor(pi · 2^320). -/
def piFixed : Nat := 0x3243F6A8885A308D313198A2E03707344A4093822299F31D0082EFA98EC4E6C89452821E638D01377

/-- Taylor terms of the sine (k = 1, 3, …) or cosine (k = 0, 2, …) of y / 2^320, n of them. -/
def trigSeries (y2 : Nat) : Nat → Nat → Int → Bool → Int → Int
  | 0, _, _, _, acc => acc
  | n + 1, k, term, pos, acc =>
    let t := term * y2 / (2 ^ 320 : Nat) / ((k + 1) * (k + 2) : Nat)
    trigSeries y2 n (k + 2) t (!pos) (if pos then acc + term else acc - term)

/-- sin(2·pi·a/b) for 0 < a/b < 1/4, as a sticky value. -/
def sinFirst (a b : Nat) : Ex :=
  let y := 2 * piFixed * a / b
  sticky false (trigSeries (y * y / 2 ^ 320) 60 1 y true 0).toNat 320

/-- cos(2·pi·a/b) for 0 < a/b < 1/4, as a sticky value. -/
def cosFirst (a b : Nat) : Ex :=
  let y := 2 * piFixed * a / b
  sticky false (trigSeries (y * y / 2 ^ 320) 60 0 (2 ^ 320 : Nat) true 0).toNat 320

/-- sin(2·pi·x) of a finite x by the quarter its fraction lies in, with the exact cases of R140. -/
def sin2pi (neg : Bool) (num den : Nat) : Ex :=
  let r := num % den
  let q := 4 * r / den
  let flip (x : Ex) : Ex := if neg then x.negate else x
  if 4 * r % den == 0 then
    match q with
    | 1 => flip (.fin false 1 1)
    | 3 => flip (.fin true 1 1)
    | _ => .fin neg 0 1
  else
    -- fraction r/den = q/4 + s/(4·den), 0 < s < den
    let s := 4 * r - q * den
    flip (match q with
      | 0 => sinFirst s (4 * den)
      | 1 => cosFirst s (4 * den)
      | 2 => (sinFirst s (4 * den)).negate
      | _ => (cosFirst s (4 * den)).negate)

/-- cos(2·pi·x) of a finite x (R140). -/
def cos2pi (num den : Nat) : Ex :=
  let r := num % den
  let q := 4 * r / den
  if 4 * r % den == 0 then
    match q with
    | 0 => .fin false 1 1
    | 2 => .fin true 1 1
    | _ => .fin false 0 1
  else
    let s := 4 * r - q * den
    match q with
    | 0 => cosFirst s (4 * den)
    | 1 => (sinFirst s (4 * den)).negate
    | 2 => (cosFirst s (4 * den)).negate
    | _ => sinFirst s (4 * den)

/-- 1 / sqrt(num / den), exact when the root is rational, sticky otherwise. -/
def rsqrtEx (num den : Nat) : Ex :=
  let r := isqrt (num * den)
  if r * r == num * den then .fin false r num
  else sticky false (isqrt (den * 2 ^ 512 / num)) 256

/-- L(e) of R125 as a rational: T[j] · 2^(k - 15). -/
def logL (e : Int) : Nat × Nat :=
  let k := e / 4
  let t : Nat := match (e - 4 * k).toNat with | 0 => 0x8000 | 1 => 0x9838 | 2 => 0xB505 | _ => 0xD745
  scale2 t (k - 15)

/-- The 5-bit field f of an L6 pattern as a signed integer (R125). -/
def l6Field (b : Nat) : Int := let f := b % 32; if f < 16 then (f : Int) else (f : Int) - 32

/-- `Val` of an L6 pattern (R125). R125 and R126 give no sign to a zero that meets a linear operand: it is +0 (DESIGN CHOICE, log 58). -/
def l6Val (b : Nat) : Ex :=
  if b % 64 == 0x30 then .fin false 0 1
  else let (n, d) := logL (l6Field b); .fin (b.testBit 5) n d

/-- Product of two L6 patterns (R126). -/
def l6Mul (a b : Nat) : Ex :=
  if a % 64 == 0x30 || b % 64 == 0x30 then .fin false 0 1
  else let (n, d) := logL (l6Field a + l6Field b); .fin (a.testBit 5 != b.testBit 5) n d

/-- `scale` of a scale byte (R128). -/
def scaleByte (b : Nat) : Nat × Nat := logL (if b % 256 < 128 then (b % 256 : Nat) else (b % 256 : Int) - 256)

/-- Two's complement value of the low w bits. -/
def sext (w b : Nat) : Int := let m := b % 2 ^ w; if m < 2 ^ (w - 1) then (m : Int) else (m : Int) - 2 ^ w

end Sys2Proof.Machine
end

