-- ==== Sys2Proof/Machine/Flags.lean ====
section
/-! DEFINITION. Rounding to the formats with the status flags (R131 to R137), conversions, and the flag words FCTL and FSTAT. -/

namespace Sys2Proof.Machine

/-- Flags in FSTAT order (R135): bit 5 DN, 4 IV, 3 DZ, 2 OF, 1 UF, 0 NX. -/
abbrev Flags := BitVec 6

def flagNX : Flags := 1
def flagUF : Flags := 2
def flagOF : Flags := 4
def flagDZ : Flags := 8
def flagIV : Flags := 16
def flagDN : Flags := 32

/-- A pattern with the flags its making raised. -/
abbrev Flagged (α : Type) := α × Flags

/-- Set a flag when a condition holds. -/
def flagIf (c : Bool) (f : Flags) : Flags := if c then f else 0

/-- The effective controls of a floating-point word (R132, R133). -/
structure FpCtl where
  mode : RMode
  ftz : Bool
  sat : Bool
deriving DecidableEq, Repr

/-- RND code to mode: 0 and 1 are RN-even (R71, R134). -/
def modeOf (c : Nat) : RMode :=
  match c with
  | 2 => .rz
  | 3 => .rp
  | 4 => .rm
  | 5 => .rna
  | _ => .rne

/-- Pattern of m · 2^q, a finite value of the format with q at least qmin. -/
def Fmt.pattern (f : Fmt) (neg : Bool) (m : Nat) (q : Int) : Nat :=
  (if neg then 2 ^ f.signBit else 0) + (if m == 0 then 0 else (q - f.qmin).toNat * 2 ^ f.p + m)

/-- Pattern of a zero. -/
def Fmt.zero (f : Fmt) (neg : Bool) : Nat := if neg then 2 ^ f.signBit else 0

/-- Pattern of the largest finite value. -/
def Fmt.largest (f : Fmt) (neg : Bool) : Nat := f.zero neg + f.maxBits

/-- Pattern of an infinity. -/
def Fmt.inf (f : Fmt) (neg : Bool) : Nat := f.zero neg + (2 ^ f.eb - 1) * 2 ^ f.p

/-- Mantissa and quantum of the largest finite value. -/
def Fmt.largestM (f : Fmt) : Nat × Int :=
  (f.maxBits % 2 ^ f.p + 2 ^ f.p, f.qmin + ((f.maxBits / 2 ^ f.p : Nat) : Int) - 1)

/-- `Round` of R131. -/
def roundEx (f : Fmt) (c : FpCtl) : Ex → Flagged Nat
  | .nan _ => (f.nan, 0)
  | .inf neg =>
    if c.sat then (f.largest neg, 0)
    else if f.hasInf then (f.inf neg, 0)
    else (f.nan, flagOF)
  | .fin neg num den =>
    if num == 0 then (f.zero neg, 0) else
    let e := floorLog2 num den
    let qu : Int := e - f.p
    let mu := roundUnits c.mode neg num den qu
    let (mn, dn) := scale2 mu qu
    let (ml, ql) := f.largestM
    let (nl, dl) := scale2 ml ql
    if nl * dn < mn * dl then
      if c.sat || c.mode == .rz || (c.mode == .rp && neg) || (c.mode == .rm && !neg) then (f.largest neg, flagOF ||| flagNX)
      else if f.hasInf then (f.inf neg, flagOF ||| flagNX)
      else (f.nan, flagOF ||| flagNX)
    else
      let tiny := belowValue mn dn 1 (1 - (f.bias : Int))
      if c.ftz && tiny then (f.zero neg, flagUF ||| flagNX)
      else
        let q := if qu < f.qmin then f.qmin else qu
        let m := roundUnits c.mode neg num den q
        let exact := sameValue m q num den
        (f.pattern neg m q, flagIf (!exact) (flagNX ||| flagIf tiny flagUF))

/-- RN-even with subnormals honoured and no saturation. -/
def ctlRn : FpCtl := { mode := .rne, ftz := false, sat := false }

/-- The rounding of drains and half-chains: RN-even, subnormals honoured, SAT fates (R137). -/
def ctlSat : FpCtl := { mode := .rne, ftz := false, sat := true }

/-- A source operand of a floating-point format, flushed when FTZ is in effect (R132), with the IV of a signalling NaN (R123). -/
def srcFp (f : Fmt) (c : FpCtl) (b : Nat) : Flagged Ex :=
  if c.ftz && f.subnormal b then (.fin (b.testBit f.signBit) 0 1, flagDN)
  else let x := f.val b; (x, flagIf x.isSnan flagIV)

/-- A source operand read without arithmetic meaning for NaNs: flushed, no IV. -/
def srcQuiet (f : Fmt) (c : FpCtl) (b : Nat) : Flagged Ex :=
  if c.ftz && f.subnormal b then (.fin (b.testBit f.signBit) 0 1, flagDN) else (f.val b, 0)

/-- `RoundQ823` (R130): the integer, inexact or clamped. -/
def roundQ823 : Ex → Int × Bool × Bool
  | .fin neg num den =>
    let n := roundInt .rne neg (num * 2 ^ 23) den
    let c := satN n (-(2 ^ 31)) (2 ^ 31 - 1)
    (c, (num * 2 ^ 23) % den != 0, c != n)
  | .inf neg => (if neg then -(2 ^ 31) else 2 ^ 31 - 1, false, true)
  | .nan _ => (0, false, false)

/-- Float to integer (R137): result in [lo, hi], with its flags. -/
def toInt (mode : RMode) (lo hi : Int) : Ex → Flagged Int
  | .nan _ => (0, flagIV)
  | .inf neg => (if neg then lo else hi, flagIV)
  | .fin neg num den =>
    let n := roundInt mode neg num den
    if n < lo then (lo, flagIV) else if hi < n then (hi, flagIV)
    else (n, flagIf (num % den != 0) flagNX)

/-- Conversion to L6 (R127). -/
def toL6 : Ex → Flagged Nat
  | .nan _ => (0x30, flagIV)
  | .inf neg => ((if neg then 32 else 0) + 15, flagOF ||| flagNX)
  | .fin neg num den =>
    if num == 0 then (0x30, 0) else
    -- nearest integer to 4·log2: floor(8·log2) + 1 halved
    let q := (log2Fixed (num ^ 8) (den ^ 8) 0 + 1) / 2
    let s := if neg then 32 else 0
    if 15 < q then (s + 15, flagOF ||| flagNX)
    else if q < -16 || (q == -16 && neg) then (0x30, flagUF ||| flagNX)
    else
      let (a, b) := logL q
      (s + (q % 32).toNat, flagIf (a * den != num * b) flagNX)

/-- FCTL bits 31-9 zero and RND not 6 or 7 (R134). -/
def fctlOk (v : Word32) : Bool := v.toNat < 512 && v.toNat % 8 < 6

/-- FSTAT bits 31-6 zero (R135). -/
def fstatOk (v : Word32) : Bool := v.toNat < 64

/-- Flags whose trap is enabled (R134, R136): enables of FCTL bits 8-4 in FSTAT order. -/
def trapFlags (fctl : Word32) (fl : Flags) : BitVec 5 := fctl.extractLsb' 4 5 &&& fl.extractLsb' 0 5

end Sys2Proof.Machine
end

