-- ==== Sys2Proof/Machine/Fields.lean ====
section
/-! DEFINITION. The operand fields of every instruction: which field names a source, a destination, a predicate or nothing,
and the further limits of its reference entry (R55 to R63, R78 condition 6). -/

namespace Sys2Proof

/-- Element type field of a VEC or XFN word (R60, R61). -/
def VOp.ty : VOp → BitVec 4
  | .r _ _ _ _ _ _ _ ty _ => ty
  | .i _ _ ty _ _ _ => ty

/-- Subfunction field. -/
def VOp.sub : VOp → BitVec 4
  | .r _ _ _ _ _ _ _ _ sub => sub
  | .i _ _ _ sub _ _ => sub

/-- IMM32 of the VI form, 0 in VR form. -/
def VOp.imm : VOp → Word32
  | .r .. => 0
  | .i _ _ _ _ _ imm => imm

/-- Destination field. -/
def VOp.d : VOp → RegF
  | .r d _ _ _ _ _ _ _ _ => d
  | .i d _ _ _ _ _ => d

/-- First source field. -/
def VOp.a : VOp → RegF
  | .r _ a _ _ _ _ _ _ _ => a
  | .i _ a _ _ _ _ => a

end Sys2Proof

namespace Sys2Proof.Machine

/-- What a register field names (R55, R56). -/
inductive Opd where
  /-- Unused: must be zero, kill bit clear (R59). -/
  | z
  /-- Source of n registers; 127 is the clause literal. -/
  | s (n : Nat)
  /-- Base of n source registers, where 127 is not allowed. -/
  | b (n : Nat)
  /-- First of a group of source registers whose size and place are checked at the word (R416). -/
  | g
  /-- Destination of n registers; 127 discards only when n = 1. -/
  | w (n : Nat)
  /-- Data register of a load, or destination that is also source C: 127 discards at any width (R61, R63). -/
  | wd (n : Nat)
  /-- Predicate. -/
  | p
  /-- Uniform register, or pair of them. -/
  | u (n : Nat)
deriving DecidableEq, Repr

/-- Does an aligned group of n registers start at f (R56)? -/
def baseOk (n : Nat) (f : RegF) : Bool := f.toNat % n == 0 && f.toNat + n ≤ 127

/-- Range, alignment and kill-bit rules of one field (R55, R56, R58, R59). -/
def Opd.ok (k : Opd) (f : RegF) (kill : Bool) : Bool :=
  match k with
  | .z => f == 0 && !kill
  | .s 1 => !(kill && f == 127)
  | .s n => (baseOk n f || f == 127) && !(kill && f == 127)
  | .b n => baseOk n f
  | .g => !(kill && f == 127)
  | .w 1 => !kill
  | .w n => baseOk n f && !kill
  | .wd 1 => !kill
  | .wd n => (baseOk n f || f == 127) && !kill
  | .p => f.toNat ≤ 15 && !kill
  | .u n => f.toNat ≤ 31 && f.toNat % n == 0 && !kill

/-- One field of an instruction: what it names, its value and its kill bit. -/
structure Fld where
  kind : Opd
  f : RegF
  kill : Bool
deriving DecidableEq, Repr

/-- How a VEC or XFN base instruction uses its fields: forms, legal TYPE and SUB, operands, legal prefix fields. -/
structure VSpec where
  ok : Bool
  vr : Bool := true
  vi : Bool := true
  d : Opd
  a : Opd
  b : Opd := .z
  c : Opd := .z
  rnd : Bool := false
  ftz : Bool := false
  sat : Bool := false
  immOk : Bool := true
deriving DecidableEq, Repr

/-- Registers per operand of an element type: 2 for SI64, UI64 and F64 (R70, R333). -/
def tyRegs (ty : BitVec 4) : Nat := if ty == 2 || ty == 3 || ty == 5 then 2 else 1

def tyInt (ty : BitVec 4) : Bool := ty.toNat < 4
def tyFp (ty : BitVec 4) : Bool := 4 ≤ ty.toNat && ty.toNat < 8
def tyPackInt (ty : BitVec 4) : Bool := 8 ≤ ty.toNat && ty.toNat < 12

/-- The VEC entry of an integer instruction with two sources (R384). -/
def vsInt (o : VOp) (packed : Bool) (c : Bool) (sat : Bool) : VSpec :=
  let n := tyRegs (o.ty)
  { ok := (tyInt (o.ty) || (packed && tyPackInt (o.ty))) && o.sub == 0
    d := .w n, a := .s n, b := .s n, c := if c then .s n else .z, sat := sat }

/-- The VEC entry of a bitwise instruction with two sources (R334, R336, R409). -/
def vsBit (o : VOp) : VSpec :=
  let n := tyRegs (o.ty)
  { ok := tyInt (o.ty) && (o.sub).toNat ≤ 1, d := .w n, a := .s n, b := .s n }

/-- The entry of a one-source VR instruction on integers (R356, R363, R414). -/
def vsUn (o : VOp) : VSpec :=
  let n := tyRegs (o.ty)
  { ok := tyInt (o.ty) && o.sub == 0, vi := false, d := .w n, a := .s n }

/-- Shifts (R427). -/
def vsShift (o : VOp) (types : List (BitVec 4)) : VSpec :=
  let n := tyRegs (o.ty)
  { ok := types.contains (o.ty) && o.sub == 0, d := .w n, a := .s n, b := .s 1
    immOk := (o.imm).toNat < 256 }

/-- Floating-point arithmetic (R375). -/
def vsFp (o : VOp) (c arith : Bool) : VSpec :=
  let n := tyRegs (o.ty)
  { ok := tyFp (o.ty) && o.sub == 0, d := .w n, a := .s n, b := .s n, c := if c then .s n else .z
    rnd := arith, ftz := true, sat := arith }

/-- XFN instructions of VR form with one FP32 source (R374, R419). -/
def vsXfn (o : VOp) (rnd sat : Bool) : VSpec :=
  { ok := o.ty == 4 && o.sub == 0, vi := false, d := .w 1, a := .s 1, rnd := rnd, ftz := true, sat := sat }

/-- FCVT by SUB: TYPE, operand shapes and prefix fields (R378). -/
def vsFcvt (o : VOp) : VSpec :=
  let mk (ty : BitVec 4) (a d : Nat) (b rnd sat : Bool) : VSpec :=
    { ok := o.ty == ty, vi := false, d := .w d, a := if a == 4 then .b 4 else .s a
      b := if b then .s 1 else .z, rnd := rnd, ftz := o.sub != 11, sat := sat }
  match (o.sub).toNat with
  | 0 => mk 5 2 1 false true true
  | 1 => mk 4 1 2 false false false
  | 2 => mk 4 1 1 true true true
  | 3 => mk 4 1 1 true true true
  | 4 => mk 6 1 2 false false false
  | 5 => mk 7 1 2 false false false
  | 6 => mk 4 4 1 false true true
  | 7 => mk 4 4 1 false true true
  | 8 => mk 11 1 4 false false false
  | 9 => mk 11 1 4 false false false
  | 10 => mk 4 1 1 false false false
  | 11 => mk 1 1 1 false false false
  | 12 => mk 4 1 1 false true false
  | 13 => mk 4 1 1 false true false
  | 14 => mk 5 2 2 false true false
  | _ => mk 5 2 2 false true false

/-- ICVT by SUB (R387). -/
def vsIcvt (o : VOp) : VSpec :=
  let mk (ty : BitVec 4) (a d : Nat) (rnd sat : Bool) : VSpec :=
    { ok := o.ty == ty, vi := false, d := .w d, a := .s a, rnd := rnd, ftz := o.sub.toNat < 8, sat := sat }
  match (o.sub).toNat with
  | 0 => mk 0 1 1 true false
  | 1 => mk 1 1 1 true false
  | 2 => mk 0 1 2 false false
  | 3 => mk 1 1 2 false false
  | 4 => mk 2 2 1 true false
  | 5 => mk 3 2 1 true false
  | 6 => mk 2 2 2 true false
  | 7 => mk 3 2 2 true false
  | 8 => mk 0 1 2 false false
  | 9 => mk 1 1 2 false false
  | 10 => mk 2 2 1 false true
  | 11 => mk 3 2 1 false true
  | _ => { ok := false, d := .z, a := .z }

/-- The VEC or XFN entry of an instruction with its operands; none for every other format. -/
def vecSpec (i : Instr) : Option (VOp × VSpec) :=
  let two (o : VOp) : Bool := o.ty == 1 || o.ty == 3
  match i with
  | .iadd o => some (o, vsInt o true false true)
  | .isub o => some (o, vsInt o true false true)
  | .imul o => some (o, vsInt o false false true)
  | .imulh o => some (o, vsInt o false false false)
  | .imad o => some (o, vsInt o false true true)
  | .imin o => some (o, vsInt o true false false)
  | .imax o => some (o, vsInt o true false false)
  | .iabs o => some (o, { vsInt o false false true with ok := [0, 2, 8, 10].contains (o.ty).toNat && o.sub == 0, vi := false, b := .z })
  | .iadc o => some (o, { ok := two o, d := .w (tyRegs (o.ty)), a := .s (tyRegs (o.ty)), b := .s (tyRegs (o.ty)) })
  | .icmp o => some (o, { ok := tyInt (o.ty) && (o.sub).toNat ≤ 5, d := .p, a := .s (tyRegs (o.ty)), b := .s (tyRegs (o.ty)) })
  | .lea o => some (o, { ok := (o.ty).toNat ≤ 1, d := .w 2, a := .s 2, b := .s 1 })
  | .and o => some (o, vsBit o)
  | .or o => some (o, vsBit o)
  | .xor o => some (o, vsBit o)
  | .shl o => some (o, vsShift o [0, 1, 2, 3])
  | .shr o => some (o, vsShift o [0, 1, 2, 3])
  | .sar o => some (o, vsShift o [0, 2])
  | .bfe o => some (o, { ok := tyInt (o.ty) && o.sub == 0, d := .w (tyRegs (o.ty)), a := .s (tyRegs (o.ty)), b := .s 1, immOk := (o.imm).toNat < 65536 })
  | .bfi o => some (o, { ok := tyInt (o.ty) && o.sub == 0, d := .w (tyRegs (o.ty)), a := .s (tyRegs (o.ty)), b := .s 1, c := .s (tyRegs (o.ty)), immOk := (o.imm).toNat < 65536 })
  | .popc o => some (o, vsUn o)
  | .clz o => some (o, vsUn o)
  | .brev o => some (o, vsUn o)
  | .fadd o => some (o, vsFp o false true)
  | .fsub o => some (o, vsFp o false true)
  | .fmul o => some (o, vsFp o false true)
  | .ffma o => some (o, vsFp o true true)
  | .fmin o => some (o, vsFp o false false)
  | .fmax o => some (o, vsFp o false false)
  | .fminn o => some (o, vsFp o false false)
  | .fmaxn o => some (o, vsFp o false false)
  | .fcmp o => some (o, { ok := (o.ty == 4 || o.ty == 5) && (o.sub).toNat < 8, d := .p, a := .s (tyRegs (o.ty)), b := .s (tyRegs (o.ty)), ftz := true })
  | .fclass o => some (o, { ok := (o.ty == 4 || o.ty == 5) && o.sub == 0, vi := false, d := .w 1, a := .s (tyRegs (o.ty)) })
  | .frnd o => some (o, { ok := tyFp (o.ty) && o.sub == 0, vi := false, d := .w (tyRegs (o.ty)), a := .s (tyRegs (o.ty)), rnd := true, ftz := true })
  | .frndX o => some (o, { ok := tyFp (o.ty) && o.sub == 1, vi := false, d := .w (tyRegs (o.ty)), a := .s (tyRegs (o.ty)), rnd := true, ftz := true })
  | .fcvt o => some (o, vsFcvt o)
  | .icvt o => some (o, vsIcvt o)
  | .dsubs o => some (o, { ok := o.ty == 5 && o.sub == 0, d := .w 1, a := .s 2, b := .s 2, rnd := true, ftz := true, sat := true })
  | .mov o => some (o, { ok := two o && (o.sub).toNat ≤ 1, vi := false, d := .w (tyRegs (o.ty)), a := if o.sub == 0 then .s (tyRegs (o.ty)) else .u (tyRegs (o.ty)) })
  | .movi o => some (o, { ok := [1, 2, 3].contains (o.ty).toNat && o.sub == 0, vr := false, d := .w (tyRegs (o.ty)), a := .z })
  | .sel o => some (o, { ok := two o, d := .w (tyRegs (o.ty)), a := .s (tyRegs (o.ty)), b := .s (tyRegs (o.ty)) })
  | .plop o => some (o, { ok := o.ty == 1 && o.sub == 0, vr := false, d := .p, a := .p, immOk := (o.imm).toNat < 65536 })
  | .pmov o => some (o, { ok := o.ty == 1 && (o.sub).toNat < 4, vi := false, d := (match (o.sub).toNat with | 0 => .w 1 | 1 => .z | 2 => .p | _ => .w 1), a := (match (o.sub).toNat with | 0 => .z | 1 => .s 1 | 2 => .s 1 | _ => .p) })
  | .perm o => some (o, { ok := two o && (o.sub).toNat < 4, vi := false, d := .w (tyRegs (o.ty)), a := .s (tyRegs (o.ty)), b := .s 1 })
  | .bcst o => some (o, { ok := two o && o.sub == 0, vi := false, d := .w (tyRegs (o.ty)), a := .s (tyRegs (o.ty)), b := .s 1 })
  | .vote o => some (o, { ok := o.ty == 1 && (o.sub).toNat < 4, vi := false, d := if (o.sub).toNat == 3 then .w 1 else .p, a := .p })
  | .redx o => some (o, { ok := (o.ty).toNat < 6 && (o.sub).toNat < 5 && !(4 ≤ (o.ty).toNat && 3 ≤ (o.sub).toNat), vi := false, d := .w (tyRegs (o.ty)), a := .s (tyRegs (o.ty)), rnd := 4 ≤ (o.ty).toNat, ftz := 4 ≤ (o.ty).toNat })
  | .scanx o => some (o, { ok := (o.ty).toNat < 6 && (o.sub).toNat < 5 && !(4 ≤ (o.ty).toNat && 3 ≤ (o.sub).toNat), vi := false, d := .w (tyRegs (o.ty)), a := .s (tyRegs (o.ty)), rnd := 4 ≤ (o.ty).toNat, ftz := 4 ≤ (o.ty).toNat })
  | .match o => some (o, { ok := two o && (o.sub).toNat < 2, vi := false, d := .w 1, a := .s (tyRegs (o.ty)) })
  | .xeq o => some (o, { ok := o.ty == 0 && o.sub == 0, vi := false, d := .z, a := .b 2 })
  | .logc o => some (o, { ok := o.ty == 4, vi := false, d := .w 1, a := .s 1, ftz := true })
  | .expc o => some (o, vsXfn o true true)
  | .lscl o => some (o, { ok := o.ty == 0 && o.sub == 0, d := .w 1, a := .s 1, b := .s 1, immOk := (o.imm).toNat < 65536 && (o.imm).toNat % 256 != 0 })
  | .fsin o => some (o, vsXfn o true false)
  | .fcos o => some (o, vsXfn o true false)
  | .actv o => some (o, { vsXfn o true true with ok := o.ty == 4 && (o.sub).toNat < 5 })
  | .rcp o => some (o, vsXfn o true true)
  | .rsq o => some (o, vsXfn o true true)
  | _ => none

/-- The register fields of a VR or VI word under its entry; in VI form source C of a three-source instruction is the
destination's prior value, or the literal where D is 127 (R61). -/
def VSpec.flds (sp : VSpec) : VOp → List Fld
  | .r d a b c ka kb kc _ _ => [⟨sp.d, d, false⟩, ⟨sp.a, a, ka⟩, ⟨sp.b, b, kb⟩, ⟨sp.c, c, kc⟩]
  | .i d a _ _ ka _ => match sp.c with
    | .s n => [⟨.wd n, d, false⟩, ⟨sp.a, a, ka⟩, ⟨.s n, d, false⟩]
    | _ => [⟨sp.d, d, false⟩, ⟨sp.a, a, ka⟩]

/-- Registers of a data operand by WIDTH (R62). -/
def widthRegs (w : BitVec 3) : Nat := if w == 4 then 4 else if w == 3 then 2 else 1

/-- AOP of ATOM and RED (bits 23-20 of the offset) and of ATOMS (bits 20-17) (R339). -/
def aopOf (scratch : Bool) (off : BitVec 24) : Nat :=
  if scratch then (off.extractLsb' 17 4).toNat else (off.extractLsb' 20 4).toNat

/-- COP of CCTL (R361). -/
def copOf (off : BitVec 24) : Nat := (off.extractLsb' 20 4).toNat

/-- CR is zero when PEER is zero (R62). -/
def peerOk (off : BitVec 24) : Bool := off.getLsbD 23 || off.extractLsb' 21 2 == 0

/-- SCOPE is a code 0-5 and is zero on a plain access (R62, R63, R340). -/
def scopeOk (o : MrOp) : Bool := o.scope.toNat ≤ 5 && !(o.ord == 0 && o.scope != 0)

/-- The data group of an atomic or reduction (R340, R420). -/
def atomData (aop : Nat) (o : MrOp) : Opd :=
  if aop == 9 then (if o.width == 2 then .b 2 else .b 4)
  else if o.width == 2 then .s 1 else .s 2

/-- The register fields of an instruction. -/
def flds (i : Instr) : List Fld :=
  let v (o : VOp) (sp : VSpec) : List Fld := sp.flds o
  let ag (d a b : Opd) (o : AgOp) : List Fld := [⟨d, o.d, o.kd⟩, ⟨a, o.a, o.ka⟩, ⟨b, o.b, o.kb⟩]
  let mx (d a : Opd) (o : MxOp) : List Fld := [⟨d, o.d, o.kd⟩, ⟨a, o.a, o.ka⟩]
  let mr (d a : Opd) (o : MrOp) : List Fld := [⟨d, o.d, o.kd⟩, ⟨a, o.a, o.ka⟩]
  let ct (a : Opd) (o : CtOp) : List Fld := [⟨a, o.a, false⟩]
  let sy (d a : Opd) (o : SyOp) : List Fld := [⟨d, o.d, false⟩, ⟨a, o.a, o.ka⟩]
  match vecSpec i with
  | some (o, sp) => v o sp
  | none =>
  match i with
  | .bra o => ct .z o
  | .brx o => ct (.b 2) o
  | .call o => ct .z o
  | .callx o => ct (.b 2) o
  | .ret o => ct .z o
  | .exit o => ct .z o
  | .switch o => ct (.s 1) o
  | .loop o => ct (if o.sub12.getLsbD 11 then .s 1 else .z) o
  | .lpop o => ct .z o
  | .lpopDrop o => ct .z o
  | .yield o => ct .z o
  | .waittAbs o => ct (.s 2) o
  | .waittRel o => ct .z o
  | .ld o => mr (.wd (widthRegs o.width)) (.s 2) o
  | .lds o => mr (.wd (widthRegs o.width)) (.s 1) o
  | .ldw o => mr (.wd (widthRegs o.width)) (.s 1) o
  | .st o => mr (if o.width == 4 then .b 4 else .s (widthRegs o.width)) (.s 2) o
  | .sts o => mr (if o.width == 4 then .b 4 else .s (widthRegs o.width)) (.s 1) o
  | .atom o => mr (atomData (aopOf false o.off) o) (.s 2) o
  | .atoms o => mr (atomData (aopOf true o.off) o) (.s 1) o
  | .red o => mr (atomData 0 o) (.s 2) o
  | .fence o => mr .z .z o
  | .cctlWb o => mr .z (.s 2) o
  | .cctlWbinv o => mr .z (.s 2) o
  | .cctlIinv o => mr .z (.s 2) o
  | .cctlPf o => mr .z (.s 2) o
  | .cctlWball o => mr .z .z o
  | .cctlIinvall o => mr .z .z o
  | .samp o => mr (.w 4) (.b 8) o
  | .wset o => mr (.s (widthRegs o.width)) .z o
  | .cpy o => ag .z (.s 1) .z o
  | .cpys o => ag .z (.s 1) .z o
  | .cseal o => ag .z .z .z o
  | .cwaitRel o => ag .z .z .z o
  | .cwaitLnd o => ag .z .z .z o
  | .town o => ag .z .z .z o
  | .binit o => ag (.s 2) (.s 1) (.s 1) o
  | .barv o => ag .z (.s 1) (if o.sub6 == 1 then .s 1 else .z) o
  | .bwait o => ag .z (.s 1) (if o.sub6 == 1 then .s 1 else .z) o
  | .bsync o => ag .z (.s 1) .z o
  | .tspawn o => ag .z (.s 1) .z o
  | .qinit o => ag (.b 4) (.s 1) (.s 1) o
  | .qpush o => ag .g (.s 1) .z o
  | .qpushC o => ag .g (.s 1) .z o
  | .qpushAmp o => ag .g (.s 1) (.s 1) o
  | .qpushClose o => ag .z (.s 1) .z o
  | .qpop o => ag .z (.s 1) (.s 1) o
  | .qpopE o => ag .p (.s 1) (.s 1) o
  | .rast o => ag (.w 1) (.s 1) (.s 1) o
  | .bina o => ag .z (.s 1) (.s 1) o
  | .binaClr o => ag .z (.s 1) .z o
  | .occr o => ag (.w 1) (.s 1) .z o
  | .occrClr o => ag (.w 1) (.s 1) .z o
  | .rgacq o => ag (.w 1) (.s 1) .z o
  | .rgrelPub o => ag .z (.s 1) .z o
  | .rgrelRel o => ag .z (.s 1) .z o
  | .rghold o => ag .z (.s 1) (.s 1) o
  | .macq o => mx .p (.s 1) o
  | .mrel o => mx .z .z o
  | .mma o => mx .z (.s 1) o
  | .mzero o => mx .z (.s 1) o
  | .mdrn o => mx .z (.s 1) o
  | .mlda o => mx .z (.s 1) o
  | .apop o => mx (.w 2) .z o
  | .geval o => mx .z (.s 1) o
  | .gcfg o => mx .z (.b 2) o
  | .sread o => sy (if [0x20, 0x22, 0x33].contains o.sub12.toNat then .w 2 else .w 1) .z o
  | .swrite o => sy .z (.s 1) o
  | .trap o => sy .z .z o
  | .tret o => sy .z .z o
  | .tretEnd o => sy .z .z o
  | .bkpt o => sy .z .z o
  | .tlbiPage o => sy .z (.s 2) o
  | .tlbiAsid o => sy .z .z o
  | .tlbiAll o => sy .z .z o
  | .ctxsvCopy o => sy (.w 1) (.b 4) o
  | .ctxsvRel o => sy (.w 1) (.b 4) o
  | .ctxsvWg o => sy (.w 1) (.b 4) o
  | .ctxldRegs o => sy (.w 1) (.b 4) o
  | .ctxldFull o => sy (.w 1) (.b 4) o
  | .ctxldWg o => sy (.w 1) (.b 4) o
  | .roleq o => sy (.w 1) (if o.sub12 == 2 || o.sub12 == 3 then .s 1 else .z) o
  | _ => []

/-- Special register numbers that SREAD may name (R429). -/
def sregKnown (n : Nat) : Bool :=
  n ≤ 0x15 || [0x20, 0x21, 0x22, 0x30, 0x31, 0x32, 0x33, 0x40, 0x41, 0x42, 0x50, 0x51, 0x52, 0x53, 0x60, 0x70, 0x71].contains n

/-- Operand formats and modes that MMA allows together (R219). -/
def mmaPair (fa fb mode : Nat) : Bool :=
  (fa ≤ 1 && fb ≤ 1 && (mode == 1 || mode == 2)) ||
  (mode == 0 && ((fa == 2 || fa == 3) && (fb == 2 || fb == 3) || (4 ≤ fa && fa ≤ 6 && fa == fb)))

/-- Drain targets by mode (R237, R401). -/
def drainTarget (mode fb : Nat) : Bool :=
  mode ≤ 2 && ([7, 5, 6, 2, 3].contains fb || (mode != 0 && [10, 0, 1].contains fb))

/-- The limits of an entry on the fields that name no register. -/
def restOk (i : Instr) : Bool :=
  let ag0 (o : AgOp) : Bool := o.scope == 0 && o.ord == 0
  let mx0 (o : MxOp) : Bool := o.bsl == 0 && o.mode == 0 && !o.q && o.fa == 0 && o.fb == 0 && o.sub6 == 0 && o.imm == 0
  let mrz (o : MrOp) : Bool := o.width == 0 && !o.sx && o.ord == 0 && o.scope == 0
  let cc (o : MrOp) (k : Nat) : Bool := copOf o.off == k && mrz o
  match i with
  | .bra o => o.sub12 == 0
  | .brx o => o.sub12 == 0
  | .call o => o.sub12 == 0
  | .callx o => o.sub12 == 0
  | .ret o => o.sub12 == 0 && o.off == 0
  | .exit o => o.sub12 == 0 && o.off == 0
  | .switch o => o.sub12.toNat < 32
  | .loop o => !(o.sub12.getLsbD 11 && o.sub12.extractLsb' 0 11 != 0)
  | .lpop o => o.sub12 == 0 && o.off == 0
  | .lpopDrop o => o.sub12 == 1 && o.off == 0
  | .yield o => o.sub12 == 0 && o.off == 0
  | .waittAbs o => o.sub12 == 0 && o.off == 0
  | .waittRel o => o.sub12 == 1
  | .ld o => scopeOk o && o.ord.toNat ≤ 1 && o.pol.toNat ≤ 2 && o.width.toNat ≤ 4 && (!o.sx || o.width.toNat ≤ 1)
  | .lds o => scopeOk o && o.ord.toNat ≤ 1 && o.pol == 0 && o.width.toNat ≤ 4 && (!o.sx || o.width.toNat ≤ 1) && peerOk o.off
  | .st o => scopeOk o && (o.ord == 0 || o.ord == 2) && o.pol.toNat ≤ 2 && o.width.toNat ≤ 4 && !o.sx
  | .sts o => scopeOk o && (o.ord == 0 || o.ord == 2) && o.pol == 0 && o.width.toNat ≤ 4 && !o.sx && peerOk o.off
  | .atom o => scopeOk o && o.pol.toNat ≤ 2 && !o.sx && !o.kd && aopOf false o.off != 15 &&
      (o.width == 2 || (o.width == 3 && aopOf false o.off != 10 && aopOf false o.off != 11))
  | .atoms o => scopeOk o && o.pol == 0 && !o.sx && !o.kd && aopOf true o.off != 15 && peerOk o.off &&
      (o.width == 2 || (o.width == 3 && aopOf true o.off != 10 && aopOf true o.off != 11))
  | .red o => scopeOk o && (o.ord == 0 || o.ord == 2) && o.pol.toNat ≤ 2 && !o.sx && (o.width == 2 || o.width == 3) &&
      (aopOf false o.off ≤ 7 || (12 ≤ aopOf false o.off && aopOf false o.off ≤ 14))
  | .fence o => scopeOk o && o.pol == 0 && o.width == 0 && !o.sx && o.off == 0
  | .cctlWb o => cc o 0 && o.pol == 0
  | .cctlWbinv o => cc o 1 && o.pol == 0
  | .cctlIinv o => cc o 2 && o.pol == 0
  | .cctlWball o => cc o 3 && o.pol == 0
  | .cctlIinvall o => cc o 4 && o.pol == 0
  | .cctlPf o => cc o 5 && o.pol.toNat ≤ 1
  | .samp o => o.width == 4 && o.pol == 0 && o.scope == 0 && o.ord == 0 && !o.sx && o.off.toNat ≤ 1
  | .ldw o => o.scope == 0 && o.ord == 0 && o.pol == 0 && o.width.toNat ≤ 4 && (!o.sx || o.width.toNat ≤ 1)
  | .wset o => (o.width == 2 || o.width == 3) && o.scope == 0 && o.ord == 0 && o.pol == 0 && !o.sx &&
      16 ≤ o.off.toNat && o.off.toNat < 32 && (o.width == 2 || o.off.toNat % 2 == 0)
  | .cpy o => ag0 o && o.sub6 == 0 && o.imm == 0
  | .cpys o => ag0 o && o.sub6 == 0 && o.imm == 0
  | .cseal o => ag0 o && o.sub6 == 0 && o.imm == 0
  | .cwaitRel o => o.scope.toNat ≤ 5 && o.ord == 0 && o.sub6 == 0 && o.imm.toNat ≤ 63
  | .cwaitLnd o => o.scope.toNat ≤ 5 && o.ord == 0 && o.sub6 == 1 && o.imm.toNat ≤ 63
  | .town o => ag0 o && o.sub6.toNat < 4 && o.imm.toNat < 4096
  | .binit o => o.scope.toNat ≤ 5 && o.ord == 0 && o.sub6 == 0 && o.imm == 0
  | .barv o => o.scope.toNat ≤ 5 && o.ord == 0 && ((o.sub6 == 0 && o.imm != 0) || (o.sub6 == 1 && o.imm == 0))
  | .bwait o => o.scope.toNat ≤ 5 && o.ord == 0 && ((o.sub6 == 0 && o.imm.toNat ≤ 1) || (o.sub6 == 1 && o.imm == 0))
  | .bsync o => o.scope.toNat ≤ 5 && o.ord == 0 && o.sub6 == 0 && o.imm == 0
  | .tspawn o => ag0 o && o.sub6 == 0 && o.imm == 0
  | .qinit o => ag0 o && o.sub6 == 0 && o.imm == 0
  | .qpush o => ag0 o && o.sub6 == 0 && o.imm == 0
  | .qpushC o => ag0 o && o.sub6 == 1 && o.imm == 0
  | .qpushAmp o => ag0 o && o.sub6 == 2 && o.imm != 0 && o.imm.toNat < 256
  | .qpushClose o => ag0 o && o.sub6 == 3 && o.imm == 0
  | .qpop o => ag0 o && o.sub6 == 0 && o.imm == 0
  | .qpopE o => ag0 o && o.sub6 == 1 && o.imm == 0
  | .rast o => ag0 o && !o.kd && o.sub6 == 0 && 1 ≤ o.imm.toNat && o.imm.toNat ≤ 64
  | .bina o => ag0 o && o.sub6 == 0 && o.imm.toNat < 16
  | .binaClr o => ag0 o && o.sub6 == 1 && o.imm.toNat < 16
  | .occr o => ag0 o && o.sub6 == 0 && o.imm == 0
  | .occrClr o => ag0 o && o.sub6 == 1 && o.imm == 0
  | .rgacq o => ag0 o && o.sub6.toNat ≤ 1 && o.imm == 0
  | .rgrelPub o => ag0 o && o.sub6 == 0 && o.imm == 0
  | .rgrelRel o => ag0 o && o.sub6 == 1 && o.imm == 0
  | .rghold o => ag0 o && o.sub6 == 0 && o.imm == 0
  | .macq o => mx0 o
  | .mrel o => mx0 o
  | .mma o => mmaPair o.fa.toNat o.fb.toNat o.mode.toNat && o.sub6.toNat < 4 && (o.sub6.getLsbD 1 || o.imm.toNat < 4096)
  | .mzero o => o.bsl == 0 && o.mode == 0 && !o.q && o.fa == 0 && o.fb == 0 && o.sub6.toNat < 2 && o.imm == 0
  | .mdrn o => drainTarget o.mode.toNat o.fb.toNat && (o.fb.toNat ≤ 1 || o.imm == 0) && o.bsl == 0 && !o.q && o.fa == 0 && o.sub6 == 0
  | .mlda o => (o.fb == 7 || o.fb == 10) && o.bsl == 0 && o.mode == 0 && !o.q && o.fa == 0 && o.sub6 == 0 && o.imm == 0
  | .apop o => mx0 o
  | .geval o => o.bsl == 0 && o.mode == 0 && o.fa == 0 && o.fb == 0 && o.sub6 == 0 && o.imm == 0
  | .gcfg o => mx0 o
  | .sread o => sregKnown o.sub12.toNat && (if o.sub12 == 0x60 then o.imm.toNat < 8 else o.imm == 0)
  | .swrite o => (o.sub12 == 0x40 || o.sub12 == 0x41) && o.imm == 0
  | .trap o => o.sub12 == 0
  | .tret o => o.sub12 == 0 && o.imm == 0
  | .tretEnd o => o.sub12 == 1 && o.imm == 0
  | .bkpt o => o.imm == 0
  | .tlbiPage o => o.sub12 == 0
  | .tlbiAsid o => o.sub12 == 1
  | .tlbiAll o => o.sub12 == 2 && o.imm == 0
  | .ctxsvCopy o => o.sub12 == 0 && o.imm == 0
  | .ctxsvRel o => o.sub12 == 1 && o.imm == 0
  | .ctxsvWg o => o.sub12 == 2 && o.imm == 0
  | .ctxldRegs o => o.sub12 == 0 && o.imm == 0
  | .ctxldFull o => o.sub12 == 1 && o.imm == 0
  | .ctxldWg o => o.sub12 == 2 && o.imm == 0
  | .roleq o => o.sub12.toNat < 4 && o.imm == 0
  | _ => true

/-- Form, TYPE, SUB and immediate limits of a VEC or XFN word (R70, R78 condition 6). -/
def VSpec.formOk (sp : VSpec) (o : VOp) : Bool :=
  sp.ok && (match o with | .r .. => sp.vr | .i .. => sp.vi && sp.immOk)

/-- The fields of an instruction obey R55 to R63 and its reference entry (R78 condition 6, without the conditions that
depend on the clause). -/
def fieldsOk (i : Instr) : Bool :=
  (flds i).all (fun x => x.kind.ok x.f x.kill) && restOk i &&
  (match vecSpec i with | some (o, sp) => sp.formOk o | none => true)

/-- Source fields that read the clause literal (R49, R55). -/
def usesLit (i : Instr) : Bool :=
  (flds i).any fun x => match x.kind with | .s _ => x.f == 127 | _ => false

/-- Registers an instruction reads, for the operand interlock and refill (R47, R101). -/
def srcRegs (i : Instr) : List Nat :=
  (flds i).flatMap fun x => match x.kind with
    | .s n => if x.f == 127 then [] else (List.range n).map (x.f.toNat + ·)
    | .b n => (List.range n).map (x.f.toNat + ·)
    | .g => if x.f == 127 then [] else [x.f.toNat]
    | _ => []

/-- Registers an instruction writes. -/
def dstRegs (i : Instr) : List Nat :=
  (flds i).flatMap fun x => match x.kind with
    | .w n => if x.f == 127 then [] else (List.range n).map (x.f.toNat + ·)
    | .wd n => if x.f == 127 then [] else (List.range n).map (x.f.toNat + ·)
    | _ => []

/-- Registers whose kill bit is set (R58). -/
def killRegs (i : Instr) : List Nat :=
  (flds i).flatMap fun x => if x.kill then (match x.kind with
    | .s n => (List.range n).map (x.f.toNat + ·)
    | .b n => (List.range n).map (x.f.toNat + ·)
    | .g => [x.f.toNat]
    | _ => []) else []

end Sys2Proof.Machine
end

