-- ==== Sys2Proof/WellFormed.lean ====
section
/-! DEFINITION. When an instruction is well formed: its fields obey the operand rules and the limits of its reference entry. -/

namespace Sys2Proof

/-- The fields of an instruction obey R55 to R63 and its reference entry. Device events, which have no fields of a word, are
well formed. What depends on the clause (placement, literal, prefix fit) is checked at the word (R78). -/
def Instr.wellFormed (i : Instr) : Bool := Machine.fieldsOk i

end Sys2Proof
end

