-- ==== Sys2Proof/Decode.lean ====
section
/-! DEFINITION. The encodings of R60 to R76: the decoder of an instruction word, total on every word, and the encoder. -/

namespace Sys2Proof

/-- Why a word is no instruction (R78, conditions 4 and 6). -/
inductive DecodeError where
  /-- Unassigned opcode (R75). -/
  | illegalOp
  /-- A field of the word breaks its format or its entry (R59 to R74). -/
  | illegalField
  /-- Fewer than eight bytes. -/
  | short
deriving DecidableEq, Repr

/-- VR word (R60) or VI word (R61). -/
def packV (op : BitVec 8) : VOp → Word64
  | .r d a b c ka kb kc ty sub => op ++ 0#1 ++ d ++ a ++ b ++ c ++ BitVec.ofBool ka ++ BitVec.ofBool kb ++ BitVec.ofBool kc ++ ty ++ sub ++ 0#16
  | .i d a ty sub ka imm => op ++ 1#1 ++ d ++ a ++ ty ++ sub ++ BitVec.ofBool ka ++ imm

/-- MR word (R62). -/
def packMr (op : BitVec 8) (o : MrOp) : Word64 :=
  op ++ o.d ++ o.a ++ o.g ++ BitVec.ofBool o.gn ++ o.scope ++ o.ord ++ o.pol ++ o.width ++ BitVec.ofBool o.sx ++ BitVec.ofBool o.ka ++ BitVec.ofBool o.kd ++ o.off

/-- CT word (R64). -/
def packCt (op : BitVec 8) (o : CtOp) : Word64 :=
  op ++ o.g ++ BitVec.ofBool o.gn ++ o.a ++ o.sub12 ++ o.off

/-- AS or GX word (R66). -/
def packAg (op : BitVec 8) (o : AgOp) : Word64 :=
  op ++ o.d ++ o.a ++ o.g ++ BitVec.ofBool o.gn ++ o.scope ++ o.ord ++ o.b ++ BitVec.ofBool o.kd ++ BitVec.ofBool o.ka ++ BitVec.ofBool o.kb ++ o.sub6 ++ o.imm

/-- MX word (R67). -/
def packMx (op : BitVec 8) (o : MxOp) : Word64 :=
  op ++ o.d ++ o.a ++ o.g ++ BitVec.ofBool o.gn ++ o.bsl ++ o.mode ++ BitVec.ofBool o.q ++ o.fa ++ o.fb ++ BitVec.ofBool o.ka ++ BitVec.ofBool o.kd ++ o.sub6 ++ o.imm

/-- SY word (R68). -/
def packSy (op : BitVec 8) (o : SyOp) : Word64 :=
  op ++ o.g ++ BitVec.ofBool o.gn ++ o.a ++ o.sub12 ++ o.d ++ BitVec.ofBool o.ka ++ 0#8 ++ o.imm

/-- Fields of a VR or VI word. -/
def readV (w : Word64) : VOp :=
  if w.getLsbD 55 then
    .i (w.extractLsb' 48 7) (w.extractLsb' 41 7) (w.extractLsb' 37 4) (w.extractLsb' 33 4) (w.getLsbD 32) (w.extractLsb' 0 32)
  else
    .r (w.extractLsb' 48 7) (w.extractLsb' 41 7) (w.extractLsb' 34 7) (w.extractLsb' 27 7) (w.getLsbD 26) (w.getLsbD 25)
      (w.getLsbD 24) (w.extractLsb' 20 4) (w.extractLsb' 16 4)

/-- Fields of an MR word. -/
def readMr (w : Word64) : MrOp :=
  { d := w.extractLsb' 49 7, a := w.extractLsb' 42 7, g := w.extractLsb' 38 4, gn := w.getLsbD 37, scope := w.extractLsb' 34 3
    ord := w.extractLsb' 32 2, pol := w.extractLsb' 30 2, width := w.extractLsb' 27 3, sx := w.getLsbD 26, ka := w.getLsbD 25
    kd := w.getLsbD 24, off := w.extractLsb' 0 24 }

/-- Fields of a CT word. -/
def readCt (w : Word64) : CtOp :=
  { g := w.extractLsb' 52 4, gn := w.getLsbD 51, a := w.extractLsb' 44 7, sub12 := w.extractLsb' 32 12, off := w.extractLsb' 0 32 }

/-- Fields of an AS or GX word. -/
def readAg (w : Word64) : AgOp :=
  { d := w.extractLsb' 49 7, a := w.extractLsb' 42 7, g := w.extractLsb' 38 4, gn := w.getLsbD 37, scope := w.extractLsb' 34 3
    ord := w.extractLsb' 32 2, b := w.extractLsb' 25 7, kd := w.getLsbD 24, ka := w.getLsbD 23, kb := w.getLsbD 22
    sub6 := w.extractLsb' 16 6, imm := w.extractLsb' 0 16 }

/-- Fields of an MX word. -/
def readMx (w : Word64) : MxOp :=
  { d := w.extractLsb' 49 7, a := w.extractLsb' 42 7, g := w.extractLsb' 38 4, gn := w.getLsbD 37, bsl := w.extractLsb' 35 2
    mode := w.extractLsb' 33 2, q := w.getLsbD 32, fa := w.extractLsb' 28 4, fb := w.extractLsb' 24 4, ka := w.getLsbD 23
    kd := w.getLsbD 22, sub6 := w.extractLsb' 16 6, imm := w.extractLsb' 0 16 }

/-- Fields of an SY word. -/
def readSy (w : Word64) : SyOp :=
  { g := w.extractLsb' 52 4, gn := w.getLsbD 51, a := w.extractLsb' 44 7, sub12 := w.extractLsb' 32 12, d := w.extractLsb' 25 7
    ka := w.getLsbD 24, imm := w.extractLsb' 0 16 }

/-- The instruction a word names by its opcode and subfunction fields; none for an unassigned opcode (R75). -/
def readWord (w : Word64) : Option Instr :=
  match (w.extractLsb' 56 8).toNat with
  | 0x00 => some .nop
  | 0x01 => some (.pfx (w.extractLsb' 28 28) (w.extractLsb' 0 28))
  | 0x02 => some (.bra (readCt w))
  | 0x03 => some (.brx (readCt w))
  | 0x04 => some (.call (readCt w))
  | 0x05 => some (.callx (readCt w))
  | 0x06 => some (.ret (readCt w))
  | 0x07 => some (.exit (readCt w))
  | 0x08 => some (.switch (readCt w))
  | 0x09 => some (.loop (readCt w))
  | 0x0A => some (if w.extractLsb' 32 12 == 1#12 then .lpopDrop (readCt w) else .lpop (readCt w))
  | 0x0B => some (.yield (readCt w))
  | 0x0C => some (if w.extractLsb' 32 12 == 1#12 then .waittRel (readCt w) else .waittAbs (readCt w))
  | 0x10 => some (.iadd (readV w))
  | 0x11 => some (.iadc (readV w))
  | 0x12 => some (.isub (readV w))
  | 0x13 => some (.imul (readV w))
  | 0x14 => some (.imulh (readV w))
  | 0x15 => some (.imad (readV w))
  | 0x16 => some (.imin (readV w))
  | 0x17 => some (.imax (readV w))
  | 0x18 => some (.iabs (readV w))
  | 0x19 => some (.icmp (readV w))
  | 0x1A => some (.lea (readV w))
  | 0x20 => some (.and (readV w))
  | 0x21 => some (.or (readV w))
  | 0x22 => some (.xor (readV w))
  | 0x23 => some (.shl (readV w))
  | 0x24 => some (.shr (readV w))
  | 0x25 => some (.sar (readV w))
  | 0x26 => some (.bfe (readV w))
  | 0x27 => some (.bfi (readV w))
  | 0x28 => some (.popc (readV w))
  | 0x29 => some (.clz (readV w))
  | 0x2A => some (.brev (readV w))
  | 0x30 => some (.fadd (readV w))
  | 0x31 => some (.fsub (readV w))
  | 0x32 => some (.fmul (readV w))
  | 0x33 => some (.ffma (readV w))
  | 0x34 => some (.fmin (readV w))
  | 0x35 => some (.fmax (readV w))
  | 0x36 => some (.fminn (readV w))
  | 0x37 => some (.fmaxn (readV w))
  | 0x38 => some (.fcmp (readV w))
  | 0x39 => some (.fclass (readV w))
  | 0x3A => some (if (readV w).sub == 1 then .frndX (readV w) else .frnd (readV w))
  | 0x3B => some (.fcvt (readV w))
  | 0x3C => some (.icvt (readV w))
  | 0x3D => some (.dsubs (readV w))
  | 0x40 => some (.mov (readV w))
  | 0x41 => some (.movi (readV w))
  | 0x42 => some (.sel (readV w))
  | 0x43 => some (.plop (readV w))
  | 0x44 => some (.pmov (readV w))
  | 0x45 => some (.perm (readV w))
  | 0x46 => some (.bcst (readV w))
  | 0x47 => some (.vote (readV w))
  | 0x48 => some (.redx (readV w))
  | 0x49 => some (.scanx (readV w))
  | 0x4A => some (.match (readV w))
  | 0x4B => some (.xeq (readV w))
  | 0x50 => some (.logc (readV w))
  | 0x51 => some (.expc (readV w))
  | 0x52 => some (.lscl (readV w))
  | 0x53 => some (.fsin (readV w))
  | 0x54 => some (.fcos (readV w))
  | 0x55 => some (.actv (readV w))
  | 0x56 => some (.rcp (readV w))
  | 0x57 => some (.rsq (readV w))
  | 0x60 => some (.ld (readMr w))
  | 0x61 => some (.st (readMr w))
  | 0x62 => some (.lds (readMr w))
  | 0x63 => some (.sts (readMr w))
  | 0x64 => some (.atom (readMr w))
  | 0x65 => some (.atoms (readMr w))
  | 0x66 => some (.red (readMr w))
  | 0x67 => some (.fence (readMr w))
  | 0x68 => some (if w.extractLsb' 20 4 == 1#4 then .cctlWbinv (readMr w) else if w.extractLsb' 20 4 == 2#4 then .cctlIinv (readMr w) else if w.extractLsb' 20 4 == 3#4 then .cctlWball (readMr w) else if w.extractLsb' 20 4 == 4#4 then .cctlIinvall (readMr w) else if w.extractLsb' 20 4 == 5#4 then .cctlPf (readMr w) else .cctlWb (readMr w))
  | 0x69 => some (.samp (readMr w))
  | 0x6A => some (.ldw (readMr w))
  | 0x6B => some (.wset (readMr w))
  | 0x70 => some (.cpy (readAg w))
  | 0x71 => some (.cpys (readAg w))
  | 0x72 => some (.cseal (readAg w))
  | 0x73 => some (if w.extractLsb' 16 6 == 1#6 then .cwaitLnd (readAg w) else .cwaitRel (readAg w))
  | 0x74 => some (.town (readAg w))
  | 0x75 => some (.binit (readAg w))
  | 0x76 => some (.barv (readAg w))
  | 0x77 => some (.bwait (readAg w))
  | 0x78 => some (.bsync (readAg w))
  | 0x80 => some (.tspawn (readAg w))
  | 0x81 => some (.qinit (readAg w))
  | 0x82 => some (if w.extractLsb' 16 6 == 1#6 then .qpushC (readAg w) else if w.extractLsb' 16 6 == 2#6 then .qpushAmp (readAg w) else if w.extractLsb' 16 6 == 3#6 then .qpushClose (readAg w) else .qpush (readAg w))
  | 0x83 => some (if w.extractLsb' 16 6 == 1#6 then .qpopE (readAg w) else .qpop (readAg w))
  | 0x90 => some (.macq (readMx w))
  | 0x91 => some (.mrel (readMx w))
  | 0x92 => some (.mma (readMx w))
  | 0x93 => some (.mzero (readMx w))
  | 0x94 => some (.mdrn (readMx w))
  | 0x95 => some (.mlda (readMx w))
  | 0x96 => some (.apop (readMx w))
  | 0x97 => some (.geval (readMx w))
  | 0x98 => some (.gcfg (readMx w))
  | 0xA0 => some (.rast (readAg w))
  | 0xA1 => some (if w.extractLsb' 16 6 == 1#6 then .binaClr (readAg w) else .bina (readAg w))
  | 0xA2 => some (if w.extractLsb' 16 6 == 1#6 then .occrClr (readAg w) else .occr (readAg w))
  | 0xA3 => some (.rgacq (readAg w))
  | 0xA4 => some (if w.extractLsb' 16 6 == 1#6 then .rgrelRel (readAg w) else .rgrelPub (readAg w))
  | 0xA5 => some (.rghold (readAg w))
  | 0xB0 => some (.sread (readSy w))
  | 0xB1 => some (.swrite (readSy w))
  | 0xB2 => some (.trap (readSy w))
  | 0xB3 => some (if w.extractLsb' 32 12 == 1#12 then .tretEnd (readSy w) else .tret (readSy w))
  | 0xB4 => some (.bkpt (readSy w))
  | 0xB5 => some (if w.extractLsb' 32 12 == 1#12 then .tlbiAsid (readSy w) else if w.extractLsb' 32 12 == 2#12 then .tlbiAll (readSy w) else .tlbiPage (readSy w))
  | 0xB6 => some (if w.extractLsb' 32 12 == 1#12 then .ctxsvRel (readSy w) else if w.extractLsb' 32 12 == 2#12 then .ctxsvWg (readSy w) else .ctxsvCopy (readSy w))
  | 0xB7 => some (if w.extractLsb' 32 12 == 1#12 then .ctxldFull (readSy w) else if w.extractLsb' 32 12 == 2#12 then .ctxldWg (readSy w) else .ctxldRegs (readSy w))
  | 0xB8 => some (.roleq (readSy w))
  | _ => none

/-- The word of an instruction; none for a device event, which has no encoding. -/
def encode : Instr → Option Word64
  | .nop => some 0#64
  | .pfx h1 h0 => some (0x01#8 ++ h1 ++ h0)
  | .bra o => some (packCt 0x02#8 o)
  | .brx o => some (packCt 0x03#8 o)
  | .call o => some (packCt 0x04#8 o)
  | .callx o => some (packCt 0x05#8 o)
  | .ret o => some (packCt 0x06#8 o)
  | .exit o => some (packCt 0x07#8 o)
  | .switch o => some (packCt 0x08#8 o)
  | .loop o => some (packCt 0x09#8 o)
  | .lpop o => some (packCt 0x0A#8 o)
  | .lpopDrop o => some (packCt 0x0A#8 o)
  | .yield o => some (packCt 0x0B#8 o)
  | .waittAbs o => some (packCt 0x0C#8 o)
  | .waittRel o => some (packCt 0x0C#8 o)
  | .iadd o => some (packV 0x10#8 o)
  | .iadc o => some (packV 0x11#8 o)
  | .isub o => some (packV 0x12#8 o)
  | .imul o => some (packV 0x13#8 o)
  | .imulh o => some (packV 0x14#8 o)
  | .imad o => some (packV 0x15#8 o)
  | .imin o => some (packV 0x16#8 o)
  | .imax o => some (packV 0x17#8 o)
  | .iabs o => some (packV 0x18#8 o)
  | .icmp o => some (packV 0x19#8 o)
  | .lea o => some (packV 0x1A#8 o)
  | .and o => some (packV 0x20#8 o)
  | .or o => some (packV 0x21#8 o)
  | .xor o => some (packV 0x22#8 o)
  | .shl o => some (packV 0x23#8 o)
  | .shr o => some (packV 0x24#8 o)
  | .sar o => some (packV 0x25#8 o)
  | .bfe o => some (packV 0x26#8 o)
  | .bfi o => some (packV 0x27#8 o)
  | .popc o => some (packV 0x28#8 o)
  | .clz o => some (packV 0x29#8 o)
  | .brev o => some (packV 0x2A#8 o)
  | .fadd o => some (packV 0x30#8 o)
  | .fsub o => some (packV 0x31#8 o)
  | .fmul o => some (packV 0x32#8 o)
  | .ffma o => some (packV 0x33#8 o)
  | .fmin o => some (packV 0x34#8 o)
  | .fmax o => some (packV 0x35#8 o)
  | .fminn o => some (packV 0x36#8 o)
  | .fmaxn o => some (packV 0x37#8 o)
  | .fcmp o => some (packV 0x38#8 o)
  | .fclass o => some (packV 0x39#8 o)
  | .frnd o => some (packV 0x3A#8 o)
  | .frndX o => some (packV 0x3A#8 o)
  | .fcvt o => some (packV 0x3B#8 o)
  | .icvt o => some (packV 0x3C#8 o)
  | .dsubs o => some (packV 0x3D#8 o)
  | .mov o => some (packV 0x40#8 o)
  | .movi o => some (packV 0x41#8 o)
  | .sel o => some (packV 0x42#8 o)
  | .plop o => some (packV 0x43#8 o)
  | .pmov o => some (packV 0x44#8 o)
  | .perm o => some (packV 0x45#8 o)
  | .bcst o => some (packV 0x46#8 o)
  | .vote o => some (packV 0x47#8 o)
  | .redx o => some (packV 0x48#8 o)
  | .scanx o => some (packV 0x49#8 o)
  | .match o => some (packV 0x4A#8 o)
  | .xeq o => some (packV 0x4B#8 o)
  | .logc o => some (packV 0x50#8 o)
  | .expc o => some (packV 0x51#8 o)
  | .lscl o => some (packV 0x52#8 o)
  | .fsin o => some (packV 0x53#8 o)
  | .fcos o => some (packV 0x54#8 o)
  | .actv o => some (packV 0x55#8 o)
  | .rcp o => some (packV 0x56#8 o)
  | .rsq o => some (packV 0x57#8 o)
  | .ld o => some (packMr 0x60#8 o)
  | .st o => some (packMr 0x61#8 o)
  | .lds o => some (packMr 0x62#8 o)
  | .sts o => some (packMr 0x63#8 o)
  | .atom o => some (packMr 0x64#8 o)
  | .atoms o => some (packMr 0x65#8 o)
  | .red o => some (packMr 0x66#8 o)
  | .fence o => some (packMr 0x67#8 o)
  | .cctlWb o => some (packMr 0x68#8 o)
  | .cctlWbinv o => some (packMr 0x68#8 o)
  | .cctlIinv o => some (packMr 0x68#8 o)
  | .cctlWball o => some (packMr 0x68#8 o)
  | .cctlIinvall o => some (packMr 0x68#8 o)
  | .cctlPf o => some (packMr 0x68#8 o)
  | .samp o => some (packMr 0x69#8 o)
  | .ldw o => some (packMr 0x6A#8 o)
  | .wset o => some (packMr 0x6B#8 o)
  | .cpy o => some (packAg 0x70#8 o)
  | .cpys o => some (packAg 0x71#8 o)
  | .cseal o => some (packAg 0x72#8 o)
  | .cwaitRel o => some (packAg 0x73#8 o)
  | .cwaitLnd o => some (packAg 0x73#8 o)
  | .town o => some (packAg 0x74#8 o)
  | .binit o => some (packAg 0x75#8 o)
  | .barv o => some (packAg 0x76#8 o)
  | .bwait o => some (packAg 0x77#8 o)
  | .bsync o => some (packAg 0x78#8 o)
  | .tspawn o => some (packAg 0x80#8 o)
  | .qinit o => some (packAg 0x81#8 o)
  | .qpush o => some (packAg 0x82#8 o)
  | .qpushC o => some (packAg 0x82#8 o)
  | .qpushAmp o => some (packAg 0x82#8 o)
  | .qpushClose o => some (packAg 0x82#8 o)
  | .qpop o => some (packAg 0x83#8 o)
  | .qpopE o => some (packAg 0x83#8 o)
  | .macq o => some (packMx 0x90#8 o)
  | .mrel o => some (packMx 0x91#8 o)
  | .mma o => some (packMx 0x92#8 o)
  | .mzero o => some (packMx 0x93#8 o)
  | .mdrn o => some (packMx 0x94#8 o)
  | .mlda o => some (packMx 0x95#8 o)
  | .apop o => some (packMx 0x96#8 o)
  | .geval o => some (packMx 0x97#8 o)
  | .gcfg o => some (packMx 0x98#8 o)
  | .rast o => some (packAg 0xA0#8 o)
  | .bina o => some (packAg 0xA1#8 o)
  | .binaClr o => some (packAg 0xA1#8 o)
  | .occr o => some (packAg 0xA2#8 o)
  | .occrClr o => some (packAg 0xA2#8 o)
  | .rgacq o => some (packAg 0xA3#8 o)
  | .rgrelPub o => some (packAg 0xA4#8 o)
  | .rgrelRel o => some (packAg 0xA4#8 o)
  | .rghold o => some (packAg 0xA5#8 o)
  | .sread o => some (packSy 0xB0#8 o)
  | .swrite o => some (packSy 0xB1#8 o)
  | .trap o => some (packSy 0xB2#8 o)
  | .tret o => some (packSy 0xB3#8 o)
  | .tretEnd o => some (packSy 0xB3#8 o)
  | .bkpt o => some (packSy 0xB4#8 o)
  | .tlbiPage o => some (packSy 0xB5#8 o)
  | .tlbiAsid o => some (packSy 0xB5#8 o)
  | .tlbiAll o => some (packSy 0xB5#8 o)
  | .ctxsvCopy o => some (packSy 0xB6#8 o)
  | .ctxsvRel o => some (packSy 0xB6#8 o)
  | .ctxsvWg o => some (packSy 0xB6#8 o)
  | .ctxldRegs o => some (packSy 0xB7#8 o)
  | .ctxldFull o => some (packSy 0xB7#8 o)
  | .ctxldWg o => some (packSy 0xB7#8 o)
  | .roleq o => some (packSy 0xB8#8 o)
  | _ => none

/-- The decoder: the instruction of a word, or why the word is none (R78, conditions 4 and 6). Reserved bits of a format
are checked by encoding the fields again. -/
def decode (w : Word64) : Except DecodeError Instr :=
  match readWord w with
  | none => .error .illegalOp
  | some i => if i.wellFormed && encode i == some w then .ok i else .error .illegalField

/-- Eight bytes as a little-endian word (R4). -/
def wordOfBytes (b0 b1 b2 b3 b4 b5 b6 b7 : Byte) : Word64 := b7 ++ b6 ++ b5 ++ b4 ++ b3 ++ b2 ++ b1 ++ b0

/-- Byte k of a word as memory holds it (R4). -/
def byteOfWord (w : Word64) (k : Nat) : Byte := w.extractLsb' (8 * k) 8

/-- The decoder on bytes: the instruction and the bytes after it. -/
def decodeBytes : List Byte → Except DecodeError (Instr × List Byte)
  | b0 :: b1 :: b2 :: b3 :: b4 :: b5 :: b6 :: b7 :: rest =>
    match decode (wordOfBytes b0 b1 b2 b3 b4 b5 b6 b7) with
    | .ok i => .ok (i, rest)
    | .error e => .error e
  | _ => .error .short

/-- The instruction the decoder reads from a word numbered as the opcode table numbers it, laid out in memory order. -/
def decodeTableWord (_nbits w : Nat) : Option Instr :=
  if w < 2 ^ 64 then
    match decodeBytes ((List.range 8).map (byteOfWord (BitVec.ofNat 64 w))) with
    | .ok (i, _) => some i
    | .error _ => none
  else none

end Sys2Proof
end

