-- ==== Sys2Proof/Machine/State.lean ====
section
/-! DEFINITION. The state of the Olusol 9, plain data throughout, and the state right after reset. Every structure's docstring
cites the rule that names what it holds. Core numbers are 4·cluster + physical core, 0 to 255. -/

namespace Sys2Proof.Machine

/-- Values by number, strictly rising, none equal to what an unlisted number reads as. -/
abbrev Sparse (α : Type) := List (Nat × α)

/-- Bytes by address, in the same canonical form (an unlisted byte reads as 0; DESIGN CHOICE, log 3). -/
abbrev Mem := List Host.Cell

/-- Trap causes (R293). -/
inductive Cause where
  | illegalOp | illegalField | illegalWord | priv | misalign | unitAbsent | pageFault | pageFatal | prot
  | mmxConflict | mmxOwner | mmxCapacity | bounds | copyError | compLength | mcast
  | grammarDepth | grammarWindow | grammarFormat | noPitch | loopOvf | callOvf | qdeadlock
  | fp | bkpt | watch | step | holdService | swtrap | eccUncorr
deriving DecidableEq, Repr

/-- The other party of a conflict: launch id, logical name, region counter (R296). -/
structure Party where
  lid : Nat
  logical : BitVec 128
  region : Word32
deriving DecidableEq, Repr

/-- What a trap carries into its record (R293, R296). -/
structure TrapInfo where
  cause : Cause
  tval : Word32 := 0
  vaddr : Word64 := 0
  paddr : Nat := 0
  oreg : Nat := 0xFF
  other : Option Party := none
  knd : Nat := 0
deriving DecidableEq, Repr

/-- A position in code: clause address and word index (R42). -/
structure Pc where
  ca : VAddr
  wi : Nat
deriving DecidableEq, Repr

/-- A cause marked pending in a trap record, with its kept trap value and the word its own record names (R294, R296, R298). -/
structure Kept where
  info : TrapInfo
  word : Word64
deriving DecidableEq, Repr

/-- A trap taken and not yet ended: what was taken, where, and what is pending (R294 to R298). `written` is the record slot
once the record is written. -/
structure Trapped where
  info : TrapInfo
  at_ : Pc
  word : Word64
  resume : Pc
  /-- The thread only passes over the clause at the resume point (R397, R398). -/
  skip : Bool := false
  pa : BitVec 28
  pb : BitVec 28
  kept : List Kept
  slot : Option Nat
deriving DecidableEq, Repr

/-- State of an architectural register that has been written (R101); an unlisted one is NEVER. -/
inductive Reg where
  | live (v : Word32)
  | spilled
  /-- Lost to an uncorrectable error until it is written (R304). -/
  | bad
deriving DecidableEq, Repr

/-- A loop stack entry with the call depth of R299. -/
structure LoopEntry where
  start : VAddr
  stop : VAddr
  count : Word32
  depth : Nat
deriving DecidableEq, Repr

/-- A call-stack transfer in flight: entry number, the value when it is a store, where the thread goes after it, and the fault
record it waits on (R9, R360, R422). -/
structure CallXfer where
  entry : Nat
  store : Option Word64
  target : Word64
  fid : Option Nat
deriving DecidableEq, Repr

/-- An XFN result not yet written (R142). -/
structure XfnPending where
  reg : Nat
  value : Word32
deriving DecidableEq, Repr

/-- Resume state of a thread that resumes alone, outside the resume store (R107). -/
structure Solo where
  hdr : Option Word64
  pa : BitVec 28
  pb : BitVec 28
deriving DecidableEq, Repr

/-- A batch of copies (R202 to R204): key within the thread, number once sealed, transfers not yet read and not yet landed,
first error. -/
structure Batch where
  key : Nat
  number : Option Nat
  unread : List Nat
  unlanded : List Nat
  err : Option TrapInfo
  reported : Bool
deriving DecidableEq, Repr

/-- Kind of an access in the conflict records (R176). -/
inductive Acc where
  | read
  | write
  | atomic
deriving DecidableEq, Repr

/-- What a BLOCKED thread waits for (R35). -/
inductive Wait where
  /-- The header's counts (R47). -/
  | header
  /-- A rendezvous (R16). -/
  | rendezvous
  /-- A call-stack transfer (R9). -/
  | calls
  /-- A parked instruction fetch (R161). -/
  | fetch (fid : Nat)
  /-- A register that the word of its pack reads is SPILLED, or waits for a parked load: the thread holds its pack at the word
  (R104, R161). -/
  | operand (v : Nat)
  /-- A read that the word of its pack makes of itself is parked: the thread holds its pack at the word (R161, R194). -/
  | word (fid va : Nat)
  /-- A detection stall at the word (R179): the granule, and the scratchpad's core when it is a scratch granule; 1 a count or 2 a full
  store; the access's kind and address. -/
  | stall (granule : Nat) (scratch : Option Nat) (cause : Nat) (kind : Acc) (va : Word64)
  /-- BWAIT or BSYNC: phase bit waited on (R201). -/
  | barrier (off : Nat) (phase : Bool) (scope : Nat)
  /-- CWAIT: landed or released, count, batches that must finish, scope (R203, R204). -/
  | batches (landed : Bool) (n : Nat) (watch : List Nat) (scope : Nat)
  /-- A queue push; consumer form or not (R119, R120). -/
  | push (q : Nat) (consumer : Bool) (src : List Byte) (order : Nat)
  /-- A queue pop: destination offset, predicate of QPOP.E (R119). -/
  | pop (q : Nat) (dst : Nat) (pred : Option Nat) (order : Nat)
  /-- RGACQ (R265). -/
  | ring (ring : Nat) (consumer : Bool) (d : RegF) (order : Nat)
  /-- WAITT until a DTC nanosecond (R438). -/
  | time (ns : Nat)
  /-- APOP on an empty row queue: destination, 127 for a thread whose guard is false; the order of arrival (R235). -/
  | rowQueue (d : RegF) (order : Nat)
  /-- TRET whose record read is parked (R298). -/
  | record (fid : Nat)
  /-- The condition was met under a cluster stop: the thread becomes READY at thaw, with an acquire at the scope (R36). -/
  | met (scope : Nat)
deriving DecidableEq, Repr

/-- Why a thread is SUSPENDED (R35). -/
inductive Susp where
  | preempted
  | stopped
  | trapped
deriving DecidableEq, Repr

/-- Thread states (R35); PENDING is a property of the workgroup, UNLAUNCHED is absence. -/
inductive TState where
  | ready
  | issuing
  | blocked (w : Wait)
  | suspended (w : Susp)
  | saved
  | exited
deriving DecidableEq, Repr

/-- What a handler or service context was started for (R295, R303). -/
structure Handling where
  trapped : Option ThreadName
  recSlot : Nat
  cause : Nat
  tval : Word32
  entryResume : Pc
  kept : List Kept
deriving DecidableEq, Repr

/-- A thread (R7) with its execution state. -/
structure Thread where
  name : ThreadName
  lid : Nat
  crew : Nat
  level : Nat
  pc : Pc
  regs : Sparse Reg
  preds : BitVec 16
  fctl : Word32
  fstat : Word32
  /-- Call stack depth and the entries held in hardware, newest first, 8 bytes each (R9). -/
  depth : Nat
  calls : List Word64
  callXfer : Option CallXfer
  /-- Loop stack, newest first (R10). -/
  loops : List LoopEntry
  progress : Word32
  region : Word32
  dtcf : Word32
  st : TState
  /-- Entered its clause: the header as read at entry (R44). -/
  hdr : Option Word64
  /-- Reads the header of its clause only to pass over the clause (R397, R398). -/
  skip : Bool
  solo : Option Solo
  /-- Cycles at which it became READY, and cycles waited with no higher class ready (R97); a yielded departure (R48, R448). -/
  readyAt : Nat
  waited : Nat
  yielded : Bool
  /-- For each pipe, cycles READY without issuing while INTERACTIVE packs issued on it (R39). -/
  behind : List Nat := [0, 0, 0, 0]
  /-- READY as a member of its squad's released rendezvous pack (R16, R97). -/
  released : Bool := false
  /-- Cycles spent in the present wait, for the limits of R179 and R234. -/
  held : Nat
  /-- Last cycle at which it issued (R39, R103). -/
  issuedAt : Nat
  /-- LIVE registers held in the STRIP reserve (R102), and register numbers, the most recently used first (R103). -/
  reserve : List Nat := []
  used : List Nat := []
  xfn : List XfnPending
  batches : List Batch
  nextSeal : Nat
  trap : Option Trapped
  /-- Traps of failed outstanding accesses, due at its next instruction boundary (R161): what, where, word. -/
  boundary : List (TrapInfo × Pc × Word64)
  /-- Threads of its previous pack when that clause's header had NRG (R48, R99). -/
  kin : List ThreadName
  /-- Comparator word it may issue once after TRET (R307). -/
  pastComparator : Bool
  handling : Option Handling
deriving DecidableEq, Repr

/-- A crew as a workgroup runs it: crew number, first squad, threads, entry clause (R17, R110). -/
structure CrewRun where
  crew : Nat
  firstSquad : Nat
  nth : Nat
  epc : VAddr
deriving DecidableEq, Repr

/-- An entry of a conflict record: thread, region, kind (R176). -/
structure ConEntry where
  thread : ThreadName
  region : Word32
  kind : Acc
deriving DecidableEq, Repr

/-- A conflict record of a granule: scratch of a core or physical (R176). -/
structure ConRec where
  scratch : Option Nat
  granule : Nat
  writer : Option ConEntry
  readers : List ConEntry
  /-- Members of BCR and BCA. -/
  bcr : List ConEntry
  bca : List ConEntry
deriving DecidableEq, Repr

/-- An initialised barrier object or queue descriptor of a core's scratchpad, by scratchpad byte address (R117, R200). The surplus
bytes and arrivals of a barrier object are those credited beyond what is pending while the other count is not zero (R201;
DESIGN CHOICE, log 24). -/
structure Mark where
  core : Nat
  addr : Nat
  queue : Bool
  overBytes : Nat
  overArrivals : Nat
deriving DecidableEq, Repr

/-- What the device keeps of a workgroup saved by CTXSV.WG besides its image: the members of its conflict records, with granules
counted from its allocation, and its objects with addresses counted so (R302, R370; DESIGN CHOICE, log 30). -/
structure Away where
  recs : List ConRec
  marks : List Mark
deriving DecidableEq, Repr

/-- A resident or saved workgroup (R17 to R21, R26, R110, R111). -/
structure Workgroup where
  core : Nat
  slot : Nat
  lid : Nat
  w : Nat
  q : Nat
  group : Nat
  role : Nat
  cls : Nat
  /-- Area index: w, or the task index x of R111. -/
  area : Nat
  /-- Dependence table entry of a task. -/
  entry : Option Nat
  base : Nat
  size : Nat
  uniform : List Word32
  crews : List CrewRun
  exiting : Bool
  /-- Strip chain: plan slot and strip sequence, and the level at its start (R258, R260). -/
  chain : Option (Nat × Nat)
  srate : Nat
  startedAt : Nat
  cancelled : Bool
  endedByHandler : Bool
  /-- Created from an image (R368); the image address while the service context of a restore is still to start (R303). -/
  restored : Bool
  restoring : Option Nat
  /-- Saved by CTXSV.WG: it holds no slot of the core (its number is 64 or more), no allocation and no thread slot. -/
  away : Option Away
deriving DecidableEq, Repr

/-- A crew-table entry (R30). -/
structure Crew where
  epc : VAddr
  tag : Nat
  bud : Nat
  nth : Nat
deriving DecidableEq, Repr

/-- A level-table entry (R29). -/
structure Level where
  scope : Nat
  dom : Nat
  ext : Nat
deriving DecidableEq, Repr

/-- A cluster entry of a binding table: the physical cluster and the physical core of each bound core role (R32). -/
structure ClusterBind where
  pcl : Nat
  cores : List (Option Nat)
deriving DecidableEq, Repr

/-- An output entry of a binding table: encoder or serialiser, and unit (R32). -/
structure OutBind where
  encoder : Bool
  unit : Nat
deriving DecidableEq, Repr

/-- An admitted launch (R28 to R34) with its error log (R323). -/
structure Launch where
  lid : Nat
  asid : Nat
  cls : Nat
  crm : Nat
  scrk : Nat
  hpc : VAddr
  tarea : VAddr
  tsa : VAddr
  fctl : Word32
  cpl : VAddr
  args : List Word32
  cons : List Word32
  levels : List Level
  crews : List Crew
  clusters : List (Option ClusterBind)
  outs : List (Option OutBind)
  /-- Workgroups placed so far and workgroups EXITED. -/
  started : List Nat
  finished : List Nat
  /-- Plan slot of a launch that a plan supplies (R253). -/
  plan : Option Nat
  errors : Nat
  firstCause : Nat
  firstAddr : Word64
deriving DecidableEq, Repr

/-- A pack executing on a pipe, or a clause-resume record of one (R15, R105, R106). -/
structure Pack where
  core : Nat
  pipe : Nat
  slot : Nat
  crew : Nat
  cls : Nat
  threads : List ThreadName
  ca : VAddr
  hdr : Word64
  wi : Nat
  /-- Prefix halves for word wi and for word wi + 1 (R72). -/
  pa : BitVec 28
  pb : BitVec 28
  /-- Threads whose outer XEQ word has not issued; none outside an XEQ (R106). -/
  xrem : Option (List ThreadName)
  /-- After-the-word causes of this XEQ, due when it retires: thread, its word, causes (R300, R301). -/
  xafter : List (ThreadName × Word64 × List TrapInfo)
  /-- In the resume store: cut by the cluster stop (true) or by class pre-emption (false) (R107). -/
  byStop : Bool
  cutAt : Nat
  /-- Words retired since the trigger of a cluster stop (R311). -/
  skid : Nat
  /-- Threads whose task the present TSPAWN word has entered (R112). -/
  spawned : List ThreadName
  /-- Cycles stalled at the present word, and of these those for want of a dependence table entry or a version buffer (R112). -/
  stalled : Nat
  full : Nat := 0
  /-- Accesses whose performance the present TLBI awaits, once it has removed the translations (R432). -/
  tlbi : Option (List Nat) := none
deriving DecidableEq, Repr

/-- Global accesses of threads that are outstanding (R47). -/
inductive OutKind where
  | load
  | store
  | red
  /-- An ATOM or ATOMS that must wait: its old value is outstanding as a load (R342). -/
  | atomic
  /-- The parked header fetch of a GCFG (R382). -/
  | header
  /-- A SAMP (R426). -/
  | sample
  /-- A write-back of CCTL, its operation in `aop` (R361). -/
  | cctl
deriving DecidableEq, Repr

/-- One outstanding access (R47, R161): `fid` is the fault record it waits on; `peer` the core role and offset of a scratch access; `data`
what a store writes, or the operands of an atomic, a reduction or a SAMP. -/
structure Outstanding where
  id : Nat
  thread : ThreadName
  lid : Nat
  asid : Nat
  region : Word32
  level : Nat
  kind : OutKind
  va : VAddr
  bytes : Nat
  pol : Nat
  ord : Nat
  scope : Nat
  dst : RegF
  sx : Bool
  aop : Nat
  data : BitVec 256
  pc : Pc
  word : Word64
  fid : Option Nat
  peer : Option (Nat × Nat)
  /-- Physical address and leaf, of an access that was translated at its word, and the size of its page (R432). -/
  tr : Option (Nat × Nat) := none
  page : Nat := 0
  /-- The accesses of one word of a pack, by the first of them, for their order (R178). -/
  batch : Nat := 0
  /-- Channel of an LDW (R391). -/
  lch : Option Nat := none
  /-- A detection stall of an access that waits after its word (R161): granule and cause, and its cycles. -/
  stall : Option (Nat × Nat) := none
  held : Nat := 0
deriving DecidableEq, Repr

/-- A store performed in a core's line and not yet at its home (R146, R187): thread, launch, region, address, size, data, and its
place in the order of accesses. -/
structure LineStore where
  thread : ThreadName
  lid : Nat
  region : Word32
  va : VAddr
  bytes : Nat
  data : BitVec 128
  order : Nat
deriving DecidableEq, Repr

/-- A line of a core's L1 held under PRIV: 128 bytes, a dirty mask, and the stores it holds (R146, R187). -/
structure Line where
  core : Nat
  tag : Nat
  data : BitVec 1024
  dirty : BitVec 128
  stores : List LineStore
deriving DecidableEq, Repr

/-- A cached translation: of a cluster's L2 TLB, or of the L1 TLB of one of its cores; page base, size, physical base, leaf entry
(R158). -/
structure Trans where
  cluster : Nat
  core : Option Nat := none
  asid : Nat
  va : Nat
  size : Nat
  pa : Nat
  leaf : Word64
deriving DecidableEq, Repr

/-- A table entry in a cluster's page-walk cache (R158): the level of the table it points to, the addresses under it, that table. -/
structure WalkEntry where
  cluster : Nat
  asid : Nat
  level : Nat
  va : Nat
  table : Nat
deriving DecidableEq, Repr

/-- An outstanding replayable fault (R161, R324): `written` once its record stands in the fault buffer. -/
structure FaultRec where
  fid : Nat
  asid : Nat
  kind : Nat
  level : Nat
  va : Nat
  written : Bool
deriving DecidableEq, Repr

/-- A record of the device error log that waits for the fault buffer: kind, address space, address, unit code, unit index, count
(R324). -/
structure ErrRec where
  kind : Nat
  asid : Nat
  addr : Nat
  unit : Nat
  index : Nat
  count : Nat
deriving DecidableEq, Repr

/-- Owner of a version buffer (R191). -/
inductive Owner where
  | thread
  | engine
  | stream
deriving DecidableEq, Repr

/-- A version buffer of a tile instance (R191): its owner, and while it is ENGINE or STREAM the scratchpad bytes it takes and the
release barrier object whose present phase it is bound to. -/
structure Buffer where
  owner : Owner
  core : Nat
  lo : Nat
  size : Nat
  bar : Nat
deriving DecidableEq, Repr

/-- A tile instance: launch, cluster role, cluster group, handle; its buffers, its current version and the spawn order of the task
that made it current (R113, R189, R191). `home` is 0; for the instance of a task at home in a launch that a plan supplies (DEDUCED, log 15),
and for the one that tells how a group member other than the home takes multicast deliveries (DESIGN CHOICE, log 23), it is 1 + core + 256·slot of that
workgroup. -/
structure TileInst where
  lid : Nat
  q : Nat
  group : Nat
  handle : Nat
  home : Nat
  bufs : List Buffer
  current : Nat
  wrote : Nat
deriving DecidableEq, Repr

/-- A delivery end: scratchpad of a core at an address, or a global address, or an Awning address. -/
inductive Place where
  | scratch (core addr : Nat)
  | global (va : Nat)
  | awning (addr : Nat)
deriving DecidableEq, Repr

/-- A barrier object that a transfer credits. -/
structure Credit where
  core : Nat
  addr : Nat
deriving DecidableEq, Repr

/-- A credit or an arrival that waits at its scratchpad for its entry of the trail log: object, bytes, arrivals, cause and address of an
error, a dropped delivery, and the thread that makes it (R201, R317, R318). -/
structure BarOp where
  object : Credit
  bytes : Nat
  arrivals : Nat
  err : Option (Nat × Nat)
  drop : Bool
  who : Option ThreadName
deriving DecidableEq, Repr

/-- A shape record as read at issue (R192). -/
structure Shape where
  base : Nat
  fmt : Nat
  strict : Bool
  permit : Bool
  rank : Nat
  sizes : List Nat
  strides : List Nat
deriving DecidableEq, Repr

/-- The workgroup whose scratchpad a transfer delivers into: core, slot, launch, start cycle (R21). -/
structure Target where
  core : Nat
  slot : Nat
  lid : Nat
  startedAt : Nat
deriving DecidableEq, Repr

/-- A transfer issued to a copy channel (R194 to R204): what the records held at issue, and how far it has come. -/
structure Copy where
  id : Nat
  core : Nat
  ch : Nat
  thread : ThreadName
  /-- The batch of the thread it joined. -/
  key : Nat
  lid : Nat
  asid : Nat
  level : Nat
  /-- CPYS. -/
  store : Bool
  /-- The global end, the origin and the extents. -/
  shape : Option Shape
  org : List Int
  ext : List Nat
  /-- The scratch or ring end, and the tile end of a copy with two such ends (R195, R196, R443). -/
  near : Place
  far : Option Place
  /-- Element format of the dense end, and the bytes it can hold. -/
  fmt : Nat
  room : Nat
  /-- Stages: DQ, TR, RD, QC, sub-streams, side-vector address (R196, R206, R208). -/
  dq : Nat
  tr : Bool
  rd : Nat
  qc : Nat
  cn : Nat
  side : Nat
  /-- Bytes of the issuer's allocation from the side vector on. -/
  sideRoom : Nat := 0
  /-- Objects credited by bytes read and by bytes landed, and the BOB object among them. -/
  creditRead : List Credit
  creditLand : List Credit
  bob : Option Credit
  /-- Streaming delivery (R205). -/
  stream : Bool
  /-- Ring, slot and sequence named by a ring end (R265). -/
  ring : Option (Nat × Nat × Nat)
  /-- A multicast: its members still to deliver to, its tile, and the words of the tile's entry as they stood at issue (R188, R217). -/
  multi : Bool := false
  mcast : List Nat
  handle : Nat
  entry : Nat × Nat := (0, 0)
  dest : Option Target
  /-- Outstanding accesses of the thread at issue, performed before the transfer reads (R186). -/
  before : List Nat
  started : Bool
  /-- Elements read, and their values in region order; all read; bytes to land with their addresses. -/
  vals : List Nat
  readDone : Bool
  data : List (Nat × Byte)
  /-- Side bytes with their addresses in the issuer's scratchpad (R207). -/
  sides : List (Nat × Byte) := []
  /-- Bytes the dense end moves in all, and bytes or elements landed. -/
  total : Nat
  landed : Nat
  /-- Compressed chunks already read, by address over 4,096: the rest of the transfer reads them as they were (R216). -/
  chunks : List (Nat × List Byte) := []
  err : Option TrapInfo
  fid : Option Nat
  /-- Address at which the transfer is parked (R163). -/
  fva : Nat := 0
deriving DecidableEq, Repr

/-- A multicast delivery held in the cluster network (R217): copy, the member it is for and its tile buffer, and what it carries. -/
structure HeldDelivery where
  copy : Nat
  cluster : Nat
  lid : Nat
  q : Nat
  group : Nat
  role : Nat
  handle : Nat
  /-- Words of the tile's entry as they stood at issue (R188). -/
  entry : Nat × Nat
  data : List (Nat × Byte)
  rest : Nat
  err : Option TrapInfo
  thread : ThreadName
  key : Nat
  bob : Option Credit
deriving DecidableEq, Repr

/-- Write pointer of a copy channel: the buffer's workgroup, by launch, slot and start cycle, and the delivered end (R205). -/
structure ChanPtr where
  core : Nat
  ch : Nat
  lid : Nat
  slot : Nat
  startedAt : Nat
  ptr : Nat
deriving DecidableEq, Repr

/-- A task record as spawned (R108). -/
structure TaskRec where
  pc : VAddr
  chainId : Nat
  oci : Nat
  ocv : Bool
  cmk : Nat
  crm : Nat
  kind : Nat
  args : List Word32
  reads : List Nat
  writes : List Nat
  done : VAddr
deriving DecidableEq, Repr

/-- A task of a cluster's dependence table (R111 to R114). Versions are resolved at spawn. -/
structure Task where
  cluster : Nat
  entry : Nat
  order : Nat
  lid : Nat
  q : Nat
  group : Nat
  w : Nat
  cls : Nat
  task : TaskRec
  readVer : List (Nat × Nat)
  writeVer : List (Nat × Nat)
  /-- In units of 2^-32 ns. -/
  started : Option Nat
  chain : Option (Nat × Nat)
deriving DecidableEq, Repr

/-- A grammar configuration (R241). -/
structure GramCfg where
  fw : Nat
  fx : Nat
  gmode : Nat
  acc : Bool
  scl : Nat
  cols : Nat
  rules : Nat
  rows : Nat
  gbase : Nat
  va : Nat
deriving DecidableEq, Repr

/-- A pitch (R220, R224, R234). -/
structure Pitch where
  cluster : Nat
  number : Nat
  cls : Nat
  pri : Nat
  units32 : Nat
  slot : Nat
  role : Nat
  core : Nat
  base : Nat
  lid : Nat
  gram : Option GramCfg
  err : Option TrapInfo
  queue : List (Nat × Bool)
  /-- Row pushes still owed by ended evaluations (R243). -/
  owed : List (Nat × Bool)
  releasing : Bool
deriving DecidableEq, Repr

/-- A region of an array: shape, origin, extents (R193). -/
structure Region where
  shape : Shape
  org : List Int
  ext : List Nat
deriving DecidableEq, Repr

/-- An operand of a quarter (R227, R228): the bytes of a tile, with the object that its use credits, or a region to be fetched; and
what a fetch has brought: until it is ready, 8 bytes for each element read. -/
structure Operand where
  core : Nat
  addr : Nat
  size : Nat
  region : Option Region
  asid : Nat
  level : Nat
  credit : Option Credit
  ready : Bool
  data : List Byte
  /-- Compressed chunks already read, by address over 4,096: the rest of the fetch reads them as they were (R216). -/
  chunks : List (Nat × List Byte) := []
  /-- Address at which the fetch is parked (R163). -/
  fva : Option Nat := none
  err : Option TrapInfo
deriving DecidableEq, Repr

/-- A quarter operation: its leader, its first accumulator row, its column half, its A (R225, R226). -/
structure Quarter where
  leader : Nat
  row : Nat
  half : Bool
  a : Operand
deriving DecidableEq, Repr

/-- A unit: the quarters that one pack's MMA yielded and that are not yet granted (R230). `key` names its B; `begun` is set once one
of its quarters is granted. -/
structure MatUnit where
  cluster : Nat
  core : Nat
  slot : Nat
  threads : List ThreadName
  pitch : Nat
  cls : Nat
  pri : Nat
  role : Nat
  leader : Nat
  /-- The cycle at which it reached the arbiter, and its place in engine order (R232, R316). -/
  arrival : Nat
  order : Nat := 0
  waited : Nat
  queueWait : Nat
  fa : Nat
  fb : Nat
  mode : Nat
  push : Bool
  bsl : Nat
  key : Nat
  b : Operand
  left : List Quarter
  begun : Bool
  fid : Option Nat
deriving DecidableEq, Repr

/-- A quarter of a granted pass with its operands as read. -/
structure PassQuarter where
  pitch : Nat
  push : Bool
  row : Nat
  half : Bool
  a : List Byte
  b : List Byte
  creditA : Option Credit
  creditB : Option Credit
deriving DecidableEq, Repr

/-- A granted pass whose writes are not complete (R226, R233). -/
structure Pass where
  cluster : Nat
  fa : Nat
  fb : Nat
  mode : Nat
  quarters : List PassQuarter
deriving DecidableEq, Repr

/-- Kinds of accumulator operations besides passes (R236 to R239). -/
inductive AccOpKind where
  | drain (mode target : Nat) (table : List Byte)
  | loadBack
  | clear (both : Bool)
deriving DecidableEq, Repr

/-- A queued drain, load-back or clear (R236): its place among the operations, its rows, its tile bytes. -/
structure AccOp where
  cluster : Nat
  pitch : Nat
  order : Nat
  lid : Nat
  kind : AccOpKind
  row : Nat
  count : Nat
  half : Bool
  core : Nat
  addr : Nat
  credit : Option Credit
deriving DecidableEq, Repr

/-- A grammar evaluation issued (R243 to R245): its configuration, input tile and range; how far it has come. -/
structure Eval where
  cluster : Nat
  pitch : Nat
  cls : Nat
  order : Nat
  cfg : GramCfg
  asid : Nat
  level : Nat
  core : Nat
  addr : Nat
  tileBytes : Nat
  credit : Option Credit
  nv : Nat
  cq : Nat
  push : Bool
  running : Bool
  item : Nat
  rule : Nat
  depth : Nat
  open_ : Bool
  /-- Within a rule. -/
  mid : Bool
  /-- Ended by the cancellation of its chain while it was parked (R164). -/
  abort : Bool := false
  sums : List Ex
  /-- Rule values kept: rule modulo 2,048, depth, value of each vector. -/
  file : List (Nat × Nat × List Word32)
  rowsWritten : List Nat
  ended : Bool
  /-- The compressed chunk that the evaluation reads its items from (R216). -/
  chunks : List (Nat × List Byte) := []
  fid : Option Nat
deriving DecidableEq, Repr

/-- A B slot of a matrix engine: tag of the operand it holds (R229). -/
structure BSlot where
  cluster : Nat
  index : Nat
  key : Nat
deriving DecidableEq, Repr

/-- A primitive record (R279) as read at issue. -/
structure Prim where
  xs : List Word32
  visw : Word32
  cull : Nat
deriving DecidableEq, Repr

/-- A RAST operation waiting for the raster engine (R283). -/
structure RastOp where
  cluster : Nat
  thread : ThreadName
  cls : Nat
  order : Nat
  prims : List Prim
  vis : Place
  dep : Place
  credits : List Credit
  ocb : Nat
  testOnly : Bool
  count : Bool
  x0 : Nat
  y0 : Nat
  ww : Nat
  wh : Nat
  dst : RegF
  done : Option Word32
deriving DecidableEq, Repr

/-- Slot states of a ring (R264). -/
inductive SlotState where
  | free
  | filling
  | ready
  | late
  | draining
  | held
deriving DecidableEq, Repr

/-- Owner of an acquired slot: a workgroup, or a strip chain (R265). -/
inductive SlotOwner where
  | wg (core slot lid : Nat)
  | chain (plan n : Nat)
deriving DecidableEq, Repr

/-- A ring slot outside FREE (R264, R265). -/
structure RingSlot where
  ring : Nat
  slot : Nat
  st : SlotState
  seq : Nat
  owner : Option SlotOwner
  /-- Recorded hold: first line, count. -/
  hold : Option (Nat × Nat)
  /-- RGREL.PUB executed; copies into it still to land. -/
  publishing : Bool
  lid : Nat
deriving DecidableEq, Repr

/-- A plan read at enable (R254). -/
structure Plan where
  orl : Nat
  height : Nat
  late : Nat
  bsr : Nat
  pfmt : Nat
  wid : Nat
  spf : Nat
  ring : Nat
  epoch : Nat
  lper : Nat
  vtot : Nat
  voff : Nat
  lead : Nat
  budg : Nat
  guard_ : Nat
  fill : Nat
  tasks : List TaskRec
  stat : Nat
  crb : Nat
  crn : Nat
  qaddr : Nat
  nref : Nat
  cmx : Bool
  nenc : Nat
  bsa : Nat
  bsz : Nat
  encoder : Bool
  lid : Nat
  asid : Nat := 0
deriving DecidableEq, Repr

/-- A strip chain in flight (R256, R260, R261): levels, tasks left, and in units of 2^-32 ns when the last of them completed and when its
slot was published. -/
structure Chain where
  slot : Nat
  n : Nat
  clevel : Nat
  lv0 : Nat
  left : Nat
  lastDone : Nat
  published : Option Nat
deriving DecidableEq, Repr

/-- A plan slot in use (R252, R260): the slot with the launch id in a key, estimates, the next strip, chains. -/
structure PlanSlot where
  slot : Nat
  plan : Plan
  enabled : Bool
  est : List Nat
  nextN : Nat
  chains : List Chain
deriving DecidableEq, Repr

/-- A serialiser (R267): its link; the plan slot and the plan that time it; the first strip of that plan and the next one to need; the
next line, counted from line 0 of frame 0; the strip in progress and whether it is treated as late; the last line scanned from a
published slot, and the line sent last, as channel values (none for blanking). -/
structure Serialiser where
  unit : Nat
  rate : Nat
  lanes : Nat
  bpc : Nat
  plan : Option (Nat × Plan)
  firstStrip : Nat
  nextStrip : Nat
  line : Int
  strip : Option (Nat × Bool)
  last : Option (List Nat)
  shown : List Nat
deriving DecidableEq, Repr

/-- An encoder session of a plan (R268): its plan and first strip; the frame and row to code next; whether the frame is a key frame and
whether the next one must be; where the frame's unit began and whether it is dropped; base_q_idx of the frame; how the last row was coded: 0 from its lines, 1 as skip
blocks, 2 as FILL (R262). -/
structure EncSession where
  slot : Nat
  plan : Plan
  asid : Nat
  firstStrip : Nat
  frame : Nat
  row : Nat
  key : Bool
  nextKey : Bool
  unitStart : Nat
  dropped : Bool
  qidx : Nat
  treated : Nat
deriving DecidableEq, Repr

/-- A pack that ended its clause before the stop reached its core: its threads as the clause ended, words retired since the trigger,
and where the lowest of its threads that has not exited stands (R311). -/
structure PastPack where
  core : Nat
  pipe : Nat
  threads : List ThreadName
  skid : Nat
  point : Option Pc
deriving DecidableEq, Repr

/-- What happened during a cluster stop and takes effect at thaw (R36, R261, R312): a condition met, a phase of a barrier object complete,
batches done, a core's queues to be served, a workgroup cancelled. -/
inductive Thawing where
  | met (n : ThreadName)
  | phase (c : Credit)
  | batches (n : ThreadName)
  | queues (core : Nat)
  | cancel (core slot : Nat)
deriving DecidableEq, Repr

/-- A cluster stop in force (R310 to R312). -/
structure Stop where
  cluster : Nat
  src : Nat
  idx : Nat
  /-- In DTC ns. -/
  t0 : Nat
  /-- Cores the stop has reached. -/
  reached : List Nat
  complete : Bool
  /-- Pipe, as 4·core + pipe, of the pack that a debug step runs, and its threads as the step began (R312). -/
  stepping : Option Nat
  stepThreads : List ThreadName
  thawAsked : Bool
  /-- What takes effect at thaw, in the order in which it happened (R36, R312). -/
  deferred : List Thawing
  /-- Core and pipe of the word whose access, or whose register write, triggered the stop: it is not counted in the skid (R311). -/
  firing : Option (Nat × Nat) := none
  /-- Packs that ended their clause between the trigger and the stop's arrival at their core (R311). -/
  past : List PastPack
  /-- The stop is a checkpoint's (R328). -/
  checkpoint : Bool
deriving DecidableEq, Repr

/-- The hardware timestamp of a port's last PTP event message: DTC in 2^-32 ns, the message's form and transport (R249). -/
structure PtpStamp where
  port : Nat
  time : BitVec 96
  oneStep : Bool
  transport : PtpTransport
deriving DecidableEq, Repr

/-- What the firmware holds (R325, R328 to R332). -/
structure Firmware where
  phase : Nat
  recovery : Bool
  image : Option FwImage
  measurements : List (BitVec 256)
  attested : Nat
  report : List (BitVec 256)
  timingPort : Option Nat
  stamps : List PtpStamp
  peers : List (Nat × Bool)
  corrected : List (Nat × Nat × Nat)
  retired : List (Nat × Bool)
  thermalHold : Bool
  powerOff : Bool
  tripped : Bool
  powerCap : Nat
  spares : List Nat
deriving DecidableEq, Repr

/-- The turns of the agenda: which agent moves next (DESIGN CHOICE, log 1). -/
inductive Turn where
  | issue (core pipe : Nat)
  | event (i : Instr)
deriving DecidableEq, Repr

/-- The time counters (R247, R429). -/
structure Clock where
  dtc : BitVec 136
  adj : BitVec 32
  stref : Bool
  clk : Word64
deriving DecidableEq, Repr

/-- Memories and what lies between threads and them. -/
structure Store where
  mem : Mem
  scratch : Mem
  acc : Sparse Word32
  awning : Mem
  dregs : Sparse Word64
  l1 : List Line
  /-- Older values of 64-bit words that stores have changed, with the cores whose instruction invalidate has covered the word since
  (R50). -/
  stale : List (Nat × Word64 × List Nat)
  tlb : List Trans
  walks : List WalkEntry
  /-- Poisoned 64-byte units: of physical memory, and above 2^50 of scratchpads, above 2^51 of the Awning (R304). -/
  poison : List Nat
  conflicts : List ConRec
  outst : List Outstanding
  faults : List FaultRec
  errs : List ErrRec
  nextFid : Nat
  carveouts : List (Nat × Nat)
deriving DecidableEq, Repr

/-- Launches, workgroups, threads, packs, tasks. -/
structure Work where
  launches : List Launch
  nextLid : Nat
  groups : List Workgroup
  threads : List Thread
  packs : List Pack
  resumes : List Pack
  tasks : List Task
  trapQueue : List ThreadName
  waitOrder : Nat
  /-- Cores that spill registers until the pool is filled up again (R103). -/
  spilling : List Nat
  /-- The last decision of a core's picker: core, cycle, pipe (R98). -/
  decided : List (Nat × Nat × Nat)
deriving DecidableEq, Repr

/-- Copy engines, tiles, matrix, raster. -/
structure Engines where
  tiles : List TileInst
  marks : List Mark
  delayed : List BarOp
  copies : List Copy
  nextCopy : Nat
  heldDeliveries : List HeldDelivery
  ptrs : List ChanPtr
  pitches : List Pitch
  units : List MatUnit
  passes : List Pass
  accOps : List AccOp
  evals : List Eval
  bslots : List BSlot
  rasts : List RastOp
deriving DecidableEq, Repr

/-- Strip scheduler, rings, outputs. -/
structure Media where
  slots : List RingSlot
  /-- Void sequences not yet passed, and sequences never acquired that are to be LATE: ring and sequence (R261, R264). -/
  voids : List (Nat × Nat)
  lates : List (Nat × Nat)
  plans : List PlanSlot
  serialisers : List Serialiser
  encoders : List EncSession
deriving DecidableEq, Repr

/-- The PICK choices of a pipe (R316): total, and the entry in use: bucket, pack size, run length so far, buffer offset. -/
structure PickRec where
  core : Nat
  pipe : Nat
  total : Nat
  slot : Nat
  crew : Nat
  ca : VAddr
  size : Nat
  len : Nat
  at_ : Nat
deriving DecidableEq, Repr

/-- Counts of a workgroup for SUMMARY records since the last one (R313, R314). -/
structure TraceCount where
  core : Nat
  slot : Nat
  clauses : Nat
  words : Nat
  blocked : Nat
  since : Nat
deriving DecidableEq, Repr

/-- A tagged word of a pipe (R315): its position, its pack, and the memory level and TLB codes of its record. -/
structure Tagged where
  core : Nat
  pipe : Nat
  pc : Pc
  threads : List ThreadName
  level : Nat
  tlb : Nat
deriving DecidableEq, Repr

/-- A checkpoint image (R328): what it holds, and its valid mark. -/
structure Checkpoint where
  dest : Nat
  clock : Clock
  store : Store
  work : Work
  engines : Engines
  media : Media
  valid : Bool
deriving DecidableEq, Repr

/-- Debug, checkpoint and firmware. -/
structure Control where
  stops : List Stop
  tagged : List Tagged
  picks : List PickRec
  /-- Cycle of the last logged choice of a replaying cluster (R317). -/
  replayAt : List (Nat × Nat)
  counts : List TraceCount
  image : Option Checkpoint
  /-- Host writes held by a checkpoint, whether it stops launch admission, and whether HALT was written (R328). -/
  heldWrites : List Instr
  checkpointHalt : Bool
  checkpointStay : Bool
  fw : Firmware
deriving DecidableEq, Repr

/-- The machine. `agenda`, `cur` and `freeCtr` are the model's own (DESIGN CHOICE, log 1). -/
structure State where
  clock : Clock
  store : Store
  work : Work
  engines : Engines
  media : Media
  control : Control
  agenda : List Turn
  /-- Core and pipe whose word executes. -/
  cur : Option (Nat × Nat)
  /-- Counter of free values used so far. -/
  freeCtr : Nat
deriving DecidableEq, Repr

/-- Reasons to stop with a fault: none. R6: no operation of the device has an undefined outcome, so no step faults. -/
inductive Fault where
  /-- Raised by no step of this model; it gives the type a name. Safe: a stop proves nothing. -/
  | unreachable
deriving DecidableEq, Repr

/-- Reasons to answer no meaning. -/
inductive Refusal where
  /-- An instruction with no meaning in the model yet, raised by its arm of `exec`. Safe: a stop proves nothing. -/
  | notModelled (mnemonic : String)
deriving DecidableEq, Repr

/-- Time right after reset (R247); CLK is the model's choice (DESIGN CHOICE, log 2). -/
def Clock.reset : Clock := { dtc := 0, adj := 0, stref := false, clk := 0 }

/-- Memories right after reset: nothing listed (DESIGN CHOICE, log 3). -/
def Store.reset : Store :=
  { mem := [], scratch := [], acc := [], awning := [], dregs := [], l1 := [], stale := [], tlb := [], walks := [], poison := []
    conflicts := [], outst := [], faults := [], errs := [], nextFid := 0, carveouts := [] }

/-- No launch; the first launch id is the model's choice (DESIGN CHOICE, log 4). -/
def Work.reset : Work :=
  { launches := [], nextLid := 1, groups := [], threads := [], packs := [], resumes := [], tasks := [], trapQueue := []
    waitOrder := 0, spilling := [], decided := [] }

/-- Engines idle. -/
def Engines.reset : Engines :=
  { tiles := [], marks := [], delayed := [], copies := [], nextCopy := 0, heldDeliveries := [], ptrs := [], pitches := [], units := []
    passes := [], accOps := [], evals := [], bslots := [], rasts := [] }

/-- Rings FREE, no plan, outputs idle. -/
def Media.reset : Media := { slots := [], voids := [], lates := [], plans := [], serialisers := [], encoders := [] }

/-- Firmware before bring-up (DESIGN CHOICE, log 2). -/
def Firmware.reset : Firmware :=
  { phase := 0, recovery := false, image := none, measurements := List.replicate 8 0, attested := 0, report := []
    timingPort := none, stamps := [], peers := [], corrected := [], retired := [], thermalHold := false
    powerOff := false, tripped := false, powerCap := 1800, spares := [] }

/-- Debug idle, no image. -/
def Control.reset : Control :=
  { stops := [], tagged := [], picks := [], replayAt := [], counts := [], image := none, heldWrites := []
    checkpointHalt := false, checkpointStay := false, fw := Firmware.reset }

/-- The machine right after reset. -/
def State.reset : State :=
  { clock := Clock.reset, store := Store.reset, work := Work.reset, engines := Engines.reset, media := Media.reset
    control := Control.reset, agenda := [], cur := none, freeCtr := 0 }

end Sys2Proof.Machine
end

