-- ==== Sys2Proof/Machine/Base.lean ====
section
/-! DEFINITION. Sparse memories in canonical form, bytes and words, and how the parts of the state are found and updated. -/

namespace Sys2Proof.Machine

/-- Value at a number. -/
def sget {α : Type} (d : α) : Sparse α → Nat → α
  | [], _ => d
  | (j, x) :: r, k => if j == k then x else sget d r k

/-- Write a value, keeping the canonical form: numbers rising, none listed at the default. -/
def sput {α : Type} [BEq α] (d : α) : Sparse α → Nat → α → Sparse α
  | [], k, v => if v == d then [] else [(k, v)]
  | (j, x) :: r, k, v =>
    if k < j then (if v == d then (j, x) :: r else (k, v) :: (j, x) :: r)
    else if k == j then (if v == d then r else (k, v) :: r)
    else (j, x) :: sput d r k v

/-- The canonical form: numbers strictly rising, no entry at the default. -/
def sparseWf {α : Type} [BEq α] (d : α) : Sparse α → Bool
  | [] => true
  | (k, v) :: r => !(v == d) && (match r with | [] => true | (j, _) :: _ => decide (k < j)) && sparseWf d r

/-- One byte of a memory: what an unlisted address reads as is 0 (DESIGN CHOICE, log 3). -/
def Mem.byte (m : Mem) (a : Nat) : Byte := sget 0 m a

/-- Write one byte. -/
def Mem.put (m : Mem) (a : Nat) (v : Byte) : Mem := sput 0 m a v

/-- The canonical form of a memory. -/
def Memory.wf (m : Mem) : Bool := sparseWf (0 : Byte) m

/-- n bytes from an address up. -/
def Mem.read (m : Mem) (a : Nat) : Nat → List Byte
  | 0 => []
  | n + 1 => m.byte a :: Mem.read m (a + 1) n

/-- Write bytes from an address up. -/
def Mem.write (m : Mem) (a : Nat) : List Byte → Mem
  | [] => m
  | b :: r => Mem.write (m.put a b) (a + 1) r

/-- Little-endian value of bytes (R4). -/
def leVal : List Byte → Nat
  | [] => 0
  | b :: r => b.toNat + 256 * leVal r

/-- The n low bytes of a value, little-endian (R4). -/
def leBytes (v : Nat) : Nat → List Byte
  | 0 => []
  | n + 1 => BitVec.ofNat 8 v :: leBytes (v / 256) n

/-- A value of n bytes in memory. -/
def Mem.val (m : Mem) (a n : Nat) : Nat := leVal (m.read a n)

/-- Bits hi to lo of a value (R130). -/
def bits (x hi lo : Nat) : Nat := x / 2 ^ lo % 2 ^ (hi + 1 - lo)

/-- One bit of a value. -/
def bit (x i : Nat) : Bool := x.testBit i

/-- Replace bits hi to lo. -/
def setBits (x hi lo v : Nat) : Nat :=
  x % 2 ^ lo + (v % 2 ^ (hi + 1 - lo)) * 2 ^ lo + x / 2 ^ (hi + 1) * 2 ^ (hi + 1)

def b2n (b : Bool) : Nat := if b then 1 else 0

/-- The element of a list at a place, replaced. -/
def setAt {α : Type} : List α → Nat → α → List α
  | [], _, _ => []
  | _ :: r, 0, v => v :: r
  | x :: r, k + 1, v => x :: setAt r k v

/-- Replace the first element that a test picks. -/
def updFirst {α : Type} (p : α → Bool) (f : α → α) : List α → List α
  | [] => []
  | x :: r => if p x then f x :: r else x :: updFirst p f r

/-- Remove the first element that a test picks. -/
def dropFirst {α : Type} (p : α → Bool) : List α → List α
  | [] => []
  | x :: r => if p x then r else x :: dropFirst p r

/-- Least element by a key; the earliest of equals. -/
def minBy {α : Type} (lt : α → α → Bool) : List α → Option α
  | [] => none
  | x :: r => match minBy lt r with
    | none => some x
    | some y => if lt y x then some y else some x

/-- Insertion into a list kept by an order, after equals. -/
def insertBy {α : Type} (lt : α → α → Bool) (x : α) : List α → List α
  | [] => [x]
  | y :: r => if lt x y then x :: y :: r else y :: insertBy lt x r

/-- Stable sort. -/
def sortBy {α : Type} (lt : α → α → Bool) (l : List α) : List α :=
  l.foldl (fun acc x => insertBy lt x acc) []

/-- Threads in ascending workgroup thread index, then context (R178). -/
def nameLt (a b : ThreadName) : Bool := a.wti < b.wti || (a.wti == b.wti && a.ctx < b.ctx)

namespace State

/-- Nanoseconds of the device time counter (R247). -/
def dtcNs (s : State) : Nat := s.clock.dtc.toNat / 2 ^ 72

/-- Nanoseconds with the 32-bit fraction (R247). -/
def dtc96 (s : State) : Nat := s.clock.dtc.toNat / 2 ^ 40

/-- Cycles since bring-up (R429). -/
def now (s : State) : Nat := s.clock.clk.toNat

def thread? (s : State) (n : ThreadName) : Option Thread := s.work.threads.find? (fun t => t.name == n)

def setThreads (s : State) (l : List Thread) : State := { s with work := { s.work with threads := l } }

/-- Update the thread of a name. -/
def modThread (s : State) (n : ThreadName) (f : Thread → Thread) : State :=
  s.setThreads (s.work.threads.map (fun t => if t.name == n then f t else t))

/-- Update every thread that a test picks. -/
def modThreads (s : State) (p : Thread → Bool) (f : Thread → Thread) : State :=
  s.setThreads (s.work.threads.map (fun t => if p t then f t else t))

def group? (s : State) (core slot : Nat) : Option Workgroup :=
  s.work.groups.find? (fun g => g.core == core && g.slot == slot)

/-- Workgroup of a thread. -/
def groupOf (s : State) (n : ThreadName) : Option Workgroup := s.group? n.core n.slot

def modGroup (s : State) (core slot : Nat) (f : Workgroup → Workgroup) : State :=
  { s with work := { s.work with groups := s.work.groups.map (fun g => if g.core == core && g.slot == slot then f g else g) } }

def launch? (s : State) (lid : Nat) : Option Launch := s.work.launches.find? (fun l => l.lid == lid)

def modLaunch (s : State) (lid : Nat) (f : Launch → Launch) : State :=
  { s with work := { s.work with launches := s.work.launches.map (fun l => if l.lid == lid then f l else l) } }

def pack? (s : State) (core pipe : Nat) : Option Pack :=
  s.work.packs.find? (fun p => p.core == core && p.pipe == pipe)

def modPack (s : State) (core pipe : Nat) (f : Pack → Pack) : State :=
  { s with work := { s.work with packs := s.work.packs.map (fun p => if p.core == core && p.pipe == pipe then f p else p) } }

def dropPack (s : State) (core pipe : Nat) : State :=
  { s with work := { s.work with packs := s.work.packs.filter (fun p => !(p.core == core && p.pipe == pipe)) } }

/-- Remove a thread from its pack; an empty pack leaves its pipe (R15). -/
def leavePack (s : State) (n : ThreadName) : State :=
  let out (p : Pack) : Pack :=
    { p with threads := p.threads.filter (· != n), xrem := p.xrem.map (·.filter (· != n)) }
  { s with work := { s.work with
      packs := (s.work.packs.map out).filter (fun p => !p.threads.isEmpty)
      resumes := (s.work.resumes.map out).filter (fun p => !p.threads.isEmpty) } }

/-- A device register, by its physical address (R5). -/
def dreg (s : State) (pa : Nat) : Nat := (sget (0 : Word64) s.store.dregs pa).toNat

def setDreg (s : State) (pa v : Nat) : State :=
  { s with store := { s.store with dregs := sput (0 : Word64) s.store.dregs pa (BitVec.ofNat 64 v) } }

def setMem (s : State) (m : Mem) : State := { s with store := { s.store with mem := m } }

def setScratch (s : State) (m : Mem) : State := { s with store := { s.store with scratch := m } }

/-- Byte of a core's scratchpad: cores lie 1 MiB apart (R20). -/
def scratchByte (s : State) (core a : Nat) : Byte := s.store.scratch.byte (core * 2 ^ 20 + a)

def scratchRead (s : State) (core a n : Nat) : List Byte := s.store.scratch.read (core * 2 ^ 20 + a) n

def scratchVal (s : State) (core a n : Nat) : Nat := leVal (s.scratchRead core a n)

def scratchWrite (s : State) (core a : Nat) (l : List Byte) : State :=
  s.setScratch (s.store.scratch.write (core * 2 ^ 20 + a) l)

def scratchPut (s : State) (core a n v : Nat) : State := s.scratchWrite core a (leBytes v n)

/-- Accumulator element (R143, R221): 1,024 rows of 128 columns in each cluster. -/
def accGet (s : State) (cluster row col : Nat) : Word32 := sget (0 : Word32) s.store.acc (cluster * 2 ^ 17 + row * 128 + col)

def accPut (s : State) (cluster row col : Nat) (v : Word32) : State :=
  { s with store := { s.store with acc := sput (0 : Word32) s.store.acc (cluster * 2 ^ 17 + row * 128 + col) v } }

/-- Take the next free value (DESIGN CHOICE, log 1). -/
def fresh (s : State) : Nat × State := (s.freeCtr, { s with freeCtr := s.freeCtr + 1 })

end State

/-- Physical cluster of a core number. -/
def clusterOf (core : Nat) : Nat := core / 4

/-- Partition of a cluster (R25). -/
def partitionOf (cluster : Nat) : Nat := cluster / 16

/-- Predicate by number; P0 reads as true (R7). -/
def Thread.pred (t : Thread) (p : Nat) : Bool := p == 0 || t.preds.getLsbD p

/-- Write a predicate; P0 ignores writes (R7). -/
def Thread.setPred (t : Thread) (p : Nat) (v : Bool) : Thread :=
  if p == 0 then t
  else { t with preds := if v then t.preds ||| (1#16 <<< p) else t.preds &&& ~~~(1#16 <<< p) }

/-- The guard of R69. -/
def Thread.guard (t : Thread) (g : BitVec 4) (gn : Bool) : Bool := t.pred g.toNat != gn

/-- State of a V register; NEVER is absence (R101). -/
def Thread.reg? (t : Thread) (v : Nat) : Option Reg :=
  match t.regs.find? (fun e => e.1 == v) with | some e => some e.2 | none => none

/-- Value of a V register that is NEVER (0, R8) or LIVE; a SPILLED register is refilled before its word executes. -/
def Thread.reg (t : Thread) (v : Nat) : Word32 :=
  match t.reg? v with
  | some (.live x) => x
  | _ => 0

/-- Put a register state in ascending place. -/
def putReg : Sparse Reg → Nat → Reg → Sparse Reg
  | [], k, v => [(k, v)]
  | (j, x) :: r, k, v =>
    if k < j then (k, v) :: (j, x) :: r else if k == j then (k, v) :: r else (j, x) :: putReg r k v

/-- Write a V register; 127 discards (R55). -/
def Thread.setReg (t : Thread) (v : Nat) (x : Word32) : Thread :=
  if v == 127 then t else { t with regs := putReg t.regs v (.live x) }

/-- Write consecutive registers from a field; 127 discards them all (R55, R63). -/
def Thread.setRegs (t : Thread) (v : Nat) : List Word32 → Thread
  | [] => t
  | x :: r => if v == 127 then t else Thread.setRegs (t.setReg v x) (v + 1) r

/-- The value of n consecutive registers, low register first (R56). -/
def Thread.regsVal (t : Thread) (v : Nat) : Nat → Nat
  | 0 => 0
  | n + 1 => (t.reg v).toNat + 2 ^ 32 * t.regsVal (v + 1) n

/-- A value cut into n registers, low first (R56). -/
def cutRegs (x : Nat) : Nat → List Word32
  | 0 => []
  | n + 1 => BitVec.ofNat 32 x :: cutRegs (x / 2 ^ 32) n

end Sys2Proof.Machine
end

