-- ==== Sys2Proof/Machine/Ops.lean ====
section
/-! DEFINITION. The named operations the meanings share: roles and levels, translation, fault records, error logs, debug and
trail records, watchpoints, the cluster stop, memory at its home and in L1, conflict records, register and thread operations,
taking an exception and ending a thread. -/

namespace Sys2Proof.Machine

/-! ## Codes -/

/-- Cause codes (R293). -/
def Cause.code : Cause → Nat
  | .illegalOp => 0x01 | .illegalField => 0x02 | .illegalWord => 0x03 | .priv => 0x04 | .misalign => 0x05
  | .unitAbsent => 0x06 | .pageFault => 0x08 | .pageFatal => 0x09 | .prot => 0x0A | .mmxConflict => 0x10
  | .mmxOwner => 0x11 | .mmxCapacity => 0x12 | .bounds => 0x18 | .copyError => 0x19 | .compLength => 0x1A
  | .mcast => 0x1B | .grammarDepth => 0x20 | .grammarWindow => 0x21 | .grammarFormat => 0x22 | .noPitch => 0x24
  | .loopOvf => 0x28 | .callOvf => 0x29 | .qdeadlock => 0x2A | .fp => 0x30 | .bkpt => 0x38 | .watch => 0x39
  | .step => 0x3A | .holdService => 0x3B | .swtrap => 0x3F | .eccUncorr => 0x40

/-- A trap with its value. -/
def trapOf (c : Cause) (v : Nat) : TrapInfo := { cause := c, tval := BitVec.ofNat 32 v }

/-- PROT with a reason (R157, R293). -/
def protOf (reason : Nat) : TrapInfo := trapOf .prot reason

/-! ## Device registers by name -/

def regTile (p h : Nat) : Nat := 0xF000001000000 + 0x10000 * p + 16 * h
def regPitch (p : Nat) : Nat := 0xF000001400000 + 0x10000 * p
def regFreeze (p : Nat) : Nat := 0xF000001400200 + 0x10000 * p
def regPlan (i : Nat) : Nat := 0xF000002000000 + 0x40 * i
def regRing (r : Nat) : Nat := 0xF000003000000 + 32 * r
def regBin (k : Nat) : Nat := 0xF000003100000 + 32 * k
def regOccl (p : Nat) : Nat := 0xF000003200000 + 0x4000 * p
def regHold (core slot : Nat) : Nat := 0xF000004000000 + 0x10000 * (core / 4) + 0x400 * (core % 4) + 8 * slot
def regRestore (core : Nat) : Nat := 0xF000004000000 + 0x10000 * (core / 4) + 0x400 * (core % 4) + 0x200
def regDebug (p : Nat) : Nat := 0xF000005000000 + 0x10000 * p
def regCle : Nat := 0xF000000000000
def regCap : Nat := 0xF000000000008
def regCores (p : Nat) : Nat := 0xF000000000100 + 8 * p
def regLq : Nat := 0xF000000002000
def regFb : Nat := 0xF000000002100
def regCmapb : Nat := 0xF000000003000
def regAstb : Nat := 0xF000000003008
def regCk : Nat := 0xF000000005000

/-! ## The map of the device registers (R5, R319) -/

/-- A device register by its place. The offsets are of 64-bit registers. -/
inductive DevReg where
  /-- Read-only system words: CLE, CAP2 and CAP3, CORE, ASTB. -/
  | fixed (a : Nat)
  /-- DTC registers (R247). -/
  | dtcn | dtcfr | adj | stepv | stref
  /-- Launch queue, fault buffer, chunk map (R320). -/
  | lqb | lqt | lqerr | fb | fbr | answer | cmapb
  /-- Checkpoint registers (R327). -/
  | ckGo | ckDest | ckStat
  /-- A word of a tile table entry (R188). -/
  | tile (a : Nat) (hi : Bool)
  /-- A word of a pitch (R220). -/
  | pitch (cluster number word : Nat)
  | freeze (cluster : Nat)
  /-- A register of a plan slot (R252). -/
  | plan (slot off : Nat)
  | ring (r word : Nat)
  | bin (k word : Nat)
  /-- Two occlusion counters (R284). -/
  | occl (a : Nat)
  | hold (core slot : Nat)
  | rimg (core : Nat) | rgo (core : Nat) | rstat (core : Nat)
  /-- A register of a cluster's debug unit (R306). -/
  | debug (cluster off : Nat)
deriving DecidableEq, Repr

/-- Is an offset of the debug unit that of a register (R306 to R308, R314)? -/
def debugOff (o : Nat) : Bool := o < 0x40 || (0x100 ≤ o && o < 0x180) || (0x200 ≤ o && o < 0x240) || (0x300 ≤ o && o < 0x320)

/-- The register at a 64-bit offset from 0xF_0000_0000_0000. -/
def devReg (o : Nat) : Option DevReg :=
  let base := 0xF000000000000
  if o % 8 != 0 then none
  else if o < 0x10 || (0x100 ≤ o && o < 0x300) || o == 0x3008 then some (.fixed (base + o))
  else if o < 0x1000 then none
  else if o < 0x6000 then
    match o with
    | 0x1000 => some .dtcn
    | 0x1008 => some .dtcfr
    | 0x1010 => some .adj
    | 0x1018 => some .stepv
    | 0x1020 => some .stref
    | 0x2000 => some .lqb
    | 0x2008 => some .lqt
    | 0x2010 => some .lqerr
    | 0x2100 => some .fb
    | 0x2108 => some .fbr
    | 0x2110 => some .answer
    | 0x3000 => some .cmapb
    | 0x5000 => some .ckGo
    | 0x5008 => some .ckDest
    | 0x5010 => some .ckStat
    | _ => none
  else if 0x1000000 ≤ o && o < 0x1400000 then some (.tile (base + o) (o % 16 == 8))
  else if 0x1400000 ≤ o && o < 0x1800000 then
    let p := (o - 0x1400000) / 0x10000
    let k := o % 0x10000
    if k < 0x200 then some (.pitch p (k / 32) (k % 32 / 8)) else if k == 0x200 then some (.freeze p) else none
  else if 0x2000000 ≤ o && o < 0x2000280 then some (.plan ((o - 0x2000000) / 0x40) (o % 0x40))
  else if 0x3000000 ≤ o && o < 0x3002000 then some (.ring ((o - 0x3000000) / 32) (o % 32 / 8))
  else if 0x3100000 ≤ o && o < 0x3100200 then some (.bin ((o - 0x3100000) / 32) (o % 32 / 8))
  else if 0x3200000 ≤ o && o < 0x3300000 then some (.occl (base + o))
  else if 0x4000000 ≤ o && o < 0x4400000 then
    let k := o % 0x10000
    let core := 4 * ((o - 0x4000000) / 0x10000) + k / 0x400
    if 0x1000 ≤ k then none
    else match k % 0x400 with
      | 0x200 => some (.rimg core)
      | 0x208 => some (.rgo core)
      | 0x210 => some (.rstat core)
      | j => if j < 0x200 then some (.hold core (j / 8)) else none
  else if 0x5000000 ≤ o && o < 0x5400000 then
    if debugOff (o % 0x10000) then some (.debug ((o - 0x5000000) / 0x10000) (o % 0x10000)) else none
  else none

/-- Machine-level registers (R247). -/
def DevReg.machine : DevReg → Bool
  | .adj | .stepv | .stref => true
  | _ => false

/-- Registers whose fields a map marks RS: at program level they take PRIV (R5, R292, R306). -/
def DevReg.supervisor : DevReg → Bool
  | .lqb | .lqt | .fb | .fbr | .cmapb | .ckDest | .occl _ | .hold _ _ | .rimg _ | .rgo _ | .debug _ _ => true
  | .plan _ off => off == 0 || off == 8 || off == 0x28
  | .ring _ word => word == 0
  | .bin _ word => word < 2
  | _ => false

/-- CAP2 and CAP3 (R321). -/
def State.cap2 (s : State) : Nat := s.dreg regCap % 2 ^ 32
def State.cap3 (s : State) : Nat := s.dreg regCap / 2 ^ 32

/-- The media partition is present (R77, R321). -/
def State.media? (s : State) : Bool := bit s.cap2 21

/-- A core that the capability registers report enabled (R33, R320). -/
def State.coreEnabled (s : State) (p c : Nat) : Bool := bit (s.dreg regCle) p && bit (s.dreg (regCores p)) c

/-- Strip mode (R251). -/
def State.stripMode (s : State) : Bool := s.media.plans.any (fun p => p.enabled || !p.chains.isEmpty)

/-! ## Levels, roles and names -/

/-- Product of the extents of a domain (R24). -/
def Launch.prod (l : Launch) (dom : Nat) : Nat := (l.levels.filter (·.dom == dom)).foldl (fun a x => a * x.ext) 1

def Launch.pC (l : Launch) : Nat := l.prod 1
def Launch.pK (l : Launch) : Nat := l.prod 2
def Launch.pP (l : Launch) : Nat := l.prod 3
def Launch.pD (l : Launch) : Nat := l.prod 4

/-- Number of workgroups of a launch (R26, R111). -/
def Launch.count (l : Launch) : Nat := l.pK * l.pP * l.pD

/-- Core roles enabled by CRM, ascending (R26). -/
def Launch.roles (l : Launch) : List Nat := (List.range 4).filter (fun i => bit l.crm i)

/-- Digits of the mixed radix of R27 over the sources by domain: (LIX, LEX) of each level. -/
def levelDigits : List Level → (Nat → Nat) → List (Nat × Nat)
  | [], _ => []
  | v :: r, src =>
    (src v.dom % v.ext, v.ext) :: levelDigits r (fun d => if d == v.dom then src d / v.ext else src d)

/-- LIX and LEX of the eight levels of thread (squad j, index i) of workgroup w (R27). -/
def Launch.indices (l : Launch) (w j i : Nat) : List (Nat × Nat) :=
  let src (d : Nat) : Nat := match d with
    | 0 => i
    | 1 => j
    | 2 => w % l.pK
    | 3 => w / l.pK % l.pP
    | _ => w / (l.pK * l.pP)
  let ds := levelDigits l.levels src
  ds ++ List.replicate (8 - ds.length) (0, 1)

/-- The 128-bit logical name (R296). -/
def Launch.logical (l : Launch) (w wti : Nat) : BitVec 128 :=
  let ix := l.indices w (wti / 32) (wti % 32)
  let go := ix.foldl (fun (a : Nat × Nat) d => (a.1 + 2 ^ (12 * a.2) * (d.1 % 4096), a.2 + 1)) (0, 0)
  BitVec.ofNat 128 (go.1 + 2 ^ 96 * (wti % 32))

/-- Logical name of a thread, 0 when its workgroup is gone. -/
def State.logicalOf (s : State) (n : ThreadName) : BitVec 128 :=
  match s.groupOf n with
  | some g => match s.launch? g.lid with | some l => l.logical g.w n.wti | none => 0
  | none => 0

/-- Thread-state area of a thread (R13, R27, R111). -/
def State.tsaOf (s : State) (n : ThreadName) : Nat :=
  match s.groupOf n with
  | some g => match s.launch? g.lid with
    | some l => l.tsa.toNat + 2560 * (g.area * 32 * l.pC + n.wti)
    | none => 0
  | none => 0

/-- Address space of a thread. -/
def State.asidOf (s : State) (n : ThreadName) : Nat :=
  match s.groupOf n with
  | some g => match s.launch? g.lid with | some l => l.asid | none => 0
  | none => 0

/-- State of a cluster group's member on a core role (R145). -/
inductive Member where
  | unbound
  | pending
  | run (g : Workgroup)
  | gone

/-- The member of a cluster group that was started from the launch record (R145, R26). -/
def State.memberOf (s : State) (l : Launch) (q group role : Nat) : Member :=
  let k := group * l.roles.length + (l.roles.findIdx (· == role))
  let bound := match (l.clusters.getD q none) with
    | some c => (c.cores.getD role none).isSome
    | none => false
  if !(bit l.crm role) || !bound || l.pK ≤ k || l.plan.isSome then .unbound
  else
    let w := q * l.pK + k
    match s.work.groups.find? (fun g => g.lid == l.lid && g.w == w && g.entry.isNone) with
    | some g => if g.away.isSome then .pending else if g.exiting then .gone else .run g
    | none => if l.finished.contains w then .gone else .pending

/-- The member a peer access of workgroup g reaches: its own core role is its own allocation (R145). -/
def State.peerOf (s : State) (l : Launch) (g : Workgroup) (role : Nat) : Member :=
  if role == g.role then .run g else s.memberOf l g.q g.group role

/-- The home member of a tile of workgroup g (R189). In a launch that a plan supplies, whose workgroups never start, a task on the
tile's core role is its own home (DEDUCED, log 15). -/
def State.homeOf (s : State) (l : Launch) (g : Workgroup) (role : Nat) : Member :=
  if role == g.role && (g.entry.isNone || l.plan.isSome) then .run g else s.memberOf l g.q g.group role

/-! ## Error log, fault records -/

/-- Log an error against a launch (R323): the count rises, the first cause and address are kept. -/
def State.logError (s : State) (lid cause addr : Nat) : State :=
  s.modLaunch lid (fun l =>
    if l.errors == 0 then { l with errors := 1, firstCause := cause, firstAddr := BitVec.ofNat 64 addr }
    else { l with errors := l.errors + 1 })

/-- A record of the device error log (R304, R324), with a unit code that the manual does not give (DESIGN CHOICE, log 33). -/
def State.deviceError (s : State) (kind asid addr index count : Nat) : State :=
  let (k, s1) := s.fresh
  let e : ErrRec := { kind := kind, asid := asid, addr := addr, unit := (Config.unitCode k).toNat, index := index, count := count }
  { s1 with store := { s1.store with errs := s1.store.errs ++ [e] } }

/-- Park on a replayable fault: the outstanding record of the same address space, page and kind, or a new identity (R161). -/
def State.parkFault (s : State) (asid kind level va : Nat) : Nat × State :=
  match s.store.faults.find? (fun f => f.asid == asid && f.kind == kind && f.va / 4096 == va / 4096) with
  | some f => (f.fid, s)
  | none =>
    let f : FaultRec := { fid := s.store.nextFid, asid := asid, kind := kind, level := level, va := va, written := false }
    (f.fid, { s with store := { s.store with faults := s.store.faults ++ [f], nextFid := (s.store.nextFid + 1) % 2 ^ 32 } })

/-! ## Translation (R151 to R159) -/

/-- Memory type of a populated physical address: 0 normal, 1 device registers; none when unpopulated (R151). Expanders of
1,152 GiB each follow one another from the base of the CXL range (PRESUMED, log 16). -/
def State.populated (s : State) (pa : Nat) : Option Nat :=
  if pa < 0x30000000000 then some 0
  else if 0x100000000000 ≤ pa && pa < 0x190000000000 then
    let ports := ((List.range 8).filter (fun i => bit s.cap2 (13 + i))).length
    if bits s.cap3 31 28 != 1 && pa - 0x100000000000 < ports * (1152 * 2 ^ 30) then some 0 else none
  else if 0x4000000000000 ≤ pa && pa < 0x8000000000000 then some 0
  else if 0xF000000000000 ≤ pa && pa < 0xF000100000000 then some 1
  else none

/-- Who translates: a core, with an L1 TLB before the L2 TLB of its cluster, or a unit of a cluster (R158). -/
inductive Mmu where
  | core (c : Nat)
  | unit (cluster : Nat)
deriving DecidableEq, Repr

def Mmu.cluster : Mmu → Nat
  | .core c => c / 4
  | .unit p => p

/-- Outcome of a walk. -/
inductive Walk where
  | found (t : Trans)
  | fault (level : Nat)
  | fatal (reason level : Nat)

/-- A leaf's bits that every member of a coalesced group shares (R156): 63-59, 57-56 and 8. -/
def groupBits (e : Nat) : Nat := bits e 63 59 * 8 + bits e 57 56 * 2 + bits e 8 8

/-- A leaf's page size at a level (R153). -/
def pageSize (level : Nat) : Nat := 2 ^ (12 + 9 * level)

/-- Reserved and malformed bits of a valid entry (R154, R155 reason 2). -/
def entryBad (level e : Nat) : Bool :=
  let leaf := bit e 1
  bits e 55 52 != 0 || bits e 11 9 != 0 || bits e 7 3 != 0 ||
  (!leaf && (level == 0 || bits e 63 56 != 0 || bit e 8)) ||
  (leaf && (3 ≤ level || 2 ≤ bits e 57 56 || bits e 51 0 / 4096 * 4096 % pageSize level != 0 ||
    (bit e 58 && level == 2) || (bit e 61 && bit e 59) ||
    (bits e 57 56 == 1 && (bit e 63 || bit e 61 || bit e 60 || bit e 59))))

/-- Is the coalesced group of member entry idx of a table consistent (R156)? -/
def State.groupOk (s : State) (level table idx e : Nat) : Bool :=
  let n := if level == 0 then 16 else 32
  let first := idx / n * n
  let ents := (List.range n).map (fun i => (i, s.store.mem.val (table + 8 * (first + i)) 8))
  let frame (x : Nat) : Nat := bits x 51 0 / 4096 * 4096
  let base := frame e - (idx % n) * pageSize level
  base % (n * pageSize level) == 0 && (idx % n) * pageSize level ≤ frame e &&
  ents.all (fun (i, x) => bit x 0 && bit x 1 && bit x 58 && groupBits x == groupBits e && frame x == base + i * pageSize level)

/-- The walk from a table at a level down (R153, R155). -/
def State.walkFrom (s : State) (cluster asid va : Nat) : Nat → Nat → Walk
  | level, table =>
    if s.populated table != some 0 then .fatal 4 level else
    let idx := va / pageSize level % 512
    let e := s.store.mem.val (table + 8 * idx) 8
    if !(bit e 0) then (if bit e 2 then .fault level else .fatal 1 level)
    else if entryBad level e then .fatal 2 level
    else if bit e 1 then
      let cont := bit e 58
      if cont && !(s.groupOk level table idx e) then .fatal 3 level
      else if s.populated (bits e 51 0 / 4096 * 4096) != some (bits e 57 56) then .fatal 4 level
      else
        let n := if cont then (if level == 0 then 16 else 32) else 1
        let size := n * pageSize level
        .found { cluster := cluster, asid := asid, va := va / size * size, size := size
                 pa := bits e 51 0 / 4096 * 4096 - (idx % n) * pageSize level, leaf := BitVec.ofNat 64 e }
    else
      match level with
      | 0 => .fatal 2 0
      | k + 1 => s.walkFrom cluster asid va k (bits e 51 0 / 4096 * 4096)

/-- Addresses under one entry of a table that points to tables of a level (R153). -/
def WalkEntry.covers (x : WalkEntry) (asid va : Nat) : Bool := x.asid == asid && va / 2 ^ (21 + 9 * x.level) == x.va / 2 ^ (21 + 9 * x.level)

/-- The lowest cached table entry of a cluster over an address: level and table (R158). -/
def State.walkStart (s : State) (cluster asid va : Nat) : Option (Nat × Nat) :=
  (minBy (fun (a b : WalkEntry) => a.level < b.level) (s.store.walks.filter (fun x => x.cluster == cluster && x.covers asid va))).map
    (fun x => (x.level, x.table))

/-- The walk of an address in an address space: from its table of level 4, or below a cached table entry (R152, R155, R158). -/
def State.walk (s : State) (cluster asid va : Nat) : Walk :=
  match s.walkStart cluster asid va with
  | some (level, table) => s.walkFrom cluster asid va level table
  | none =>
    let e := s.store.mem.val (s.dreg regAstb + 8 * asid) 8
    if !(bit e 63) || bits e 62 52 != 0 || bits e 11 0 != 0 then .fatal 5 5
    else s.walkFrom cluster asid va 4 (bits e 51 12 * 4096)

/-- Table entries that the walk from a table at a level reads: level and physical address. -/
def State.walkReads (s : State) (va : Nat) : Nat → Nat → List (Nat × Nat)
  | level, table =>
    if s.populated table != some 0 then [] else
    let a := table + 8 * (va / pageSize level % 512)
    let e := s.store.mem.val a 8
    (level, a) :: (if !(bit e 0) || entryBad level e || bit e 1 then [] else
      match level with
      | 0 => []
      | k + 1 => s.walkReads va k (bits e 51 0 / 4096 * 4096))

/-- Does a TLB entry serve an address for one that translates: an L1 entry of the core, or an L2 entry of the cluster? -/
def Trans.serves (t : Trans) (m : Mmu) (asid va : Nat) : Bool :=
  t.asid == asid && t.va ≤ va && va < t.va + t.size && t.cluster == m.cluster &&
  (match t.core, m with | none, _ => true | some c, .core d => c == d | some _, .unit _ => false)

/-- The cached translation of an address: of the core's L1 TLB before that of the L2 TLB (R158). -/
def State.cached (s : State) (m : Mmu) (asid va : Nat) : Option Trans :=
  let l := s.store.tlb.filter (fun t => t.serves m asid va)
  (l.find? (·.core.isSome)).or l.head?

/-- A translation: a cached one, or a walk now (R158, R159; DESIGN CHOICE, log 17). -/
def State.translate (s : State) (m : Mmu) (asid va : Nat) : Walk :=
  match s.cached m asid va with
  | some t => .found t
  | none => s.walk m.cluster asid va

/-- Kind of a translated access, for the checks of R157. -/
structure AccKind where
  write : Bool
  fetch : Bool := false
  /-- A thread load, store, atomic or reduction. -/
  thread : Bool := false
  bytes : Nat
deriving DecidableEq, Repr

/-- The checks of R157; the reason of the first that fails. -/
def protReason (leaf level : Nat) (k : AccKind) : Option Nat :=
  if k.write && !(bit leaf 8) then some 1
  else if k.fetch && !(bit leaf 63) then some 2
  else if level == 0 && bit leaf 62 then some 3
  else if k.thread && bit leaf 59 then some 6
  else if bits leaf 57 56 == 1 && (level == 0 || !(k.bytes == 4 || k.bytes == 8)) then some 7
  else none

/-- Outcome of translating and checking one access. -/
inductive Xlat where
  /-- Physical address and leaf. -/
  | ok (pa leaf : Nat)
  /-- Replayable, at a level. -/
  | park (level : Nat)
  | trap (t : TrapInfo)

/-- Does an RS device register stand at a physical address? -/
def State.rsAt (s : State) (pa : Nat) : Bool :=
  s.populated pa == some 1 && ((devReg (pa / 8 * 8 - 0xF000000000000)).elim false DevReg.supervisor)

/-- Translate and check one access at a privilege level. An RS register that a program reaches through an MT = 1 page takes PRIV, as R292
and R306 say of the register; any other access to that page at program level takes PROT reason 7, as R157 says of the page (DESIGN
CHOICE, log 40). -/
def State.xlat (s : State) (m : Mmu) (asid va level : Nat) (k : AccKind) : Xlat :=
  match s.translate m asid va with
  | .found t =>
    match protReason t.leaf.toNat level k with
    | some r =>
      if r == 7 && level == 0 && s.rsAt (t.pa + (va - t.va)) then .trap { trapOf .priv 0 with vaddr := BitVec.ofNat 64 va }
      else .trap { protOf r with vaddr := BitVec.ofNat 64 va }
    | none => .ok (t.pa + (va - t.va)) t.leaf.toNat
  | .fault l => .park l
  | .fatal r l => .trap { trapOf .pageFatal (r + 256 * l) with vaddr := BitVec.ofNat 64 va }

/-! ## Debug unit records (R306, R313) -/

/-- Register of the debug unit. -/
def State.dbg (s : State) (p off : Nat) : Nat := s.dreg (regDebug p + off)

def State.setDbg (s : State) (p off v : Nat) : State := s.setDreg (regDebug p + off) v

/-- Write one 64-byte record into a cluster's debug buffer, or count it lost (R306). A record whose buffer does not begin in populated
memory is dropped and not counted (DESIGN CHOICE, log 42). -/
def State.debugRecord (s : State) (p : Nat) (b : List Byte) : State :=
  let r := s.dbg p 0x10
  let size := 2 ^ (12 + bits r 63 60)
  let base := bits r 51 12 * 4096
  let w := s.dbg p 0x18
  let wp := w % 2 ^ 32
  if s.populated base != some 0 then s
  else if (wp + 64) % size == (w / 2 ^ 32) % size then
    let l := s.dbg p 0x20
    s.setDbg p 0x20 (if l < 2 ^ 32 - 1 then l + 1 else l)
  else (s.setMem (s.store.mem.write (base + wp % size) b)).setDbg p 0x18 (w / 2 ^ 32 * 2 ^ 32 + (wp + 64) % size)

/-- The 64 bytes of a record from its eight words. -/
def recBytes (ws : List Nat) : List Byte := ws.flatMap (fun w => leBytes w 8)

/-- Task entry plus one of a workgroup (R296). -/
def Workgroup.tke (g : Workgroup) : Nat := match g.entry with | some e => e + 1 | none => 0

/-- Header words 0 to 3 of a record that names a thread (R313). -/
def State.recHeader (s : State) (kind p c : Nat) (n : Option ThreadName) : List Nat :=
  let w0 := kind * 2 ^ 56 + p * 2 ^ 50 + c * 2 ^ 48 + s.dtcNs % 2 ^ 48
  match n with
  | none => [w0, 0, 0, 0]
  | some n =>
    let g := s.groupOf n
    let t := s.thread? n
    let lid := match g with | some g => g.lid | none => 0
    let tke := match g with | some g => g.tke | none => 0
    let rgn := match t with | some t => t.region.toNat | none => 0
    let crew := match t with | some t => t.crew | none => 0
    let nm := (s.logicalOf n).toNat
    [w0, lid * 2 ^ 48 + rgn * 2 ^ 16 + crew * 2 ^ 14 + tke, nm % 2 ^ 64, nm / 2 ^ 64]

/-- An EVENT record (R313): code, detail, address. -/
def State.eventRecord (s : State) (p c : Nat) (n : Option ThreadName) (code detail addr : Nat) : State :=
  s.debugRecord p (recBytes (s.recHeader 0x0A p c n ++ [code, detail, addr, 0]))

/-! ## The cluster stop and watchpoints (R308 to R310) -/

def State.stop? (s : State) (p : Nat) : Option Stop := s.control.stops.find? (·.cluster == p)

def State.modStop (s : State) (p : Nat) (f : Stop → Stop) : State :=
  { s with control := { s.control with stops := s.control.stops.map (fun x => if x.cluster == p then f x else x) } }

/-- Has the stop reached a core? -/
def State.stopped (s : State) (core : Nat) : Bool :=
  match s.stop? (clusterOf core) with | some x => x.reached.contains core | none => false

/-- Remember what takes effect at thaw, once. -/
def State.deferTo (s : State) (p : Nat) (x : Thawing) : State :=
  s.modStop p (fun y => if y.deferred.contains x then y else { y with deferred := y.deferred ++ [x] })

/-- Trigger the cluster stop: STOP, SRC and SIDX, and FRZ at once, which withdraws the matrix units with no granted quarter; nothing
under a stop in force (R240, R310). -/
def State.triggerStop (s : State) (p src idx : Nat) : State :=
  if (s.stop? p).isSome then s else
  let r := s.dbg p 0
  let r := setBits (setBits (setBits r 63 63 1) 55 48 src) 47 44 idx
  let s := (s.setDbg p 0 r).setDreg (regFreeze p) (setBits (s.dreg (regFreeze p)) 0 0 1)
  let x : Stop := { cluster := p, src := src, idx := idx, t0 := s.dtcNs, reached := [], complete := false, stepping := none
                    stepThreads := [], thawAsked := false, deferred := [], past := [], checkpoint := false, firing := s.cur }
  { s with control := { s.control with stops := s.control.stops ++ [x] }
           engines := { s.engines with units := s.engines.units.filter (fun u => u.cluster != p || u.begun) }
           work := { s.work with packs := s.work.packs.map (fun k => if clusterOf k.core == p then { k with skid := 0 } else k) } }

/-! ## The trail log (R316 to R318) -/

/-- Is the cluster logging, and is it replaying? -/
def State.logging (s : State) (p : Nat) : Bool :=
  let r := s.dbg p 0x30
  bit r 63 && !(bit r 61) && !(bit r 60)

def State.replaying (s : State) (p : Nat) : Bool := let r := s.dbg p 0x30; bit r 63 && bit r 61

/-- Trail buffer base, size, read and write offsets. -/
def State.trailBuf (s : State) (p : Nat) : Nat × Nat × Nat × Nat :=
  let r := s.dbg p 0x30
  let o := s.dbg p 0x38
  (bits r 51 12 * 4096, 2 ^ (16 + bits r 59 56), o / 2 ^ 32, o % 2 ^ 32)

/-- Entries kept free for the closing HCOUNT and HORIZON entries. -/
def trailReserve : Nat := 16 * 17

/-- Is there room for one more entry? -/
def State.trailRoom (s : State) (p : Nat) : Bool :=
  let (_, size, rp, wp) := s.trailBuf p
  trailReserve < (rp + size - wp - 1) % size + 1

/-- Put one 16-byte entry at the write offset. -/
def State.trailRaw (s : State) (p w0 w1 : Nat) : State :=
  let (base, size, rp, wp) := s.trailBuf p
  (s.setMem (s.store.mem.write (base + wp % size) (leBytes w0 8 ++ leBytes w1 8))).setDbg p 0x38
    (rp * 2 ^ 32 + (wp + 16) % size)

/-- The PICK record of a pipe. -/
def State.pickOf (s : State) (core pipe : Nat) : Option PickRec := s.control.picks.find? (fun x => x.core == core && x.pipe == pipe)

/-- Total PICK choices of a pipe. -/
def State.pickTotal (s : State) (core pipe : Nat) : Nat := match s.pickOf core pipe with | some x => x.total | none => 0

/-- Close the log: an HCOUNT entry for each pipe, a HORIZON entry, TCLOSED, and the event (R318). -/
def State.trailClose (s : State) (p : Nat) : State :=
  let pipes := (List.range 16).map (fun k => (4 * p + k / 4, k % 4))
  let s1 := pipes.foldl (fun s (c, pi) =>
    s.trailRaw p (14 * 2 ^ 60 + p * 2 ^ 54 + (c % 4) * 2 ^ 52 + pi * 2 ^ 32) (s.pickTotal c pi)) s
  let s2 := s1.trailRaw p (15 * 2 ^ 60 + p * 2 ^ 54) s1.dtcNs
  let s3 := s2.setDbg p 0x30 (setBits (s2.dbg p 0x30) 60 60 1)
  s3.eventRecord p 0 none 4 0 0

/-- Word 0 of an entry. -/
def trailWord (ty p core slot wti low : Nat) : Nat :=
  ty * 2 ^ 60 + p * 2 ^ 54 + (core % 4) * 2 ^ 52 + slot % 64 * 2 ^ 46 + wti * 2 ^ 34 + low

/-- Word 0 of a HOME entry of a kind: it names the thread that makes the access (R305, R316). -/
def homeWord (n : ThreadName) (kind : Nat) : Nat := trailWord 2 (clusterOf n.core) n.core n.slot n.wti (kind * 2 ^ 32)

/-- The 16-byte entry at a buffer offset. -/
def State.trailAt (s : State) (p off : Nat) : Nat × Nat :=
  let (base, size, _, _) := s.trailBuf p
  (s.store.mem.val (base + off % size) 8, s.store.mem.val (base + off % size + 8) 8)

/-- Offset of the first entry from `off` on that is no PICK or HCOUNT, among `fuel` entries. -/
def State.trailSkip (s : State) (p : Nat) : Nat → Nat → Nat
  | 0, off => off
  | fuel + 1, off =>
    let ty := (s.trailAt p off).1 / 2 ^ 60
    if ty == 1 || ty == 14 then s.trailSkip p fuel (off + 16) else off

/-- Offset and content of the next logged operation of a replay; the pickers follow their own entries. -/
def State.trailNext (s : State) (p : Nat) : Nat × Nat × Nat :=
  let (_, size, rp, _) := s.trailBuf p
  let off := s.trailSkip p (size / 16) rp
  (off, s.trailAt p off)

/-- An entry of the trail log: the cluster that writes it, its word 0, and its word 1 where a replay holds an operation to it. -/
abbrev Entry := Nat × Nat × Option Nat

/-- Is an entry the next one of a replaying cluster? -/
def State.isNext (s : State) (p w0 : Nat) (w1 : Option Nat) : Bool :=
  let (_, x0, x1) := s.trailNext p
  x0 == w0 && w1.all (· == x1)

/-- May an operation that needs an entry proceed: room or leave to close the log, or its turn in a replay (R317, R318). -/
def State.trailOk (s : State) (p w0 : Nat) (strip : Bool) (w1 : Option Nat := none) : Bool :=
  if s.replaying p then s.isNext p w0 w1
  else if s.logging p then s.trailRoom p || strip || !(bit (s.dbg p 0x30) 62)
  else true

/-- May a word whose steps need entries proceed: its first step in each replaying cluster is next there, and a log under TPOL = 1 has room
for all of them (R178, R317, R318)? -/
def State.trailAll (s : State) (l : List Entry) (strip : Bool) : Bool :=
  (l.map (·.1)).dedup.all (fun p =>
    let mine := l.filter (·.1 == p)
    if s.replaying p then mine.head?.all (fun x => s.isNext p x.2.1 x.2.2)
    else if s.logging p then
      let (_, size, rp, wp) := s.trailBuf p
      strip || !(bit (s.dbg p 0x30) 62) || trailReserve + 16 * (mine.length - 1) < (rp + size - wp - 1) % size + 1
    else true)

/-- A replaying cluster made a logged choice now. -/
def State.replayMoved (s : State) (p : Nat) : State :=
  { s with control := { s.control with replayAt := (p, s.now) :: s.control.replayAt.filter (·.1 != p) } }

/-- Log an operation, close a log that is full, or advance a replay past the operation's entry; a replay that comes to a HORIZON entry
stops the cluster (R316 to R318). Operations that must wait for room or for their turn do so before. -/
def State.trail (s : State) (p w0 w1 : Nat) : State :=
  if s.replaying p then
    if (s.trailNext p).2.1 != w0 then s else
    let (_, size, _, wp) := s.trailBuf p
    let off := ((s.trailNext p).1 + 16) % size
    let s1 := (s.setDbg p 0x38 (off * 2 ^ 32 + wp)).replayMoved p
    if (s1.trailNext p).2.1 / 2 ^ 60 == 15 then s1.triggerStop p 6 0 else s1
  else if s.logging p then (if s.trailRoom p then s.trailRaw p w0 w1 else s.trailClose p)
  else s

/-- An input value: the logged one in a replay, the given one otherwise (R316, R317). -/
def State.trailInput (s : State) (p core slot wti src v : Nat) : Nat × State :=
  let w0 := trailWord 4 p core slot wti (src * 2 ^ 30)
  let x := if s.replaying p then (s.trailNext p).2.2 else v
  (x, s.trail p w0 x)

/-- Who makes an access, for WATCH records (R313): agent code, thread, and its core when the access is a core's own. -/
structure Agent where
  code : Nat
  thread : Option ThreadName
  /-- The core in whose line the access was performed. -/
  l1 : Option Nat := none
deriving DecidableEq, Repr

def agentThread (n : ThreadName) : Agent := { code := 0, thread := some n }
def agentCopy : Agent := { code := 1, thread := none }
def agentMatrix : Agent := { code := 2, thread := none }
def agentRaster : Agent := { code := 3, thread := none }
def agentDevice : Agent := { code := 4, thread := none }
def agentHost : Agent := { code := 5, thread := none }

/-- The enabled watchpoints: cluster, number, register. -/
def State.watchpoints (s : State) : List (Nat × Nat × Nat) :=
  s.store.dregs.filterMap (fun (k, v) =>
    if regDebug 0 ≤ k && k < regDebug 64 && bit v.toNat 63 then
      let o := (k - regDebug 0) % 0x10000
      if 0x200 ≤ o && o < 0x240 then some ((k - regDebug 0) / 0x10000, (o - 0x200) / 8, v.toNat) else none
    else none)

/-- Does a watchpoint of cluster p watch bytes addr to addr + n - 1 of scratch of a core, or of physical memory? -/
def watchHit (p v : Nat) (scratch : Option Nat) (addr n : Nat) (rd wr : Bool) : Bool :=
  let a := bits v 51 3 * 8
  ((rd && bit v 61) || (wr && bit v 60)) && addr < a + 8 && a < addr + n &&
  (match scratch with
   | some core => bit v 59 && core / 4 == p && core % 4 == bits v 58 57
   | none => !(bit v 59))

/-- The 8-byte word at a physical address, in a core's line where the core holds one. -/
def State.wordAt (s : State) (l1 : Option Nat) (a : Nat) : Nat :=
  match l1.bind (fun c => s.store.l1.find? (fun l => l.core == c && l.tag == a / 128)) with
  | some l => l.data.toNat / 2 ^ (8 * (a % 128)) % 2 ^ 64
  | none => s.store.mem.val a 8

/-- The WATCH record of one firing (R309, R313). -/
def State.fireWatch (s : State) (p i v : Nat) (ag : Agent) (scratch : Option Nat) (addr n : Nat) (rd wr : Bool) : State :=
  let a := bits v 51 3 * 8
  let (ra, rn) := if n ≤ 16 then (addr, n) else (a / 16 * 16, 16)
  let word := match scratch with | some core => s.scratchVal core a 8 | none => s.wordAt ag.l1 a
  let core := match scratch, ag.thread with | some c, _ => c | none, some n => n.core | none, none => 4 * p
  let pos := match ag.thread with
    | some n => match s.thread? n with | some t => t.pc.wi * 2 ^ 60 + t.pc.ca.toNat | none => 0
    | none => 0
  let w5 := i * 2 ^ 61 + ag.code * 2 ^ 58 + b2n wr * 2 ^ 57 + b2n rd * 2 ^ 56 + rn * 2 ^ 51
  s.debugRecord p (recBytes (s.recHeader 0x01 p (core % 4) ag.thread ++ [ra, w5, word, pos]))

/-- The watchpoints an access fires: each writes its record; of each cluster with no stop in force the lowest decides, a stop under
WACT = 1, and otherwise a trap of the accessor if it is a thread of that cluster. The answer names the watchpoint of such a trap (R308,
R309). Call it after the access is performed. `only` limits the clusters that see the access. -/
def State.watch (s : State) (ag : Agent) (scratch : Option Nat) (addr n : Nat) (rd wr : Bool) (only : Nat → Bool) :
    List Nat × State :=
  let hits : List (Nat × Nat × Nat) := s.watchpoints.filter (fun x => only x.1 && watchHit x.1 x.2.2 scratch addr n rd wr)
  let s1 := hits.foldl (fun s x => s.fireWatch x.1 x.2.1 x.2.2 ag scratch addr n rd wr) s
  let deciding : List (Nat × Nat × Nat) := hits.filter (fun x => hits.find? (·.1 == x.1) == some x && (s.stop? x.1).isNone)
  let own := deciding.filter (fun x => !(bit x.2.2 62) && (match ag.thread with | some t => clusterOf t.core == x.1 | none => false))
  (own.map (·.2.1), (deciding.filter (fun x => bit x.2.2 62)).foldl (fun s x => s.triggerStop x.1 3 x.2.1) s1)

/-- The WATCH cause of the lowest watchpoint fired (R309). -/
def watchCause (l : List Nat) : List TrapInfo :=
  match l with
  | [] => []
  | i :: r => [trapOf .watch (r.foldl min i)]

/-- The reads of table entries by the walk that an address needs now are seen by the watchpoints (R158, R308). -/
def State.walkSeen (s : State) (m : Mmu) (asid va : Nat) : State :=
  if s.watchpoints.isEmpty || (s.cached m asid va).isSome then s
  else
    let root := s.dreg regAstb + 8 * asid
    let reads := match s.walkStart m.cluster asid va with
      | some (level, table) => (s.walkReads va level table).map (fun (x : Nat × Nat) => x.2)
      | none => root :: (s.walkReads va 4 (bits (s.store.mem.val root 8) 51 12 * 4096)).map (fun (x : Nat × Nat) => x.2)
    reads.foldl (fun s a => (s.watch agentDevice none a 8 true false (fun _ => true)).2) s

/-! ## Memory at its home and lines in L1 (R146, R147) -/

/-- First units of the scratchpads and of the Awning among the poisoned units. -/
def scratchUnits : Nat := 2 ^ 50
def awningUnits : Nat := 2 ^ 51

/-- Is any of the bytes a to a + n - 1 of a memory whose units count from `base` in a poisoned 64-byte unit (R304)? -/
def State.poisonedIn (s : State) (base a n : Nat) : Bool :=
  s.store.poison.any (fun u => base ≤ u && (u - base) * 64 < a + n && a < (u - base) * 64 + 64)

def State.poisoned (s : State) (pa n : Nat) : Bool := s.poisonedIn 0 pa n

/-- Does a core's L1 hold the line of a physical address? -/
def State.lineHeld (s : State) (core pa : Nat) : Bool := s.store.l1.any (fun l => l.core == core && l.tag == pa / 128)

def State.scratchPoisoned (s : State) (core a n : Nat) : Bool := s.poisonedIn scratchUnits (core * 2 ^ 20 + a) n

def State.awningPoisoned (s : State) (a n : Nat) : Bool := s.poisonedIn awningUnits a n

/-- Write bytes to a memory whose units count from `base`. A write that covers a poisoned unit clears its poison; a partial write of
one is not performed, and it is logged against the launch (R304). -/
def State.writeOver (s : State) (lid base a : Nat) (b : List Byte) (m : Mem) : Mem × State :=
  if !(s.poisonedIn base a b.length) then (m.write a b, s)
  else
    let covered (u : Nat) : Bool := a ≤ (u - base) * 64 && (u - base) * 64 + 64 ≤ a + b.length
    let touched := s.store.poison.filter (fun u => base ≤ u && (u - base) * 64 < a + b.length && a < (u - base) * 64 + 64)
    let cut := touched.filter (fun u => !(covered u))
    let m := (b.zip (List.range b.length)).foldl (fun (m : Mem) x =>
      if cut.contains (base + (a + x.2) / 64) then m else m.put (a + x.2) x.1) m
    let s2 := { s with store := { s.store with poison := s.store.poison.filter (fun u => !(touched.contains u && covered u)) } }
    match cut with
    | [] => (m, s2)
    | u :: _ => (m, s2.logError lid Cause.eccUncorr.code ((u - base) * 64))

/-- Older values of the 64-bit words that bytes pa to pa + n - 1 lie in, where a new memory differs: instruction fetch may still return
them (R50). -/
def State.outdated (s : State) (pa n : Nat) (m : Mem) : List (Nat × Word64 × List Nat) :=
  (List.range ((pa + n - 1) / 8 - pa / 8 + 1)).filterMap (fun i =>
    let a := 8 * (pa / 8 + i)
    let old : Word64 := BitVec.ofNat 64 (s.store.mem.val a 8)
    if s.store.mem.read a 8 == m.read a 8 || s.store.stale.contains (a, old, []) then none else some (a, old, []))

/-- Memory after bytes pa to pa + n - 1 were written. -/
def State.storeMem (s : State) (pa n : Nat) (m : Mem) : State :=
  { s with store := { s.store with mem := m, stale := s.store.stale ++ s.outdated pa n m } }

/-- Write bytes to memory. -/
def State.memWrite (s : State) (lid pa : Nat) (b : List Byte) : State :=
  let (m, s1) := s.writeOver lid 0 pa b s.store.mem
  s1.storeMem pa b.length m

/-- Write bytes to a core's scratchpad. -/
def State.scratchStore (s : State) (lid core a : Nat) (b : List Byte) : State :=
  let (m, s1) := s.writeOver lid scratchUnits (core * 2 ^ 20 + a) b s.store.scratch
  s1.setScratch m

/-- Write bytes to the Awning. -/
def State.awningStore (s : State) (lid a : Nat) (b : List Byte) : State :=
  let (m, s1) := s.writeOver lid awningUnits a b s.store.awning
  { s1 with store := { s1.store with awning := m } }

/-- Bytes of a line marked dirty, with their places. -/
def Line.dirtyBytes (l : Line) : List (Nat × Byte) :=
  (List.range 128).filterMap (fun i => if l.dirty.getLsbD i then some (l.tag * 128 + i, l.data.extractLsb' (8 * i) 8) else none)

/-- A line's bytes from place o on, n of them, as a memory image has them. -/
def Line.bytes (l : Line) (o n : Nat) : List (Nat × Byte) := l.dirtyBytes.filter (fun x => l.tag * 128 + o ≤ x.1 && x.1 < l.tag * 128 + o + n)

/-- Write back the dirty bytes of half a line, which is one 64-byte unit. The bytes of a poisoned unit are written only together; a partial
write of one is not performed and is logged against the launch of the line's stores (R304). -/
def State.writeHalf (s : State) (l : Line) (k : Nat) : State :=
  let u := 2 * l.tag + k
  let lid := (l.stores.head?.map (·.lid)).getD 0
  match l.bytes (64 * k) 64 with
  | [] => s
  | mine =>
    if !(s.store.poison.contains u) then s.storeMem (64 * u) 64 (mine.foldl (fun m x => m.put x.1 x.2) s.store.mem)
    else if mine.length == 64 then s.memWrite lid (64 * u) (mine.map (·.2))
    else s.logError lid Cause.eccUncorr.code (64 * u)

/-- Write the dirty bytes of a line back to the home. Other clusters' watchpoints see them here (R308). -/
def State.writeBack (s : State) (l : Line) : State :=
  if l.dirty == 0 then s
  else (List.range 16).foldl (fun s k => match l.bytes (8 * k) 8 with
    | [] => s
    | (a, b) :: r => (s.watch { code := 0, thread := none } none a ((((a, b) :: r).map (·.1)).foldl max a + 1 - a) false true
        (· != clusterOf l.core)).2) ((s.writeHalf l 0).writeHalf l 1)

/-- Evict lines of a core that a test picks, writing dirty ones back. -/
def State.evict (s : State) (core : Nat) (p : Line → Bool) : State :=
  let go := s.store.l1.filter (fun l => l.core == core && p l)
  let s1 := go.foldl (fun s l => s.writeBack l) s
  { s1 with store := { s1.store with l1 := s1.store.l1.filter (fun l => !(l.core == core && p l)) } }

/-- Write back every dirty line of a core, keeping clean copies. -/
def State.cleanCore (s : State) (core : Nat) : State :=
  let go := s.store.l1.filter (fun l => l.core == core)
  let s1 := go.foldl (fun s l => s.writeBack l) s
  { s1 with store := { s1.store with l1 := s1.store.l1.map (fun l => if l.core == core then { l with dirty := 0, stores := [] } else l) } }

/-- A HOME read by a core: the core's line is written back and dropped first, so that no later PRIV load of the core meets an older value
than it returned (R147, R182). -/
def State.homeRead (s : State) (core pa n : Nat) : List Byte × State :=
  let s := s.evict core (fun l => l.tag == pa / 128)
  (s.store.mem.read pa n, s)

/-- A HOME write by a core for a launch: the core's line is written back and dropped (R146, R147). -/
def State.homeWrite (s : State) (core pa : Nat) (b : List Byte) (lid : Nat := 0) : State :=
  (s.evict core (fun l => l.tag == pa / 128)).memWrite lid pa b

/-- The line of a core, filled from the home when absent. -/
def State.lineOf (s : State) (core tag : Nat) : Line :=
  match s.store.l1.find? (fun l => l.core == core && l.tag == tag) with
  | some l => l
  | none => { core := core, tag := tag, data := BitVec.ofNat 1024 (s.store.mem.val (tag * 128) 128), dirty := 0, stores := [] }

def State.putLine (s : State) (l : Line) : State :=
  { s with store := { s.store with l1 := l :: s.store.l1.filter (fun x => !(x.core == l.core && x.tag == l.tag)) } }

/-- A PRIV read: a hit may be older than the home (R146). -/
def State.privRead (s : State) (core pa n : Nat) : List Byte × State :=
  let l := s.lineOf core (pa / 128)
  (leBytes (l.data.toNat / 2 ^ (8 * (pa % 128))) n, s.putLine l)

/-- A PRIV write into the core's line (R146). -/
def State.privWrite (s : State) (core pa : Nat) (b : List Byte) (who : List LineStore) : State :=
  let l := s.lineOf core (pa / 128)
  let o := pa % 128
  let data := setBits l.data.toNat (8 * (o + b.length) - 1) (8 * o) (leVal b)
  let dirty := setBits l.dirty.toNat (o + b.length - 1) o (2 ^ b.length - 1)
  s.putLine { l with data := BitVec.ofNat 1024 data, dirty := BitVec.ofNat 128 dirty, stores := l.stores ++ who }

/-! ## The launch's own writes that never park (R449) -/

/-- A HOME store of the device into an address space at supervisor level; none when it fails. -/
def State.deviceStore (s : State) (cluster asid va : Nat) (b : List Byte) : Except TrapInfo State :=
  match s.xlat (.unit cluster) asid va 1 { write := true, bytes := 8 } with
  | .ok pa _ => .ok ((s.memWrite 0 pa b).watch agentDevice none pa b.length false true (fun _ => true)).2
  | .park l => .error { trapOf .pageFault (256 * l) with vaddr := BitVec.ofNat 64 va }
  | .trap t => .error t

/-- The same, logged against a launch when it fails. -/
def State.deviceStoreLog (s : State) (cluster lid asid va : Nat) (b : List Byte) : State :=
  match s.deviceStore cluster asid va b with
  | .ok s1 => s1
  | .error t => s.logError lid t.cause.code va

/-! ## Conflict records (R176 to R181) -/

/-- Is an entry open: its thread live and its region still the same (R176)? -/
def State.entryOpen (s : State) (e : ConEntry) : Bool :=
  match s.thread? e.thread with
  | some t => t.st != .exited && t.region == e.region
  | none => false

/-- The record with its closed entries freed. -/
def State.openRec (s : State) (r : ConRec) : ConRec :=
  { r with
    writer := r.writer.filter s.entryOpen
    readers := r.readers.filter s.entryOpen
    bcr := r.bcr.filter s.entryOpen
    bca := r.bca.filter s.entryOpen }

def ConRec.free (r : ConRec) : Bool := r.writer.isNone && r.readers.isEmpty && r.bcr.isEmpty && r.bca.isEmpty

/-- The record of a granule, with closed entries freed. -/
def State.conRec (s : State) (scratch : Option Nat) (g : Nat) : ConRec :=
  match s.store.conflicts.find? (fun r => r.scratch == scratch && r.granule == g) with
  | some r => s.openRec r
  | none => { scratch := scratch, granule := g, writer := none, readers := [], bcr := [], bca := [] }

/-- Keep a record; a free one is dropped (R176). -/
def State.putCon (s : State) (r : ConRec) : State :=
  let rest := s.store.conflicts.filter (fun x => !(x.scratch == r.scratch && x.granule == r.granule))
  { s with store := { s.store with conflicts := if r.free then rest else rest ++ [r] } }

/-- Home slice of a granule: that of its 128-byte line (R180). -/
def sliceOf (g : Nat) : Nat := Config.homeSlice (g / 8) % 64

/-- Records a slice can still take (R180). -/
def State.recordRoom (s : State) (g : Nat) : Bool :=
  let used := s.store.conflicts.filter (fun r => r.scratch.isNone && sliceOf r.granule == sliceOf g && !(s.openRec r).free)
  used.length < 32768

/-- Outcome of checking one granule. -/
inductive ConRes where
  | ok (s : State)
  | conflict (other : ConEntry)
  /-- Detection stall: 1 counts, 2 store full. -/
  | stall (why : Nat)

/-- Entries of a record. -/
def ConRec.entries (r : ConRec) : List ConEntry := r.writer.toList ++ r.readers

/-- The check of one granule (R177). -/
def State.checkGranule (s : State) (n : ThreadName) (region : Word32) (kind : Acc) (scratch : Option Nat) (g : Nat) : ConRes :=
  let r := s.conRec scratch g
  let others := r.entries.filter (fun e => e.thread != n)
  let bad (e : ConEntry) : Bool := match kind with
    | .read => e.kind != .read
    | .write => true
    | .atomic => e.kind != .atomic
  match others.find? bad with
  | some e => .conflict e
  | none =>
    let counted := match kind with
      | .read => !r.bca.isEmpty
      | .write => !r.bcr.isEmpty || !r.bca.isEmpty
      | .atomic => !r.bcr.isEmpty
    if counted then .stall 1
    else if scratch.isNone && r.free && !(s.recordRoom g) then .stall 2
    else
      let me : ConEntry := { thread := n, region := region, kind := kind }
      let mine (e : ConEntry) : Bool := e.thread == n && e.region == region
      let r1 := match kind with
        | .read =>
          if r.entries.any mine then r
          else if r.readers.length < 8 then { r with readers := r.readers ++ [me] }
          else { r with bcr := r.bcr ++ [me] }
        | _ =>
          match r.writer with
          | none => { r with writer := some me }
          | some w =>
            if mine w then (if kind == .write then { r with writer := some me } else r)
            else { r with bca := r.bca ++ [me] }
      .ok (s.putCon r1)

/-- Granules of bytes a to a + n - 1, ascending. -/
def granules (a n : Nat) : List Nat := (List.range ((a + n - 1) / 16 - a / 16 + 1)).map (a / 16 + ·)

/-- Outcome of checking an access granule by granule (R177). -/
inductive ConAll where
  | ok (s : State)
  | conflict (g : Nat) (other : ConEntry)
  | stall (g why : Nat)

def State.checkGranules (s : State) (n : ThreadName) (region : Word32) (kind : Acc) (scratch : Option Nat) : List Nat → ConAll
  | [] => .ok s
  | g :: rest =>
    match s.checkGranule n region kind scratch g with
    | .ok s1 => s1.checkGranules n region kind scratch rest
    | .conflict e => .conflict g e
    | .stall w => .stall g w

/-- The trap of a conflict on a granule (R179, R296). -/
def State.conflictTrap (s : State) (kind : Acc) (vaddr : Word64) (g : Nat) (paddr : Nat) (e : ConEntry) : TrapInfo :=
  let knd := b2n (e.kind != .read) * 2 + b2n (kind != .read)
  { cause := .mmxConflict, tval := BitVec.ofNat 32 (bits (g * 16) 31 4 * 16 + knd), vaddr := vaddr, paddr := paddr
    other := some { lid := (match s.groupOf e.thread with | some g => g.lid | none => 0), logical := s.logicalOf e.thread
                    region := e.region }
    knd := knd }

/-! ## Registers -/

/-- The bytes that a write of register v puts from its spill slot on; the reserved bytes after V126 are written as zero with it (R13;
DEDUCED, log 44). -/
def slotBytes (v x : Nat) : List Byte := leBytes x (if v == 126 then 8 else 4)

/-- Where a thread stands and the halves pending there: in its pack, in a suspended pack, or alone. -/
def State.position (s : State) (n : ThreadName) : Pc × BitVec 28 × BitVec 28 :=
  match (s.work.packs ++ s.work.resumes).find? (fun p => p.threads.contains n) with
  | some p => ({ ca := p.ca, wi := p.wi }, p.pa, p.pb)
  | none => match s.thread? n with
    | some t => match t.solo with
      | some x => (t.pc, x.pa, x.pb)
      | none => (t.pc, 0, 0)
    | none => ({ ca := 0, wi := 0 }, 0, 0)

/-- A trap that a thread takes at its next instruction boundary (R161, R309): what, where, and the word its record names. -/
def State.owe (s : State) (n : ThreadName) (info : TrapInfo) (at_ : Pc) (word : Word64) : State :=
  s.modThread n (fun t => { t with boundary := t.boundary ++ [(info, at_, word)] })

/-- Write a register to its spill slot and mark it SPILLED. A spill that meets a replayable fault parks and leaves the register LIVE; so does
one with a fatal outcome (R101, R104). Handler contexts never spill (R102). A watchpoint that the spill fires is taken at the next boundary
(R308, R309). -/
def State.spill (s : State) (n : ThreadName) (v : Nat) (word : Word64 := 0) : State :=
  match s.thread? n with
  | none => s
  | some t =>
    match t.reg? v with
    | some (.live x) =>
      if n.ctx != 0 then s else
      let va := s.tsaOf n + 4 * v
      match s.xlat (.core n.core) (s.asidOf n) va 1 { write := true, thread := true, bytes := 4 } with
      | .ok pa _ =>
        let s1 := (s.walkSeen (.core n.core) (s.asidOf n) va).homeWrite n.core pa (slotBytes v x.toNat) t.lid
        let (fired, s2) := s1.watch (agentThread n) none pa (slotBytes v 0).length false true (fun _ => true)
        (watchCause fired).foldl (fun s info => s.owe n info (s.position n).1 word)
          (s2.modThread n (fun t => { t with regs := putReg t.regs v .spilled, reserve := t.reserve.filter (· != v) }))
      | .park l => (s.parkFault (s.asidOf n) 6 l va).2
      | .trap _ => s
    | _ => s

/-- Kill the sources whose kill bit is set, but for registers the word also writes (R58, R101). -/
def State.kill (s : State) (n : ThreadName) (i : Instr) : State :=
  ((killRegs i).filter (fun v => !(dstRegs i).contains v)).foldl (fun s v => s.spill n v ((encode i).getD 0)) s

/-! ## Regions and outstanding accesses -/

/-- Close a thread's region (R12). -/
def State.closeRegion (s : State) (n : ThreadName) : State := s.modThread n (fun t => { t with region := t.region + 1 })

/-- Outstanding accesses of a thread. -/
def State.outOf (s : State) (n : ThreadName) : List Outstanding := s.store.outst.filter (fun o => o.thread == n)

/-- Must the thread's next access wait: an earlier acquire is outstanding (R170)? -/
def State.acqPending (s : State) (n : ThreadName) : Bool := (s.outOf n).any (fun o => o.ord.testBit 0)

/-- Nothing of the thread is outstanding: what a release, and any synchronising word, waits for (R162, R170, R172). -/
def State.drained (s : State) (n : ThreadName) : Bool := (s.outOf n).isEmpty

/-- Take the next place in the order of waits and accesses. -/
def State.nextOrder (s : State) : Nat × State :=
  (s.work.waitOrder, { s with work := { s.work with waitOrder := s.work.waitOrder + 1 } })

/-- Effect of a release at a scope on the core's dirty lines (R146, R170). -/
def State.release (s : State) (core scope : Nat) : State := if 2 ≤ scope then s.cleanCore core else s

/-- Effect of an acquire at a scope on the core's lines (R146). -/
def State.acquire (s : State) (core scope : Nat) : State := if 2 ≤ scope then s.evict core (fun _ => true) else s

/-! ## Taking an exception, ending a thread -/

/-- The launch's last thread of a workgroup has exited: EXITING (R21). -/
def State.settleExit (s : State) (core slot : Nat) : State :=
  let live := s.work.threads.any (fun t => t.name.core == core && t.name.slot == slot && t.name.ctx == 0 && t.st != .exited)
  if live then s else s.modGroup core slot (fun g => { g with exiting := true })

/-- Log the unreported errors of a thread's batches against its launch (R373). -/
def State.logBatches (s : State) (t : Thread) : State :=
  t.batches.foldl (fun s b => match b.err with
    | some e => if b.reported then s else s.logError t.lid e.cause.code e.vaddr.toNat
    | none => s) s

/-- End a thread: EXITED, its stacks and registers and its loads discarded, its region closed, its open batch sealed, a release at SYSTEM
scope; its stores still outstanding are released as they are performed (R165, R373). -/
def State.endThread (s : State) (n : ThreadName) : State :=
  match s.thread? n with
  | none => s
  | some t =>
    let s1 := (s.logBatches t).release n.core 5
    let s2 := s1.modThread n (fun t =>
      { t with st := .exited, regs := [], reserve := [], calls := [], depth := 0, loops := [], callXfer := none, xfn := [], trap := none
               boundary := [], solo := none, region := t.region + 1
               batches := (t.batches.filter (fun b => !(b.unread.isEmpty && b.unlanded.isEmpty))).map (fun b =>
                 { b with number := some (b.number.getD t.nextSeal), reported := true }) })
    let s3 := { s2.leavePack n with
      work := { (s2.leavePack n).work with trapQueue := (s2.leavePack n).work.trapQueue.filter (· != n) }
      store := { s2.store with outst := s2.store.outst.filter (fun (o : Outstanding) =>
        !(o.thread == n && (o.kind == OutKind.load || o.kind == OutKind.sample || o.kind == OutKind.header))) } }
    s3.settleExit n.core n.slot

/-- Remove a handler context. -/
def State.dropThread (s : State) (n : ThreadName) : State :=
  let s := s.leavePack n
  s.setThreads (s.work.threads.filter (fun t => t.name != n))

/-- The thread a handler context handles. -/
def Thread.handled (t : Thread) : Option ThreadName := match t.handling with | some h => h.trapped | none => none

/-- A handler context takes a trap: it ends together with the thread it was handling, and the error log has both causes; a
service context ends and its workgroup stays held (R298, R303). -/
def State.endHandler (s : State) (t : Thread) (info : TrapInfo) : State :=
  let c0 := match t.handling with | some h => h.cause | none => 0
  let a0 := match t.handled.bind s.thread? with
    | some v => (match v.trap with | some r => r.info.vaddr.toNat | none => 0)
    | none => 0
  let s1 := (s.logError t.lid c0 a0).logError t.lid info.cause.code info.vaddr.toNat
  let s2 := s1.dropThread t.name
  match t.handled with
  | some n => (s2.modGroup n.core n.slot (fun g => { g with endedByHandler := true })).endThread n
  | none => s2

/-- TAKE A TRAP (R36, R294, R295): the thread leaves its pack and becomes SUSPENDED with what its record will hold, and waits
for a handler context. A thread that only passes over the clause where it resumes still does so then. A handler context that takes a trap
ends. -/
def State.takeTrap (s : State) (n : ThreadName) (r : Trapped) : State :=
  match s.thread? n with
  | none => s
  | some t =>
    if t.handling.isSome then s.endHandler t r.info
    else
      let s1 := (s.leavePack n).modThread n (fun t =>
        { t with st := .suspended .trapped, trap := some { r with skip := r.skip || (t.skip && r.resume == t.pc) }, pc := r.resume, hdr := none, skip := false, solo := none, released := false })
      { s1 with work := { s1.work with trapQueue := s1.work.trapQueue ++ [n] } }

/-- A trap at the word: the resume point is the word, with the prefix halves pending there (R293, R294). -/
def State.trapAt (s : State) (n : ThreadName) (info : TrapInfo) (pc : Pc) (word : Word64) (pa pb : BitVec 28) : State :=
  s.takeTrap n { info := info, at_ := pc, word := word, resume := pc, pa := pa, pb := pb, kept := [], slot := none }

/-- The word a record holds: the trapping word, or for ILLEGAL_WORD the thread's own (R296). -/
def TrapInfo.wordOf (info : TrapInfo) (word own : Word64) : Word64 := if info.cause == .illegalWord then own else word

/-- Traps after the word, the first delivered and the others kept as pending (R294). `own` is the thread's own word under an XEQ. -/
def State.trapAfter (s : State) (n : ThreadName) (l : List TrapInfo) (at_ : Pc) (word own : Word64) (resume : Pc)
    (pa pb : BitVec 28) : State :=
  match l with
  | [] => s
  | info :: rest =>
    s.takeTrap n { info := info, at_ := at_, word := info.wordOf word own, resume := resume, pa := pa, pb := pb
                   kept := rest.map (fun x => { info := x, word := word }), slot := none }

/-- Is a wait one at a terminator, whose word has still to retire (R36)? -/
def Wait.terminator : Wait → Bool
  | .calls | .barrier _ _ _ | .batches _ _ _ _ | .push _ _ _ _ | .pop _ _ _ _ | .ring _ _ _ _ | .time _ | .rowQueue _ _ | .record _
  | .met _ => true
  | _ => false

/-- A thread at an instruction boundary takes the first of the traps due there; one that waits at a terminator, or is in a trap, has its
boundary still to come (R161, R294; DEDUCED, log 55). -/
def State.takeDue (s : State) (n : ThreadName) : State :=
  match s.thread? n with
  | none => s
  | some t => match t.boundary with
    | [] => s
    | (info, at_, word) :: rest =>
      if t.trap.isSome || t.st == .exited || (match t.st with | .blocked w => w.terminator | _ => false) then s
      else
        let (pc, pa, pb) := s.position n
        (s.modThread n (fun t => { t with boundary := rest })).takeTrap n
          { info := info, at_ := at_, word := word, resume := pc, pa := pa, pb := pb, kept := [], slot := none }

/-- Is a thread within a word that has begun: an MMA whose unit is at the arbiter, a RAST whose operation waits for the raster engine, or a TSPAWN
whose task it has entered (R112, R230, R283)? -/
def State.midWord (s : State) (n : ThreadName) : Bool :=
  s.engines.units.any (·.threads.contains n) || s.engines.rasts.any (·.thread == n) || s.work.packs.any (·.spawned.contains n)

/-- A failed outstanding access is taken at the thread's next instruction boundary; the record names the faulting word (R161,
R296). -/
def State.trapBoundary (s : State) (n : ThreadName) (info : TrapInfo) (at_ : Pc) (word : Word64) : State :=
  match s.thread? n with
  | none => s
  | some t =>
    if t.st == .exited then s
    else if s.midWord n then s.owe n info at_ word
    else (s.owe n info at_ word).takeDue n

/-- RETURN FROM AN EXCEPTION (R298): READY at the record's resume point as a pack of its own, with the record's halves when the
resume point is the one written at entry; a failed access that waited is taken now. -/
def State.returnTrap (s : State) (n : ThreadName) (resume : Pc) (pa pb : BitVec 28) (past skip : Bool) : State :=
  (s.modThread n (fun t =>
    { t with st := .ready, trap := none, pc := resume, hdr := none, skip := skip, readyAt := s.now, waited := 0
             behind := [0, 0, 0, 0], solo := some { hdr := none, pa := pa, pb := pb }, pastComparator := past })).takeDue n

end Sys2Proof.Machine
end

