-- ==== Sys2Proof/Machine/Issue.lean ====
section
/-! DEFINITION. Fetch, clause entry, the fate of a word, and how a word retires: what every machine instruction shares (R42 to
R54, R71 to R78, R294, R299, R397). -/

namespace Sys2Proof.Machine

/-! ## Header and prefix fields -/

def hNi (h : Word64) : Nat := bits h.toNat 3 0
def hCls (h : Word64) : Nat := bits h.toNat 6 4
def hTerm (h : Word64) : Bool := bit h.toNat 7
def hWld (h : Word64) : Nat := bits h.toNat 11 8
def hWst (h : Word64) : Nat := bits h.toNat 15 12
def hWxf (h : Word64) : Nat := bits h.toNat 19 16
def hYld (h : Word64) : Bool := bit h.toNat 20
def hNrg (h : Word64) : Bool := bit h.toNat 21
def hStep (h : Word64) : Bool := bit h.toNat 22
def hLit (h : Word64) : Bool := bit h.toNat 23
def hSig (h : Word64) : Nat := bits h.toNat 31 24
def hLit32 (h : Word64) : Nat := bits h.toNat 63 32

/-- Fields of a prefix half (R71). -/
def pfV (h : BitVec 28) : Bool := h.getLsbD 27
def pfMp (h : BitVec 28) : Nat := bits h.toNat 26 23
def pfMn (h : BitVec 28) : Bool := h.getLsbD 22
def pfZ (h : BitVec 28) : Bool := h.getLsbD 21
def pfRnd (h : BitVec 28) : Nat := bits h.toNat 20 18
def pfFourth (h : BitVec 28) : RegF := h.extractLsb' 11 7
def pfF4v (h : BitVec 28) : Bool := h.getLsbD 10
def pfSat (h : BitVec 28) : Bool := h.getLsbD 9
def pfFtz (h : BitVec 28) : Nat := bits h.toNat 8 7

/-- Opcode byte of a word. -/
def opOf (w : Word64) : Nat := bits w.toNat 63 56

/-- Terminators (R52). -/
def isTerm (op : Nat) : Bool :=
  (0x02 ≤ op && op ≤ 0x0C) || [0xB2, 0xB3, 0xB4, 0x77, 0x78, 0x73, 0x82, 0x83, 0x96, 0xA3].contains op

/-- Rendezvous instructions that stand in word 0 of a VEC clause (R53). -/
def isRdv (op : Nat) : Bool := 0x45 ≤ op && op ≤ 0x4A

/-- VEC and XFN base instructions, the words a prefix half may aim at (R51, R72, R424). -/
def isBase (op : Nat) : Bool :=
  (0x10 ≤ op && op ≤ 0x1A) || (0x20 ≤ op && op ≤ 0x2A) || (0x30 ≤ op && op ≤ 0x3D) || (0x40 ≤ op && op ≤ 0x4A) ||
  (0x50 ≤ op && op ≤ 0x57) || op == 0xB0 || op == 0xB1 || op == 0xB8

/-- Does an opcode that is no terminator stand in a clause of this class (R51)? -/
def classOk (cls op : Nat) : Bool :=
  match cls with
  | 0 => op ≤ 1 || (isBase op && !(0x50 ≤ op && op ≤ 0x57))
  | 1 => op ≤ 1 || (0x50 ≤ op && op ≤ 0x57)
  | 2 => op == 0 || (0x60 ≤ op && op ≤ 0x6B) || (0xB5 ≤ op && op ≤ 0xB7)
  | 3 => op == 0 || (0x70 ≤ op && op ≤ 0x78) || (0x80 ≤ op && op ≤ 0x83)
  | 4 => op == 0 || (0x90 ≤ op && op ≤ 0x98)
  | 5 => op == 0 || (0xA0 ≤ op && op ≤ 0xA5)
  | 6 => op == 0x4B
  | _ => false

/-! ## Code fetch (R50, R157) -/

inductive Fetched where
  | ok (w : Word64) (s : State)
  | park (level : Nat)
  | trap (t : TrapInfo)

/-- Values other than the home's that a fetch by a core may still return for a word: older ones that no instruction invalidate of the core
has covered since the store, and newer ones that stand in a core's line (R50). -/
def State.otherWords (s : State) (core pa : Nat) : List Word64 :=
  s.store.stale.filterMap (fun e => if e.1 == pa && !(e.2.2.contains core) then some e.2.1 else none) ++
  s.store.l1.filterMap (fun l =>
    if l.tag == pa / 128 && !((l.bytes (pa % 128) 8).isEmpty) then some (l.data.extractLsb' (8 * (pa % 128)) 64) else none)

/-- Read a word of code on a core: any of the values it may have, chosen afresh (R50; DESIGN CHOICE, log 6). -/
def State.codeWord (s : State) (core pa : Nat) : Word64 × State :=
  (s.otherWords core pa).foldl (fun (acc : Word64 × State) v =>
    if v == acc.1 then acc
    else
      let (k, s1) := acc.2.fresh
      (if Config.fetchOld k then v else acc.1, s1)) (BitVec.ofNat 64 (s.store.mem.val pa 8), s)

/-- Fetch the word at a code address for a core, an address space and a privilege level (R78 row 1). The watchpoints see the read
(R308). -/
def State.fetch (s : State) (core asid level : Nat) (va : VAddr) : Fetched :=
  match s.xlat (.core core) asid va.toNat level { write := false, fetch := true, bytes := 8 } with
  | .ok pa _ =>
    if s.poisoned pa 8 then .trap { trapOf .eccUncorr 0 with vaddr := BitVec.ofNat 64 va.toNat, paddr := pa }
    else
      let (w, s1) := s.codeWord core pa
      .ok w ((s1.walkSeen (.core core) asid va.toNat).watch agentDevice none pa 8 true false (fun _ => true)).2
  | .park l => .park l
  | .trap t => .trap t

/-- A word read ahead, without effect; none where it cannot be read. -/
def State.peek? (s : State) (core asid level : Nat) (va : VAddr) : Option Word64 :=
  match s.fetch core asid level va with | .ok w _ => some w | _ => none

/-- The same, 0 where it cannot be read. -/
def State.peek (s : State) (core asid level : Nat) (va : VAddr) : Word64 := (s.peek? core asid level va).getD 0

/-- Address of word wi of the clause at ca; wi + 1 words past the header (R42). -/
def wordAddr (ca : VAddr) (wi : Nat) : VAddr := ca + BitVec.ofNat 57 (8 * (wi + 1))

/-- The clause after the clause at ca (R45). -/
def afterClause (ca : VAddr) (h : Word64) : VAddr := ca + BitVec.ofNat 57 (8 * (hNi h + 2))

/-! ## Loop and call stacks -/

/-- Loop-back at the end clause e (R397): the new loop stack and where the thread goes. -/
def loopBack (e next : VAddr) (depth : Nat) : List LoopEntry → List LoopEntry × VAddr
  | [] => ([], next)
  | x :: r =>
    if x.stop != e || x.depth != depth then (x :: r, next)
    else if 1 < x.count.toNat then ({ x with count := x.count - 1 } :: r, x.start)
    else loopBack e next depth r

/-- Unwinding by a taken BRA, BRX or SWITCH (R299). -/
def unwind (target : VAddr) (depth : Nat) : List LoopEntry → List LoopEntry
  | [] => []
  | x :: r =>
    if x.depth == depth && !(x.start.toNat ≤ target.toNat && target.toNat ≤ x.stop.toNat) then unwind target depth r
    else x :: r

/-- Enter word 0 of a clause (R44): its header is yet to be read. -/
def Thread.goto (t : Thread) (ca : VAddr) (now : Nat) : Thread :=
  { t with pc := { ca := ca, wi := 0 }, hdr := none, skip := false, solo := none, readyAt := now, waited := 0, behind := [0, 0, 0, 0], held := 0 }

/-- Continue past the clause at ca by R45 or R46, with its loop-back point (R397). -/
def Thread.past (t : Thread) (ca : VAddr) (h : Word64) (now : Nat) : Thread :=
  let (l, next) := loopBack ca (afterClause ca h) t.depth t.loops
  ({ t with loops := l }).goto next now

/-! ## Clause entry (R44, R46, R47, R49) -/

/-- Outstanding loads, stores and XFN results of a thread (R47). -/
def State.loadsOut (s : State) (n : ThreadName) : Nat := ((s.outOf n).filter (fun o => o.kind == .load || o.kind == .atomic || o.kind == .header || o.kind == .sample)).length
def State.storesOut (s : State) (n : ThreadName) : Nat := ((s.outOf n).filter (fun o => o.kind == .store || o.kind == .red || o.kind == .atomic || o.kind == .cctl)).length

/-- Are the header's waits met (R47)? -/
def State.waitsMet (s : State) (t : Thread) (h : Word64) : Bool :=
  (hWld h == 15 || s.loadsOut t.name ≤ hWld h) && (hWst h == 15 || s.storesOut t.name ≤ hWst h) &&
  (hWxf h == 15 || t.xfn.length ≤ hWxf h)

/-- Is a clause a rendezvous clause: VEC, its first word a rendezvous instruction, alone or behind a prefix slot (R16, R53;
DEDUCED, log 18)? -/
def State.rdvClause (s : State) (t : Thread) (asid : Nat) (h : Word64) : Bool :=
  if hCls h != 0 then false else
  let w0 := s.peek t.name.core asid t.level (wordAddr t.pc.ca 0)
  if opOf w0 == 1 && pfV (w0.extractLsb' 0 28) then isRdv (opOf (s.peek t.name.core asid t.level (wordAddr t.pc.ca 1)))
  else isRdv (opOf w0) || opOf w0 == 0x96

/-- The replayable fault of a clause's last word, where its page is not the header's or has changed: the level and the address. A fault on
the fetch of any word of a clause holds its thread before the clause (R161; DEDUCED, log 43). -/
def State.tailFault (s : State) (core asid level : Nat) (ca : VAddr) (h : Word64) : Option (Nat × VAddr) :=
  let va := wordAddr ca (hNi h)
  match s.xlat (.core core) asid va.toNat level { write := false, fetch := true, bytes := 8 } with
  | .park l => some (l, va)
  | _ => none

/-- A thread is held BLOCKED before its clause on a replayable fault of an instruction fetch (R161). -/
def State.holdFetch (s : State) (n : ThreadName) (asid level : Nat) (va : VAddr) : State :=
  let (fid, s1) := s.parkFault asid 2 level va.toNat
  s1.modThread n (fun t => { t with st := .blocked (.fetch fid) })

/-- A thread at word 0 reads its header: signature, DATA clauses passed over, literal rule, rendezvous, waits. `fuel` bounds
consecutive DATA clauses in one step. -/
def State.enter (s : State) (n : ThreadName) : Nat → State
  | 0 => s
  | fuel + 1 =>
    match s.thread? n with
    | none => s
    | some t =>
      let asid := s.asidOf n
      match s.fetch n.core asid t.level t.pc.ca with
      | .park l => s.holdFetch n asid l t.pc.ca
      | .trap info => s.trapAt n info t.pc 0 0 0
      | .ok h s1 =>
        if hSig h != 0xA5 then s1.trapAt n (trapOf .illegalOp 0) t.pc h 0 0
        else if t.skip then
          (s1.modThread n (fun t => t.goto (afterClause t.pc.ca h) s.now)).enter n fuel
        else if hCls h == 7 then
          if bits h.toNat 63 32 != 0 || bits h.toNat 23 7 != 0 then s1.trapAt n (trapOf .illegalField 0) t.pc h 0 0
          else (s1.modThread n (fun t => t.past t.pc.ca h s.now)).enter n fuel
        else if !(hLit h) && hLit32 h != 0 then s1.trapAt n (trapOf .illegalField 0) t.pc h 0 0
        else match s1.tailFault n.core asid t.level t.pc.ca h with
        | some (l, va) => s1.holdFetch n asid l va
        | none =>
          let st : TState := if s1.rdvClause t asid h then .blocked .rendezvous
            else if s1.waitsMet t h then .ready else .blocked .header
          s1.modThread n (fun t => { t with hdr := some h, st := st })

/-! ## The word a pack issues -/

/-- What the meaning of a word sees: the pack, its word, and the header. -/
structure Ctx where
  pack : Pack
  instr : Instr
  word : Word64
  /-- The prefix half in effect; 0 in an XEQ (R441). -/
  half : BitVec 28
  /-- Issued by an XEQ. -/
  inner : Bool

/-- What becomes of a thread at a word. -/
inductive Fate where
  /-- Continues by R45. -/
  | next
  /-- Goes to word 0 of a clause. -/
  | jump (ca : VAddr)
  /-- Passes over the clause at ca without executing it (R397, R398). -/
  | over (ca : VAddr)
  /-- Continues by R45 with its bucket marked yielded (R448). -/
  | yielded
  /-- BLOCKED at the terminator. -/
  | wait (w : Wait)
  /-- Left the pack: exited or trapped. -/
  | gone
deriving DecidableEq, Repr

/-- A read that a word makes of itself and that meets a replayable fault: address space, kind, level, address (R161). -/
structure Parked where
  asid : Nat
  kind : Nat
  level : Nat
  va : Nat
deriving DecidableEq, Repr

/-- Result of a word for one thread. -/
inductive TRes where
  | ok (s : State) (fate : Fate := .next) (after : List TrapInfo := [])
  /-- A trap at the word; the state carries only what the rule names. -/
  | trap (s : State) (info : TrapInfo)
  /-- A detection stall: the thread leaves its pack, BLOCKED at the word (R179). -/
  | leave (s : State) (w : Wait)
  /-- A read of the word itself parks: the pack is held at the word (R104, R161, R194). -/
  | park (asid kind level va : Nat)

/-- A thread's outcome of a word, for retirement. -/
structure Out where
  name : ThreadName
  fate : Fate
  after : List TrapInfo
  /-- The word its record holds when it is not the pack's: an inner word of an XEQ (R300). -/
  word : Option Word64 := none
  park : Option Parked := none

/-- Result of a word for the pack: a stall in place; one for want of a dependence table entry or a version buffer (R112); the pack held at
the word by parked reads of it, with no other effect; a state in which the word has still to go on; or done with an outcome for each
thread still in it. -/
inductive Body where
  | stall
  | full
  | held (l : List (ThreadName × Parked))
  | more (s : State)
  | done (s : State) (outs : List Out)

/-- A meaning before retirement. -/
abbrev BodyFn := Ctx → State → Body

/-- Guard of an MR, CT, AS, GX, MX or SY word (R69); none for VR and VI words. -/
def guardOf (w : Word64) : Option (BitVec 4 × Bool) :=
  let op := opOf w
  if (0x02 ≤ op && op ≤ 0x0C) || (0xB0 ≤ op && op ≤ 0xB8) then some (w.extractLsb' 52 4, w.getLsbD 51)
  else if 0x60 ≤ op && op ≤ 0xA5 then some (w.extractLsb' 38 4, w.getLsbD 37)
  else none

/-- Is a thread active for a word: its guard, or its prefix mask, is true (R69, R73)? -/
def Ctx.active (c : Ctx) (t : Thread) : Bool :=
  match guardOf c.word with
  | some (g, gn) => t.guard g gn
  | none => if pfV c.half then t.pred (pfMp c.half) != pfMn c.half else true

/-- Has a thread still to issue the pack's word? Inside an XEQ those whose word has issued have not (R106, R441). -/
def Ctx.toIssue (c : Ctx) (n : ThreadName) : Bool := match c.pack.xrem with | some l => l.contains n | none => true

/-- Names of the pack's active threads, ascending. -/
def Ctx.actives (c : Ctx) (s : State) : List ThreadName :=
  c.pack.threads.filter (fun n => c.toIssue n && (match s.thread? n with | some t => c.active t | none => false))

/-- Privilege level of the pack. -/
def State.packLevel (s : State) (p : Pack) : Nat :=
  match p.threads with
  | n :: _ => match s.thread? n with | some t => t.level | none => 0
  | [] => 0

/-- Pc of the pack's word. -/
def Ctx.pc (c : Ctx) : Pc := { ca := c.pack.ca, wi := c.pack.wi }

/-- The trap at the word for a thread of the pack. -/
def Ctx.trapAt (c : Ctx) (s : State) (n : ThreadName) (info : TrapInfo) : State :=
  s.trapAt n info c.pc c.word c.pack.pa c.pack.pb

/-- One thread's result taken into the pack (R178, R294). -/
def Ctx.take (c : Ctx) (acc : State × List Out) (n : ThreadName) (r : TRes) : State × List Out :=
  match r with
  | .ok s fate after => (s.kill n c.instr, acc.2 ++ [{ name := n, fate := fate, after := after }])
  | .trap s info => (c.trapAt s n info, acc.2)
  | .leave s w =>
    let s1 := (s.leavePack n).modThread n (fun t =>
      { t with st := .blocked w, pc := c.pc, held := 0, hdr := none
               solo := some { hdr := some c.pack.hdr, pa := c.pack.pa, pb := c.pack.pb } })
    (s1, acc.2)
  | .park asid kind level va =>
    (acc.1, acc.2 ++ [{ name := n, fate := .next, after := [], park := some { asid := asid, kind := kind, level := level, va := va } }])

/-- Is there an active thread that does not meet what the word needs? -/
def Ctx.lacks (c : Ctx) (need : Ctx → State → Thread → Bool) (s : State) : Bool :=
  (c.actives s).any (fun n => match s.thread? n with | some t => !(need c s t) | none => false)

/-- One thread of the pack takes its part of a word: `f` where it is active, `off` where its mask is false. -/
def Ctx.part (c : Ctx) (f : Ctx → State → Thread → TRes) (off : Ctx → State → Thread → State) (acc : State × List Out) (n : ThreadName) :
    State × List Out :=
  match acc.1.thread? n with
  | none => acc
  | some t =>
    if c.active t then c.take acc n (f c acc.1 t)
    else (off c acc.1 t, acc.2 ++ [{ name := n, fate := .next, after := [] }])

/-- What the threads of a pack have come to at a word: done, or, if a read of the word parks for one of them, nothing yet. -/
def settle (s : State) (outs : List Out) : Body :=
  match outs.filterMap (fun o => o.park.map (fun p => (o.name, p))) with
  | [] => .done s outs
  | l => .held l

/-- Run a word thread by thread in ascending index. `need` is what every active thread must meet or the pack stalls; `off` is
what a thread whose mask is false does. -/
def eachThread (need : Ctx → State → Thread → Bool) (f : Ctx → State → Thread → TRes)
    (off : Ctx → State → Thread → State := fun _ s _ => s) : BodyFn := fun c s =>
  if c.lacks need s then .stall
  else
    let (s1, outs) := c.pack.threads.foldl (c.part f off) (s, [])
    settle s1 outs

/-- No further condition. -/
def noNeed : Ctx → State → Thread → Bool := fun _ _ _ => true

/-- A body whose steps need entries of the trail log: the pack stalls until they may be made. -/
def gated (entry : Ctx → State → Thread → Option Entry) (body : BodyFn) : BodyFn := fun c s =>
  let l := (c.actives s).filterMap (fun n => (s.thread? n).bind (entry c s))
  if s.trailAll l (c.pack.cls == 0) then body c s else .stall

/-! ## Retirement -/

/-- Delivery order of after-the-word causes (R294); a BKPT or SWTRAP, which no record marks pending, comes first. -/
def afterRank (c : Cause) : Nat :=
  match c with
  | .bkpt | .swtrap => 0
  | .illegalWord => 1
  | .copyError | .compLength | .eccUncorr => 2
  | .fp => 3
  | .watch => 4
  | _ => 5

def sortAfter (l : List TrapInfo) : List TrapInfo := sortBy (fun a b => afterRank a.cause < afterRank b.cause) l

/-- Does a word count as retired for the progress counter (R11)? -/
def counts (w : Word64) : Bool := 1 < opOf w

/-- Advance the progress counter, saturating (R11). -/
def Thread.retired (t : Thread) (w : Word64) : Thread :=
  if counts w && t.progress != 0xFFFFFFFF then { t with progress := t.progress + 1 } else t

/-- Are header STEP bits honoured on a core's cluster (R48, R306)? -/
def State.stepOn (s : State) (core : Nat) : Bool := bit (s.dbg (clusterOf core) 0) 61

/-- A thread that retires a word of the clause at pc.ca with header h: its progress, and where it goes (R11, R45, R397, R398, R448). -/
def Thread.goesOn (t : Thread) (fate : Fate) (pc : Pc) (h w : Word64) (now : Nat) : Thread :=
  let due := t.boundary.filter (fun (x : TrapInfo × Pc × Word64) => !(x.2.1 == pc && x.1.cause == .watch))
  let t := { t.retired w with issuedAt := now, pastComparator := false, boundary := due }
  match fate with
  | .jump ca => { (t.goto ca now) with st := .ready, yielded := hYld h }
  | .over ca => { (t.goto ca now) with st := .ready, skip := true, yielded := hYld h }
  | _ =>
    if pc.wi == hNi h then { (t.past pc.ca h now) with st := .ready, yielded := hYld h || fate == .yielded }
    else { t with pc := { ca := pc.ca, wi := pc.wi + 1 } }

/-- Traps due at a thread's boundary that its word at pc itself has caused: the watchpoints that its kills fired (R101, R309). -/
def State.dueAt (s : State) (n : ThreadName) (pc : Pc) : List TrapInfo :=
  match s.thread? n with
  | some t => (t.boundary.filter (fun (x : TrapInfo × Pc × Word64) => x.2.1 == pc && x.1.cause == .watch)).map (·.1)
  | none => []

/-- The causes after a word, in delivery order: its own, and STEP at the end of a clause whose header asks for it (R48, R294). -/
def State.causesAfter (s : State) (o : Out) (pc : Pc) (h : Word64) : List TrapInfo :=
  sortAfter (o.after ++ s.dueAt o.name pc ++ (if pc.wi == hNi h && (hStep h && s.stepOn o.name.core) then [trapOf .step 0] else []))

/-- The clause after one that a thread only passes over, where its header can be read (R397, R398). -/
def State.passedOver (s : State) (t : Thread) : Option VAddr :=
  if !t.skip then none
  else match s.peek? t.name.core (s.asidOf t.name) t.level t.pc.ca with
    | some h => if hSig h == 0xA5 then some (afterClause t.pc.ca h) else none
    | none => none

/-- One thread retires a word of the clause at pc.ca with header h: progress, position, and its after-the-word causes (R45,
R48, R136, R294), whose resume point is the clause it would execute next. -/
def State.retireThread (s : State) (o : Out) (pc : Pc) (h w : Word64) (pa pb : BitVec 28) : State :=
  match o.fate with
  | .gone => s
  | .wait wt => s.modThread o.name (fun t => { t with st := .blocked wt, pc := pc, held := 0 })
  | fate =>
    let last := pc.wi == hNi h
    let s1 := s.modThread o.name (fun t => t.goesOn fate pc h w s.now)
    match s.causesAfter o pc h, s1.thread? o.name with
    | [], _ => s1.takeDue o.name
    | l, some t =>
      let next : Pc := match s1.passedOver t with | some ca => { ca := ca, wi := 0 } | none => t.pc
      s1.trapAfter o.name l pc w (o.word.getD w) next (if last then 0 else pa) (if last then 0 else pb)
    | _, none => s1

/-- Is the word of a pack the one whose access triggered the stop of its cluster (R311)? -/
def State.fired (s : State) (p : Pack) : Bool :=
  match s.stop? (clusterOf p.core) with | some x => x.firing == some (p.core, p.pipe) | none => false

/-- A pack has left its pipe, its clause ended or its threads trapped: remembered while a cluster stop is on its way to the core (R311). The
word that triggered the stop is not counted. -/
def State.pastPack (s : State) (p : Pack) (counted : Bool) (names : List ThreadName) : State :=
  let skid := if s.fired p then 0 else ((s.pack? p.core p.pipe).getD p).skid + b2n counted
  let point := names.findSome? (fun n => match s.thread? n with
    | some t => if t.st == .exited then none else some (s.position n).1
    | none => none)
  s.modStop (clusterOf p.core) (fun x =>
    if x.reached.contains p.core then x
    else { x with past := x.past ++ [{ core := p.core, pipe := p.pipe, threads := names, skid := skid, point := point }] })

/-- The pack after a word: gone after the last word, at the next word otherwise, with the prefix halves moved on (R72). -/
def State.advance (s : State) (p : Pack) (pa pb : BitVec 28) (counted : Bool) : State :=
  if p.wi == hNi p.hdr then s.dropPack p.core p.pipe
  else s.modPack p.core p.pipe (fun q =>
    { q with wi := p.wi + 1, pa := pa, pb := pb, xrem := none, xafter := [], spawned := [], stalled := 0, full := 0, tlbi := none
             skid := q.skid + b2n (counted && !(s.fired p)) })

/-- Add to a workgroup's words since its last SUMMARY record, where the core's trace is enabled (R313, R314). -/
def State.countWords (s : State) (core slot n : Nat) : State :=
  if !(bit (s.dbg (clusterOf core) (0x300 + 8 * (core % 4))) 63) then s else
  let l := s.control.counts
  let l := if l.any (fun x => x.core == core && x.slot == slot) then l
    else l ++ [{ core := core, slot := slot, clauses := 0, words := 0, blocked := 0, since := s.now }]
  { s with control := { s.control with counts := l.map (fun x => if x.core == core && x.slot == slot then { x with words := x.words + n } else x) } }

/-- A thread's registers in the order of their last use, the latest first (R103). -/
def Thread.touch (t : Thread) (l : List Nat) : Thread := { t with used := l.dedup ++ t.used.filter (fun v => !(l.contains v)) }

/-- Retire a word for the pack. `pa` and `pb` are the halves pending for the next two words. -/
def State.retire (s : State) (c : Ctx) (outs : List Out) (pa pb : BitVec 28) : State :=
  let s1 := outs.foldl (fun s o => s.retireThread o c.pc c.pack.hdr c.word pa pb) s
  let kin := if hNrg c.pack.hdr then c.pack.threads else []
  let s1 := if c.pack.wi == hNi c.pack.hdr then s1.modThreads (fun t => outs.any (·.name == t.name)) (fun t => { t with kin := kin }) else s1
  let s1 := s1.countWords c.pack.core c.pack.slot (b2n (counts c.word) * outs.length)
  let s1 := if c.pack.wi == hNi c.pack.hdr then s1.pastPack c.pack (counts c.word) (outs.map (·.name))
    else if (s1.pack? c.pack.core c.pack.pipe).isNone then s1.pastPack c.pack false c.pack.threads
    else s1
  s1.advance c.pack pa pb (counts c.word)

/-! ## Conditions before execution -/

/-- Registers outstanding for a thread: load destinations and XFN results (R47). -/
def State.busyRegs (s : State) (t : Thread) : List Nat :=
  ((s.outOf t.name).filter (fun o => o.kind == .load || o.kind == .atomic || o.kind == .sample)).flatMap (fun o =>
    if o.dst == 127 then [] else (List.range (max 1 (o.bytes / 4))).map (o.dst.toNat + ·)) ++ t.xfn.map (·.reg)

/-- Registers a word reads or writes for one thread: the fields, and the FOURTH of its prefix half, as wide as its destination (R73). -/
def Ctx.regs (c : Ctx) : List Nat :=
  let n := match vecSpec c.instr with | some (_, sp) => (match sp.d with | .w n => n | _ => 1) | none => 1
  srcRegs c.instr ++ dstRegs c.instr ++
  (if pfV c.half && pfF4v c.half && pfFourth c.half != 127 then (List.range n).map ((pfFourth c.half).toNat + ·) else [])

/-- Registers a word reads. -/
def Ctx.reads (c : Ctx) : List Nat := c.regs.filter (fun v => !(dstRegs c.instr).contains v || (srcRegs c.instr).contains v)

/-- May the pack issue its word: every operand register free of outstanding results and none it reads SPILLED (R47, R104)? A
pack with a thread whose call-stack transfer is outstanding never forms. -/
def State.operandsReady (s : State) (c : Ctx) : Bool :=
  c.pack.threads.all (fun n => !(c.toIssue n) || match s.thread? n with
    | none => true
    | some t => c.regs.all (fun v => !(s.busyRegs t).contains v) && c.reads.all (fun v => t.reg? v != some .spilled))

/-- Registers that hold a pack at its word for a thread: SPILLED, or waiting for a load that is parked (R104, R161). -/
def State.holding (s : State) (c : Ctx) (t : Thread) : Option Nat :=
  let parked := ((s.outOf t.name).filter (·.fid.isSome)).flatMap (fun o => if o.dst == 127 then [] else (List.range (max 1 (o.bytes / 4))).map (o.dst.toNat + ·))
  (c.reads.find? (fun v => t.reg? v == some .spilled)).or (c.regs.find? parked.contains)

/-- Threads of a pack that hold it at its word are BLOCKED there (R35, R104). -/
def State.holdOperands (s : State) (c : Ctx) : State :=
  s.modThreads (fun t => c.pack.threads.contains t.name && c.toIssue t.name && (s.holding c t).isSome)
    (fun t => { t with st := .blocked (.operand ((s.holding c t).getD 0)) })

/-! ## Physical registers (R102) -/

/-- LIVE registers of a thread. -/
def Thread.liveList (t : Thread) : List Nat := (t.regs.filter (fun x => match x.2 with | .live _ => true | _ => false)).map (·.1)

/-- Registers of a thread that hold a physical register: LIVE ones, and destinations of outstanding results (R102). -/
def State.allocated (s : State) (t : Thread) : List Nat := t.liveList ++ (s.busyRegs t).dedup.filter (fun v => !(t.liveList.contains v))

/-- Physical registers of a core's launched threads, in the STRIP reserve and outside it. Handler contexts have registers of their own. -/
def State.liveRegs (s : State) (core : Nat) : Nat × Nat :=
  s.work.threads.foldl (fun (a : Nat × Nat) t =>
    if t.name.core != core || t.name.ctx != 0 then a
    else
      let l := s.allocated t
      let k := (l.filter t.reserve.contains).length
      (a.1 + k, a.2 + (l.length - k))) (0, 0)

/-- Free physical registers of the STRIP reserve and of the shared or single pool. Registers beyond the shared pool's size that were
allocated before strip mode began take up reserve until they are freed (R102, R251). -/
def State.freeRegs (s : State) (core : Nat) : Nat × Nat :=
  let (kept, other) := s.liveRegs core
  if s.stripMode then (16384 - kept - (other - 80896), 80896 - other) else (0, 97280 - (kept + other))

/-- Registers of a list for which a thread held no physical register and now does: of a STRIP thread in strip mode they come from the
reserve while any is free there (R102). -/
def State.allocRegs (s before : State) (n : ThreadName) (l : List Nat) : State :=
  if !(s.stripMode) || n.ctx != 0 || (match s.groupOf n with | some g => g.cls != 0 | none => true) then s
  else
    let held := match before.thread? n with | some t => before.allocated t | none => []
    s.modThread n (fun t =>
      let has := s.allocated t
      let new := (l.filter (fun v => has.contains v && !(held.contains v))).dedup
      let (kept, other) := s.liveRegs n.core
      { t with reserve := t.reserve.filter (fun v => has.contains v && !(new.contains v)) ++ new.take (16384 - kept - (other - new.length - 80896)) })

/-- After a word: the registers of the active threads that retire it in the order of use, and the pools its results came from (R102, R103). -/
def State.wordRegs (s before : State) (c : Ctx) (outs : List Out) : State :=
  ((c.actives before).filter (fun n => outs.any (·.name == n))).foldl (fun s n =>
    (s.modThread n (·.touch c.regs)).allocRegs before n (dstRegs c.instr)) s

/-- Physical registers that the word's active threads need for their destinations. -/
def Ctx.regNeed (c : Ctx) (s : State) : Nat :=
  ((c.actives s).filter (·.ctx == 0)).length * ((dstRegs c.instr).filter (· < 127)).length

/-- Do the pools that the pack's class may use together hold them? -/
def Ctx.regRoom (c : Ctx) (s : State) : Bool :=
  let (reserve, shared) := s.freeRegs c.pack.core
  c.regNeed s ≤ shared + (if c.pack.cls == 0 then reserve else 0)

/-- Placement of a word in its clause (R51 to R54); `half` is the prefix half pending for it. -/
def placed (h : Word64) (wi op : Nat) (half : BitVec 28) : Bool :=
  let last := wi == hNi h
  if hNi h < wi then false
  else if last && hTerm h != isTerm op then false
  else if op == 0x96 then hCls h == 0 && hNi h == 0
  else if isTerm op then last && hCls h ≤ 6 && (hCls h != 6 || wi == 1)
  else if isRdv op then hCls h == 0 && (wi == 0 || (wi == 1 && pfV half))
  else if op == 0x4B then hCls h == 6 && wi == 0
  else classOk (hCls h) op

/-- Is a prefix half well formed in itself (R72)? -/
def halfOk (x : BitVec 28) : Bool :=
  if pfV x then bits x.toNat 6 0 == 0 && pfRnd x < 6 && pfFtz x < 3 && (pfF4v x || pfFourth x == 0) else x == 0

/-- Does a half fit its target (R74)? -/
def fits (i : Instr) (x : BitVec 28) (lit : Bool) : Bool :=
  if !(pfV x) then true else
  match vecSpec i with
  | none => false
  | some (_, sp) =>
    let n := match sp.d with | .w n => n | _ => 0
    (pfRnd x == 0 || sp.rnd) && (pfFtz x == 0 || sp.ftz) && (!(pfSat x) || sp.sat) && !(pfZ x && pfF4v x) &&
    (!(pfF4v x) || (n != 0 && (if pfFourth x == 127 then lit && n ≤ 2 else baseOk n (pfFourth x))))

/-- Rows 5 and 6 of R78 that depend on the clause, the end of a LOOP (R396), and the prefix checks of R72 for a prefix slot. `t1` and `t2` are the
opcodes of the two words after it, none where a word cannot be read: its own fetch then decides (row 1). -/
def clauseFate (i : Instr) (w h : Word64) (wi : Nat) (pa pb : BitVec 28) (t1 t2 : Option Nat) : Option TrapInfo :=
  let op := opOf w
  if !(placed h wi op pa) then some (trapOf .illegalField 0)
  else
    match i with
    | .pfx h1 h0 =>
      let aim (x : BitVec 28) (k : Nat) (t : Option Nat) (taken : Bool) : Bool :=
        !(pfV x) || (wi + k ≤ hNi h && t.all isBase && !taken)
      if halfOk h0 && halfOk h1 && aim h0 1 t1 (pfV pb) && aim h1 2 t2 false then none else some (trapOf .illegalField 0)
    | .loop o => if o.off.toInt < (hNi h : Int) + 2 || (usesLit i && !(hLit h)) then some (trapOf .illegalField 0) else none
    | _ =>
      if usesLit i && !(hLit h) then some (trapOf .illegalField 0)
      else if !(fits i pa (hLit h)) then some (trapOf .illegalField 0)
      else none

/-- Rows 7 and 8 of R78: privilege and absent units (R77). -/
def levelFate (i : Instr) (s : State) (level : Nat) : Option TrapInfo :=
  match i with
  | .tret _ | .tretEnd _ | .tlbiPage _ | .tlbiAsid _ | .tlbiAll _ | .ctxsvCopy _ | .ctxsvRel _ | .ctxsvWg _
  | .ctxldRegs _ | .ctxldFull _ | .ctxldWg _ => if level == 0 then some (trapOf .priv 0) else none
  | .sread o => if level == 0 && (o.sub12 == 0x70 || o.sub12 == 0x71) then some (trapOf .priv 0) else none
  | .rgacq _ | .rgrelPub _ | .rgrelRel _ | .rghold _ =>
    if bits s.cap3 31 28 == 2 then some (trapOf .unitAbsent 0) else none
  | _ => none

/-- Every thread of the pack takes a trap at the word (R78, R294). -/
def State.trapPack (s : State) (p : Pack) (word : Word64) (info : TrapInfo) : State :=
  (p.threads.foldl (fun s n => s.trapAt n info { ca := p.ca, wi := p.wi } word p.pa p.pb) s).pastPack p false p.threads

/-- The pack stalls in place at its word; the turn is used up. -/
def State.stallPack (s : State) (p : Pack) : State :=
  s.modPack p.core p.pipe (fun q => { q with stalled := max q.stalled 1, full := 0 })

/-- The pack stalls for want of a dependence table entry or a version buffer (R112). -/
def State.stallFull (s : State) (p : Pack) : State :=
  s.modPack p.core p.pipe (fun q => { q with stalled := max q.stalled 1, full := max q.full 1 })

/-- A thread whose read of the word parks holds its pack there, BLOCKED (R35, R104, R161). -/
def State.holdAt (s : State) (n : ThreadName) (x : Parked) : State :=
  let (fid, s1) := s.parkFault x.asid x.kind x.level x.va
  s1.modThread n (fun t => { t with st := .blocked (.word fid x.va) })

/-- The pack is held at its word by parked reads. -/
def State.holdPack (s : State) (p : Pack) (l : List (ThreadName × Parked)) : State :=
  (l.foldl (fun s x => s.holdAt x.1 x.2) s).stallPack p

/-- Is a thread one that holds its pack on a fault record that is still outstanding? -/
def State.heldBy (s : State) (n : ThreadName) : Bool :=
  match s.thread? n with
  | some t => (match t.st with | .blocked (.word fid _) => s.store.faults.any (·.fid == fid) | _ => false)
  | none => false

/-- Is a wait one in which a thread holds its pack at a word? -/
def Wait.holds : Wait → Bool
  | .operand _ | .word _ _ => true
  | _ => false

/-- The threads of a pack that held it at its word are ISSUING again as the word is tried again. -/
def State.unhold (s : State) (p : Pack) : State :=
  s.modThreads (fun t => p.threads.contains t.name && (match t.st with | .blocked w => w.holds | _ => false)) (fun t => { t with st := .issuing })

/-- The pack whose word executes. -/
def State.issuing (s : State) : Option Pack :=
  match s.cur with | some (c, p) => s.pack? c p | none => none

/-- The context of a word of a pack. -/
def ctxOf (p : Pack) (i : Instr) : Ctx :=
  { pack := p, instr := i, word := (encode i).getD 0, half := p.pa, inner := false }

/-- Active threads that read a register lost to an uncorrectable error take ECC_UNCORR at the word (R304). -/
def Ctx.lost (c : Ctx) (s : State) : State :=
  (c.actives s).foldl (fun s n => match s.thread? n with
    | none => s
    | some t => match c.reads.find? (fun v => t.reg? v == some .bad) with
      | some v => c.trapAt s n { trapOf .eccUncorr v with oreg := v }
      | none => s) s

/-- The prefix halves pending for the next two words once a word has retired; `pb` stood for the next one (R72, R411). -/
def nextHalves (i : Instr) (pb : BitVec 28) : BitVec 28 × BitVec 28 :=
  match i with
  | .pfx h1 h0 => (if pfV h0 then h0 else pb, h1)
  | _ => (pb, 0)

/-- The trap of rows 5 to 8 of R78 at the word of a pack. -/
def State.wordFate (s : State) (i : Instr) (p : Pack) : Option TrapInfo :=
  let asid := match p.threads with | n :: _ => s.asidOf n | [] => 0
  let level := s.packLevel p
  let t1 := (s.peek? p.core asid level (wordAddr p.ca (p.wi + 1))).map opOf
  let t2 := (s.peek? p.core asid level (wordAddr p.ca (p.wi + 2))).map opOf
  (clauseFate i (ctxOf p i).word p.hdr p.wi p.pa p.pb t1 t2) <|> (levelFate i s level)

/-- EXECUTE A WORD: the conditions of R78 rows 5 to 8, the operand waits, the meaning, and retirement. Without an issuing pack
nothing happens. -/
def runWord (i : Instr) (body : BodyFn) (s : State) : State :=
  match s.issuing with
  | none => s
  | some p =>
    let c := ctxOf p i
    match s.wordFate i p with
    | some info => s.trapPack p c.word info
    | none =>
      if !(s.operandsReady c && c.regRoom s) then (s.holdOperands c).stallPack p
      else
        let s := c.lost s
        match s.issuing with
        | none => s
        | some p =>
        let c := ctxOf p i
        match body c s with
        | .stall => s.stallPack p
        | .full => s.stallFull p
        | .held l => s.holdPack p l
        | .more s1 => s1
        | .done s1 outs => (s1.wordRegs s c outs).retire c outs (nextHalves i p.pb).1 (nextHalves i p.pb).2

end Sys2Proof.Machine
end

