-- ==== Sys2Proof/Machine/Operands.lean ====
section
/-! DEFINITION. The operand forms of vector and XFN words: sources with the clause literal and the immediate, the effective
controls of a prefix half, masked-off threads, destinations and flags (R55 to R61, R71 to R74, R132 to R136). -/

namespace Sys2Proof.Machine

/-- An FP32 pattern read exactly as FP64; the payload and the signalling bit of a NaN stand at the top of the wider field
(R57; DEDUCED, log 19). -/
def widenF64 (b : Nat) : Nat :=
  if bits b 30 23 == 255 then bits b 31 31 * 2 ^ 63 + 0x7FF * 2 ^ 52 + bits b 22 0 * 2 ^ 29
  else (roundEx fp64 ctlRn (fp32.val b)).1

/-- A 32-bit constant as a source of n registers (R57). -/
def widen (ty : BitVec 4) (n : Nat) (b : Nat) : Nat :=
  if n < 2 then b
  else if ty == 2 then (sext 32 b % 2 ^ 64).toNat
  else if ty == 5 then widenF64 b
  else b

/-- Value of a source field: registers, or the clause literal for 127 (R55, R57). -/
def srcField (lit : Nat) (t : Thread) (ty : BitVec 4) (k : Opd) (f : RegF) : Nat :=
  match k with
  | .s n => if f == 127 then widen ty n lit else t.regsVal f.toNat n
  | .b n => t.regsVal f.toNat n
  | _ => 0

/-- Effective rounding, flushing and saturation (R132, R133). -/
def fpCtlOf (half : BitVec 28) (fctl : Word32) : FpCtl :=
  let v := pfV half
  { mode := modeOf (if v && pfRnd half != 0 then pfRnd half else bits fctl.toNat 2 0)
    ftz := if v && pfFtz half == 1 then true else if v && pfFtz half == 2 then false else fctl.getLsbD 3
    sat := v && pfSat half }

/-- What the pseudocode of a vector entry reads (R333). -/
structure VIn where
  a : Nat
  b : Nat
  c : Nat
  ty : Nat
  sub : Nat
  imm : Nat
  d : Nat
  fa : Nat
  ctl : FpCtl
  t : Thread

/-- What it writes: the destination value, predicates, flags. -/
structure VOut where
  val : Nat := 0
  preds : List (Nat × Bool) := []
  flags : Flags := 0

/-- Sources of a word for one thread. -/
def vecIn (c : Ctx) (o : VOp) (sp : VSpec) (t : Thread) : VIn :=
  let lit := hLit32 c.pack.hdr
  let src := srcField lit t o.ty
  let base : VIn :=
    { a := src sp.a o.a, b := 0, c := 0, ty := o.ty.toNat, sub := o.sub.toNat, imm := o.imm.toNat, d := o.d.toNat
      fa := o.a.toNat, ctl := fpCtlOf c.half t.fctl, t := t }
  match o with
  | .r _ _ fb fc _ _ _ _ _ => { base with b := src sp.b fb, c := src sp.c fc }
  | .i _ _ _ _ _ imm =>
    { base with
      b := (match sp.b with | .s n => widen o.ty n imm.toNat | _ => imm.toNat)
      c := src sp.c o.d }

/-- Number of registers a destination has. -/
def dstCount (sp : VSpec) : Nat := match sp.d with | .w n => n | _ => 0

/-- Write a destination value. -/
def Thread.writeD (t : Thread) (sp : VSpec) (o : VOp) (v : Nat) : Thread :=
  t.setRegs o.d.toNat (cutRegs v (dstCount sp))

/-- Add flags to FSTAT (R135). -/
def Thread.addFlags (t : Thread) (fl : Flags) : Thread := { t with fstat := t.fstat ||| fl.setWidth 32 }

/-- The FP trap of the flags a word raised (R136). -/
def fpAfter (fctl : Word32) (fl : Flags) : List TrapInfo :=
  if trapFlags fctl fl == 0 then [] else [trapOf .fp (fl.toNat % 32)]

/-- Write predicates. -/
def Thread.setPreds (t : Thread) (l : List (Nat × Bool)) : Thread := l.foldl (fun t x => t.setPred x.1 x.2) t

/-- An active thread takes its result at once. -/
def vecWrite (o : VOp) (sp : VSpec) (s : State) (t : Thread) (r : VOut) : TRes :=
  .ok (s.modThread t.name (fun t => ((t.writeD sp o r.val).setPreds r.preds).addFlags r.flags)) .next (fpAfter t.fctl r.flags)

/-- PERM and BCST use the fourth operand as their fill value (R347, R410). -/
def fillsLanes (i : Instr) : Bool := match i with | .perm _ => true | .bcst _ => true | _ => false

/-- PMOV to all predicates, which a zeroing mask clears (R73, R413). -/
def clearsPreds (i : Instr) : Bool := match i with | .pmov _ => true | _ => false

/-- A masked-off thread: zeroing, the fourth operand, or merging (R73). -/
def vecOff (o : VOp) (sp : VSpec) (c : Ctx) (s : State) (t : Thread) : State :=
  let x := c.half
  match sp.d with
  | .w n =>
    if pfZ x then s.modThread t.name (fun t => t.setRegs o.d.toNat (cutRegs 0 n))
    else if pfF4v x && !(fillsLanes c.instr) then
      let v := srcField (hLit32 c.pack.hdr) t o.ty (.s n) (pfFourth x)
      s.modThread t.name (fun t => t.setRegs o.d.toNat (cutRegs v n))
    else s
  | .p => if pfZ x then s.modThread t.name (fun t => t.setPred o.d.toNat false) else s
  | _ => if clearsPreds c.instr && pfZ x then s.modThread t.name (fun t => { t with preds := 0 }) else s

/-- A vector word: every active thread's result from its own operands. -/
def vecBody (f : VIn → VOut) : BodyFn := fun c s =>
  match vecSpec c.instr with
  | none => .stall
  | some (o, sp) =>
    eachThread noNeed (fun c s t => vecWrite o sp s t (f (vecIn c o sp t))) (vecOff o sp) c s

/-- Element width of TYPE (R70, R124). -/
def elemBits (ty : Nat) : Nat :=
  match ty with
  | 0 | 1 | 4 => 32
  | 2 | 3 | 5 => 64
  | 6 | 7 | 8 | 9 => 16
  | _ => 8

/-- Number of elements of TYPE in an operand. -/
def elemCount (ty : Nat) : Nat :=
  match ty with
  | 6 | 7 | 8 | 9 => 2
  | 10 | 11 => 4
  | _ => 1

/-- Is an integer TYPE signed? -/
def tySigned (ty : Nat) : Bool := ty % 2 == 0

/-- Element i of a value (R124). -/
def elem (w x i : Nat) : Nat := x / 2 ^ (w * i) % 2 ^ w

/-- Two's complement or unsigned reading of a w-bit field. -/
def readInt (signed_ : Bool) (w x : Nat) : Int := if signed_ then sext w x else ((x % 2 ^ w : Nat) : Int)

/-- Store an integer in w bits (R129). -/
def wrapInt (w : Nat) (r : Int) : Nat := (r % (2 ^ w : Nat)).toNat

/-- Clamp to an element type (R129). -/
def clampInt (signed_ : Bool) (w : Nat) (r : Int) : Int :=
  if signed_ then satN r (-(2 ^ (w - 1) : Nat)) ((2 ^ (w - 1) : Nat) - 1) else satN r 0 ((2 ^ w : Nat) - 1)

/-- Join elements, the first lowest. -/
def joinElems (w : Nat) : List Nat → Nat
  | [] => 0
  | x :: r => x % 2 ^ w + 2 ^ w * joinElems w r

end Sys2Proof.Machine
end

