-- ==== Sys2Proof/Machine/Ctl.lean ====
section
/-! DEFINITION. The meanings of the control-transfer words, the end of a handler context, and the events that wake a call-stack
transfer and a timed wait (R9, R10, R65, R298, R299, R354, R355, R360, R373, R397, R398, R422, R431, R438, R448). -/

namespace Sys2Proof.Machine

/-! ## Shared -/

/-- A CT word: every thread whose guard is true acts, the others continue by R45. -/
def ctBody (need : Ctx → State → Thread → Bool) (f : Ctx → State → Thread → TRes) : BodyFn := eachThread need f

/-- Header address plus 8·SignExt(OFF32), modulo 2^57 (R64). -/
def relTarget (ca : VAddr) (off : BitVec 32) : VAddr := ca + BitVec.ofInt 57 (8 * off.toInt)

/-- The check of R65 on a 64-bit target. -/
def checkTarget (v : Nat) : Option TrapInfo :=
  if v % 8 != 0 then some { trapOf .misalign (v % 2 ^ 32) with vaddr := BitVec.ofNat 64 v }
  else if 2 ^ 57 ≤ v then some { protOf 5 with vaddr := BitVec.ofNat 64 v }
  else none

/-- Address of a register pair plus 8·SignExt(OFF32), modulo 2^64. -/
def pairTarget (t : Thread) (a : RegF) (off : BitVec 32) : Nat :=
  wrapInt 64 ((t.regsVal a.toNat 2 : Int) + 8 * off.toInt)

/-- TRET.END (R298): the handler context ends, and the trapped thread with it; a service context ends alone (R303). -/
def State.tretEnd (s : State) (n : ThreadName) : State :=
  match s.thread? n with
  | none => s
  | some t =>
    let s1 := (s.logBatches t).dropThread n
    match t.handled with
    | some v => (s1.modGroup v.core v.slot (fun g => { g with endedByHandler := true })).endThread v
    | none => s1

/-- EXIT, or RET at depth 0 (R373, R298). -/
def State.exitThread (s : State) (n : ThreadName) : State :=
  match s.thread? n with
  | some t => if t.handling.isSome then s.tretEnd n else s.endThread n
  | none => s

/-- A BLOCKED terminator completes: the word retires for the thread (R36, R45). -/
def State.wake (s : State) (n : ThreadName) (fate : Fate) (after : List TrapInfo) : State :=
  match s.thread? n with
  | none => s
  | some t =>
    match t.hdr with
    | none => s
    | some h =>
      let w := s.peek n.core (s.asidOf n) t.level (wordAddr t.pc.ca t.pc.wi)
      s.retireThread { name := n, fate := fate, after := after } t.pc h w 0 0

/-- A BLOCKED terminator traps at its word. -/
def State.wakeTrap (s : State) (n : ThreadName) (info : TrapInfo) : State :=
  match s.thread? n with
  | none => s
  | some t => s.trapAt n info t.pc (s.peek n.core (s.asidOf n) t.level (wordAddr t.pc.ca t.pc.wi)) 0 0

/-! ## Branches -/

/-- A taken branch within the loop rules of R299. -/
def branchTo (s : State) (t : Thread) (target : VAddr) : TRes :=
  .ok (s.modThread t.name (fun t => { t with loops := unwind target t.depth t.loops })) (.jump target)

/-- BRA (R354). -/
def bodyBra (o : CtOp) : BodyFn := ctBody noNeed (fun c s t => branchTo s t (relTarget c.pack.ca o.off))

/-- BRX (R355). -/
def bodyBrx (o : CtOp) : BodyFn := ctBody noNeed (fun _ s t =>
  let v := pairTarget t o.a o.off
  match checkTarget v with
  | some info => .trap s info
  | none => branchTo s t (BitVec.ofNat 57 v))

/-- Greatest call depth: 256, or 8 in a handler context (R9, R295). -/
def callLimit (t : Thread) : Nat := if t.handling.isSome then 8 else 256

/-- Push a return address (R9): the eight newest stay in hardware. -/
def Thread.push (t : Thread) (ret : VAddr) : Thread := { t with depth := t.depth + 1, calls := (ret.setWidth 64 :: t.calls).take 8 }

/-- A call to a checked target (R360): pushed at once, or after the oldest hardware entry is written to memory. -/
def callTo (c : Ctx) (s : State) (t : Thread) (target : VAddr) : TRes :=
  if callLimit t ≤ t.depth then .trap s (trapOf .callOvf 0)
  else if t.depth < 8 then .ok (s.modThread t.name (·.push (afterClause c.pack.ca c.pack.hdr))) (.jump target)
  else
    let x : CallXfer := { entry := t.depth - 8, store := some ((t.calls.getLast?).getD 0), target := target.setWidth 64, fid := none }
    .ok (s.modThread t.name (fun t => { t with callXfer := some x })) (.wait .calls)

/-- CALL (R360). -/
def bodyCall (o : CtOp) : BodyFn := ctBody noNeed (fun c s t => callTo c s t (relTarget c.pack.ca o.off))

/-- CALLX (R360). -/
def bodyCallx (o : CtOp) : BodyFn := ctBody noNeed (fun c s t =>
  let v := pairTarget t o.a o.off
  match checkTarget v with
  | some info => .trap s info
  | none => callTo c s t (BitVec.ofNat 57 v))

/-- Must RET or EXIT wait: an end is a release, performed after every access of the thread, and of the thread that a handler ends (R165, R170,
R373). -/
def endNeed : Ctx → State → Thread → Bool := fun _ s t =>
  s.drained t.name && t.handled.all (fun v => (s.outOf v).all (fun o => o.kind == .load || o.kind == .sample || o.kind == .header))

/-- EXIT (R373). -/
def bodyExit (_ : CtOp) : BodyFn := ctBody endNeed (fun _ s t => .ok (s.exitThread t.name) .gone)

/-- RET (R422). -/
def bodyRet (_ : CtOp) : BodyFn := ctBody (fun c s t => t.depth != 0 || endNeed c s t) (fun _ s t =>
  if t.depth == 0 then .ok (s.exitThread t.name) .gone
  else
    let target := t.calls.headD 0
    if 8 < t.depth then
      let x : CallXfer := { entry := t.depth - 9, store := none, target := target, fid := none }
      .ok (s.modThread t.name (fun t => { t with callXfer := some x })) (.wait .calls)
    else
      match checkTarget target.toNat with
      | some info => .trap s info
      | none => .ok (s.modThread t.name (fun t => { t with depth := t.depth - 1, calls := t.calls.tail })) (.jump (target.setWidth 57)))

/-- SWITCH (R431). -/
def bodySwitch (o : CtOp) : BodyFn := ctBody noNeed (fun c s t =>
  let i := t.regsVal o.a.toNat 1
  let i := if o.a == 127 then hLit32 c.pack.hdr else i
  let n := o.sub12.toNat + 1
  if n ≤ i then .ok s
  else
    let asid := s.asidOf t.name
    let tbl := relTarget c.pack.ca o.off
    match s.fetch t.name.core asid t.level tbl with
    | .park l => .park asid 2 l tbl.toNat
    | .trap info => .trap s info
    | .ok h s1 =>
      if hSig h != 0xA5 || hCls h != 7 || 8 * (hNi h + 1) < 4 * n then .trap s (trapOf .illegalField 0)
      else
        let at_ := tbl + BitVec.ofNat 57 (8 + 8 * (i / 2))
        match s1.fetch t.name.core asid t.level at_ with
        | .park l => .park asid 2 l at_.toNat
        | .trap info => .trap s info
        | .ok w s2 => branchTo s2 t (relTarget c.pack.ca (w.extractLsb' (32 * (i % 2)) 32)))

/-- LOOP (R397). -/
def bodyLoop (o : CtOp) : BodyFn := ctBody noNeed (fun c s t =>
  let src := if o.a == 127 then hLit32 c.pack.hdr else (t.reg o.a.toNat).toNat
  let n := if o.sub12.getLsbD 11 then src else bits o.sub12.toNat 10 0
  let e := relTarget c.pack.ca o.off
  if n == 0 then .ok s (.over e)
  else if 4 ≤ t.loops.length then .trap s (trapOf .loopOvf 0)
  else
    let start := afterClause c.pack.ca c.pack.hdr
    let x : LoopEntry := { start := start, stop := e, count := BitVec.ofNat 32 n, depth := t.depth }
    .ok (s.modThread t.name (fun t => { t with loops := x :: t.loops })) (.jump start))

/-- Pop the top loop entry of the present depth; the clause to pass over in the break form (R398). -/
def popLoop (s : State) (t : Thread) (brk : Bool) : TRes :=
  match t.loops with
  | x :: rest =>
    if x.depth != t.depth then .ok s
    else
      let s1 := s.modThread t.name (fun t => { t with loops := rest })
      if brk then .ok s1 (.over x.stop) else .ok s1
  | [] => .ok s

/-- LPOP (R398). -/
def bodyLpop (_ : CtOp) : BodyFn := ctBody noNeed (fun _ s t => popLoop s t true)

/-- LPOP.DROP (R398). -/
def bodyLpopDrop (_ : CtOp) : BodyFn := ctBody noNeed (fun _ s t => popLoop s t false)

/-- YIELD (R448). -/
def bodyYield (_ : CtOp) : BodyFn := ctBody noNeed (fun _ s _ => .ok s .yielded)

/-- Wait until a DTC nanosecond (R438). -/
def waitUntil (s : State) (ns : Nat) : TRes := if ns ≤ s.dtcNs then .ok s else .ok s (.wait (.time ns))

/-- WAITT.ABS (R438): the time of a pair, or the literal, which is widened with zeros as an unsigned value is (R55, R57). -/
def bodyWaittAbs (o : CtOp) : BodyFn := ctBody noNeed (fun c s t => waitUntil s (srcField (hLit32 c.pack.hdr) t 3 (.s 2) o.a))

/-- WAITT.REL (R438). -/
def bodyWaittRel (o : CtOp) : BodyFn := ctBody noNeed (fun _ s _ => waitUntil s (s.dtcNs + o.off.toNat))

/-- BRA (R354). -/
def execBra (o : CtOp) (s : State) : Host.Outcome State Fault Refusal := .next (runWord (.bra o) (bodyBra o) s)

/-- BRX (R355). -/
def execBrx (o : CtOp) (s : State) : Host.Outcome State Fault Refusal := .next (runWord (.brx o) (bodyBrx o) s)

/-- CALL (R360). -/
def execCall (o : CtOp) (s : State) : Host.Outcome State Fault Refusal := .next (runWord (.call o) (bodyCall o) s)

/-- CALLX (R360). -/
def execCallx (o : CtOp) (s : State) : Host.Outcome State Fault Refusal := .next (runWord (.callx o) (bodyCallx o) s)

/-- RET (R422). -/
def execRet (o : CtOp) (s : State) : Host.Outcome State Fault Refusal := .next (runWord (.ret o) (bodyRet o) s)

/-- EXIT (R373). -/
def execExit (o : CtOp) (s : State) : Host.Outcome State Fault Refusal := .next (runWord (.exit o) (bodyExit o) s)

/-- SWITCH (R431). -/
def execSwitch (o : CtOp) (s : State) : Host.Outcome State Fault Refusal := .next (runWord (.switch o) (bodySwitch o) s)

/-- LOOP (R397). -/
def execLoop (o : CtOp) (s : State) : Host.Outcome State Fault Refusal := .next (runWord (.loop o) (bodyLoop o) s)

/-- LPOP (R398). -/
def execLpop (o : CtOp) (s : State) : Host.Outcome State Fault Refusal := .next (runWord (.lpop o) (bodyLpop o) s)

/-- LPOP_DROP (R398). -/
def execLpopDrop (o : CtOp) (s : State) : Host.Outcome State Fault Refusal := .next (runWord (.lpopDrop o) (bodyLpopDrop o) s)

/-- YIELD (R448). -/
def execYield (o : CtOp) (s : State) : Host.Outcome State Fault Refusal := .next (runWord (.yield o) (bodyYield o) s)

/-- WAITT_ABS (R438). -/
def execWaittAbs (o : CtOp) (s : State) : Host.Outcome State Fault Refusal := .next (runWord (.waittAbs o) (bodyWaittAbs o) s)

/-- WAITT_REL (R438). -/
def execWaittRel (o : CtOp) (s : State) : Host.Outcome State Fault Refusal := .next (runWord (.waittRel o) (bodyWaittRel o) s)

/-! ## Wakes -/

/-- WAITT_WAKE (R438): the wake is an INPUT of the trail log (R316). -/
def execWaittWake (n : ThreadName) (s : State) : Host.Outcome State Fault Refusal :=
  .next (match s.thread? n with
  | none => s
  | some t =>
    match t.st with
    | .blocked (.time ns) =>
      let p := clusterOf n.core
      let w0 := trailWord 4 p n.core n.slot n.wti (4 * 2 ^ 30)
      if ns ≤ s.dtcNs && !(s.stopped n.core) && s.trailOk p w0 (match s.groupOf n with | some g => g.cls == 0 | none => false) then
        ((s.trailInput p n.core n.slot n.wti 4 s.dtcNs).2).wake n .next []
      else s
    | _ => s)

/-- The transfer's effect once its access is performed: a push, or a pop with the entry read back. -/
def State.callDone (s : State) (n : ThreadName) (x : CallXfer) (read : Word64) : State :=
  let s1 := s.modThread n (fun t => { t with callXfer := none })
  match x.store, s1.thread? n with
  | some _, some t =>
    (s1.modThread n (·.push (afterClause t.pc.ca (t.hdr.getD 0)))).wake n (.jump (x.target.setWidth 57)) []
  | none, some _ =>
    match checkTarget x.target.toNat with
    | some info => s1.wakeTrap n info
    | none =>
      (s1.modThread n (fun t => { t with depth := t.depth - 1, calls := t.calls.tail ++ [read] })).wake n (.jump (x.target.setWidth 57)) []
  | _, none => s1

/-- CALL_STACK_TRANSFER (R9): the access of a thread blocked at a call or return is performed at its home, parks, or traps. -/
def execCallStackTransfer (n : ThreadName) (s : State) : Host.Outcome State Fault Refusal :=
  .next (match s.thread? n with
  | none => s
  | some t =>
    match t.st, t.callXfer with
    | .blocked .calls, some x =>
      if s.stopped n.core || x.fid.isSome then s else
      let va := s.tsaOf n + 512 + 8 * x.entry
      match s.xlat (.core n.core) (s.asidOf n) va 1 { write := x.store.isSome, thread := true, bytes := 8 } with
      | .park l =>
        let (fid, s1) := s.parkFault (s.asidOf n) 6 l va
        s1.modThread n (fun t => { t with callXfer := some { x with fid := some fid } })
      | .trap info => (s.modThread n (fun t => { t with callXfer := none })).wakeTrap n info
      | .ok pa _ =>
        let s := s.walkSeen (.core n.core) (s.asidOf n) va
        match x.store with
        | some v =>
          let s1 := s.homeWrite n.core pa (leBytes v.toNat 8) t.lid
          ((s1.watch (agentThread n) none pa 8 false true (fun _ => true)).2).callDone n x 0
        | none =>
          if s.poisoned pa 8 then (s.modThread n (fun t => { t with callXfer := none })).wakeTrap n { trapOf .eccUncorr 0 with paddr := pa, vaddr := BitVec.ofNat 64 va }
          else
            let (b, s1) := s.homeRead n.core pa 8
            ((s1.watch (agentThread n) none pa 8 true false (fun _ => true)).2).callDone n x (BitVec.ofNat 64 (leVal b))
    | _, _ => s)

end Sys2Proof.Machine
end

