-- ==== Sys2Proof/Machine/Tiles.lean ====
section
/-! DEFINITION. Barrier objects, tile instances, owners and version buffers: the shared operations and the meanings of the barrier
words and TOWN (R113, R115, R183, R184, R188 to R191, R200, R201, R344, R345, R351, R352, R357 to R359, R433). -/

namespace Sys2Proof.Machine

/-! ## Barrier objects (R200, R201) -/

/-- The content of a barrier object. -/
structure Bar where
  ph : Bool
  err : Bool
  drp : Bool
  pby : Nat
  ecause : Nat
  rby : Nat
  rar : Nat
  par : Nat
  erra : Nat
deriving DecidableEq, Repr

def State.readBar (s : State) (core a : Nat) : Bar :=
  let w0 := s.scratchVal core a 8
  let w1 := s.scratchVal core (a + 8) 8
  let w2 := s.scratchVal core (a + 16) 8
  let w3 := s.scratchVal core (a + 24) 8
  { ph := bit w0 63, err := bit w0 62, drp := bit w0 61, pby := bits w0 55 0, ecause := bits w1 63 56, rby := bits w1 55 0
    rar := bits w2 63 32, par := bits w2 31 0, erra := bits w3 56 0 }

/-- The 32 bytes of an object. -/
def Bar.bytes (b : Bar) : List Byte :=
  recBytes [b2n b.ph * 2 ^ 63 + b2n b.err * 2 ^ 62 + b2n b.drp * 2 ^ 61 + b.pby % 2 ^ 56, b.ecause % 256 * 2 ^ 56 + b.rby % 2 ^ 56,
    b.rar % 2 ^ 32 * 2 ^ 32 + b.par % 2 ^ 32, b.erra % 2 ^ 57]

/-- Workgroup whose allocation holds a scratchpad address. -/
def State.groupAt (s : State) (core a : Nat) : Option Workgroup :=
  s.work.groups.find? (fun g => g.core == core && g.base ≤ a && a < g.base + g.size)

/-- Write an object; the device's own operation on it is watched (R308). -/
def State.writeBar (s : State) (core a : Nat) (b : Bar) : State :=
  ((s.scratchStore ((s.groupAt core a).elim 0 (·.lid)) core a b.bytes).watch agentDevice (some core) a 32 true true (fun _ => true)).2

/-- Mark of an initialised object. -/
def State.mark? (s : State) (core a : Nat) (queue : Bool) : Option Mark :=
  s.engines.marks.find? (fun m => m.core == core && m.addr == a && m.queue == queue)

def State.modMark (s : State) (core a : Nat) (queue : Bool) (f : Mark → Mark) : State :=
  { s with engines := { s.engines with marks := s.engines.marks.map (fun m =>
      if m.core == core && m.addr == a && m.queue == queue then f m else m) } }

/-- Put a fresh mark. -/
def State.putMark (s : State) (core a : Nat) (queue : Bool) : State :=
  let rest := s.engines.marks.filter (fun m => !(m.core == core && m.addr == a && m.queue == queue))
  { s with engines := { s.engines with marks := rest ++ [{ core := core, addr := a, queue := queue, overBytes := 0, overArrivals := 0 }] } }

/-- Number of phases that complete in turn with p and q (signed) pending and the reload values rby, rar (R201). -/
def phases (p q : Int) (rby rar : Nat) : Nat :=
  if 0 < p || 0 < q then 0 else
  let n (x : Int) (r : Nat) : Nat := ((-x).toNat / r) + 1
  match rby, rar with
  | 0, 0 => 0
  | 0, r => n q r
  | r, 0 => n p r
  | r, t => min (n p r) (n q t)

/-- A waiter of a barrier wait on the object continues, an acquire at the scope; under a cluster stop it does so at thaw (R36,
R359). -/
def State.wakeBarrier (s : State) (n : ThreadName) (scope : Nat) : State :=
  if s.stopped n.core then (s.modThread n (fun t => { t with st := .blocked (.met scope) })).deferTo (clusterOf n.core) (.met n)
  else (s.acquire n.core scope).wake n .next []

/-- Effects of completed phases other than on the object itself: progress counters reset, buffers back to THREAD, waiters woken
(R11, R191, R201, R359). -/
def State.phaseDone (s : State) (core a : Nat) : State :=
  let s1 := match s.groupAt core a with
    | some g => s.modThreads (fun t => t.name.core == core && t.name.slot == g.slot) (fun t => { t with progress := 0 })
    | none => s
  let back (b : Buffer) : Buffer :=
    if b.owner != .thread && b.core == core && b.bar == a then { b with owner := .thread } else b
  let s2 := { s1 with engines := { s1.engines with tiles := s1.engines.tiles.map (fun (t : TileInst) => { t with bufs := t.bufs.map back }) } }
  let waiters := s2.work.threads.filterMap (fun (t : Thread) => match t.st, s2.groupOf t.name with
    | .blocked (.barrier off _ scope), some g =>
      if t.name.core == core && g.base + off == a then some (t.name, scope) else none
    | _, _ => none)
  waiters.foldl (fun s (n, scope) => s.wakeBarrier n scope) s2

/-- Complete the phases that are due, but for a cluster stopped in force, where the completion waits for thaw (R312). -/
def State.barSettle (s : State) (core a : Nat) : State :=
  match s.mark? core a false with
  | none => s
  | some m =>
    let b := s.readBar core a
    let p : Int := b.pby - m.overBytes
    let q : Int := b.par - m.overArrivals
    let k := phases p q b.rby b.rar
    if k == 0 then s
    else
      let held := match s.stop? (clusterOf core) with | some x => x.complete || x.stepping.isSome | none => false
      if held then s.deferTo (clusterOf core) (.phase { core := core, addr := a })
      else
        let p1 := p + k * b.rby
        let q1 := q + k * b.rar
        let s1 := s.writeBar core a { b with ph := b.ph != (k % 2 == 1), pby := p1.toNat, par := q1.toNat }
        let s2 := s1.modMark core a false (fun m => { m with overBytes := (-p1).toNat, overArrivals := (-q1).toNat })
        s2.phaseDone core a

/-- Word 0 of the SCRATCH entry of a step at an object: it names the thread that makes the step, where one does (R305, R316). -/
def barWord (c : Credit) (who : Option ThreadName) : Nat :=
  let p := clusterOf c.core
  match who with
  | some n => trailWord 3 p n.core n.slot n.wti (3 * 2 ^ 30)
  | none => trailWord 3 p c.core 0 0 (3 * 2 ^ 30)

/-- May a step at an object be made: its entry may be written, or it is its turn in a replay (R317, R318)? Only the sticky bit of a dropped
delivery needs none. -/
def State.barMay (s : State) (o : BarOp) : Bool :=
  o.drop || s.trailOk (clusterOf o.object.core) (barWord o.object o.who) ((s.groupAt o.object.core o.object.addr).elim false (·.cls == 0))
    (some o.object.addr)

/-- CREDIT OR ARRIVE (R201): subtract bytes and arrivals, record an error or a drop, and complete what is due. An address at which
no BINIT has been executed holds no object; a step at an object in a poisoned unit is a partial write of it (R304). -/
def State.barDo (s : State) (o : BarOp) : State :=
  let c := o.object
  match s.mark? c.core c.addr false with
  | none => s
  | some m =>
    if s.scratchPoisoned c.core c.addr 32 then s.logError ((s.groupAt c.core c.addr).elim 0 (·.lid)) Cause.eccUncorr.code c.addr
    else
      let b := s.readBar c.core c.addr
      let p : Int := b.pby - m.overBytes - o.bytes
      let q : Int := b.par - m.overArrivals - o.arrivals
      let b1 : Bar := match o.err with
        | some (cause, addr) => if b.err then b else { b with err := true, ecause := cause, erra := addr % 2 ^ 57 }
        | none => b
      let s1 := s.writeBar c.core c.addr { b1 with drp := b1.drp || o.drop, pby := p.toNat, par := q.toNat }
      let s2 := s1.modMark c.core c.addr false (fun m => { m with overBytes := (-p).toNat, overArrivals := (-q).toNat })
      let s3 := if o.drop then s2 else s2.trail (clusterOf c.core) (barWord c o.who) c.addr
      s3.barSettle c.core c.addr

/-- Make a step at an object, or delay it there behind those that wait (R201, R317, R318). -/
def State.barStep (s : State) (o : BarOp) : State :=
  if s.engines.delayed.any (·.object == o.object) || !(s.barMay o) then
    { s with engines := { s.engines with delayed := s.engines.delayed ++ [o] } }
  else s.barDo o

/-- Credit bytes or arrive at an object, for a thread where one does it (R201). -/
def State.barApply (s : State) (c : Credit) (bytes arrivals : Nat) (err : Option (Nat × Nat)) (drop : Bool)
    (who : Option ThreadName := none) : State :=
  s.barStep { object := c, bytes := bytes, arrivals := arrivals, err := err, drop := drop, who := who }

/-- The delayed steps at objects, tried again in their order. -/
def State.barRetry (s : State) : State :=
  s.engines.delayed.foldl (fun s o => s.barStep o) { s with engines := { s.engines with delayed := [] } }

/-- Credit bytes to each object of a list. -/
def State.creditAll (s : State) (l : List Credit) (bytes : Nat) (err : Option (Nat × Nat)) : State :=
  l.foldl (fun s c => s.barApply c bytes 0 err false) s

/-! ## Tiles (R188 to R191) -/

/-- A tile handle as a workgroup uses it. Addresses are scratchpad bytes of the home core. -/
structure Tile where
  handle : Nat
  lid : Nat
  q : Nat
  group : Nat
  home : Workgroup
  fmt : Nat
  chn : Nat
  nvb : Nat
  size : Nat
  offs : List Nat
  bar : Nat
  /-- Which instance holds its buffers (DEDUCED, log 15). -/
  key : Nat
deriving DecidableEq, Repr

/-- Outcome of naming a handle (R189). -/
inductive TileRes where
  | ok (t : Tile)
  | pending (role : Nat)
  | bad (reason : Nat)

/-- The key of a tile instance of one workgroup (DEDUCED, log 15, DESIGN CHOICE, log 23). -/
def homeKey (core slot : Nat) : Nat := 1 + core + 256 * slot

/-- The tile of a handle with given entry words, named by a workgroup, homed on a core role of the group; `HCR` of the entry in the ordinary
case. -/
def State.tileOf (s : State) (g : Workgroup) (handle w0 w1 : Nat) (role : Option Nat) : TileRes :=
  match s.launch? g.lid with
  | none => .bad 10
  | some l =>
    if !(bit w0 63) || bits w0 47 32 != l.asid then .bad 10
    else
      match s.homeOf l g (role.getD (bits w0 62 61)) with
      | .unbound => .bad 10
      | .gone => .bad 9
      | .pending => .pending (role.getD (bits w0 62 61))
      | .run h =>
        let size := (bits w0 15 0 + 1) * 16
        let nvb := bits w0 60 59 + 1
        let offs := (List.range nvb).map (fun i => bits w1 (16 * i + 15) (16 * i) * 16)
        let bar := bits w0 31 16 * 32
        if h.exiting then .bad 9
        else if h.size < bar + 32 || offs.any (fun o => h.size < o + size) then .bad 10
        else .ok { handle := handle % 4096, lid := g.lid, q := g.q, group := g.group, home := h, fmt := bits w0 58 55
                   chn := bits w0 54 52, nvb := nvb, size := size, offs := offs.map (h.base + ·), bar := h.base + bar
                   key := if l.plan.isSome || h.role != bits w0 62 61 then homeKey h.core h.slot else 0 }

/-- The words of a handle's entry in the table of a cluster (R188). -/
def State.tileEntry (s : State) (p handle : Nat) : Nat × Nat :=
  (s.dreg (regTile p (handle % 4096)), s.dreg (regTile p (handle % 4096) + 8))

/-- The tile of a handle by its entry as it stands. -/
def State.tileOn (s : State) (g : Workgroup) (handle : Nat) (role : Option Nat) : TileRes :=
  let w := s.tileEntry (clusterOf g.core) handle
  s.tileOf g handle w.1 w.2 role

def State.tile (s : State) (g : Workgroup) (handle : Nat) : TileRes := s.tileOn g handle none

/-- PROT of a handle (R189). -/
def tileProt (reason : Nat) : TrapInfo := protOf reason

def freshBuffer : Buffer := { owner := .thread, core := 0, lo := 0, size := 0, bar := 0 }

/-- The instance of a handle in a cluster group (R189, R191): all buffers THREAD and version 0 current at first (DESIGN CHOICE, log 5). -/
def State.inst (s : State) (lid q group handle home : Nat) : TileInst :=
  match s.engines.tiles.find? (fun t => t.lid == lid && t.q == q && t.group == group && t.handle == handle && t.home == home) with
  | some t => t
  | none => { lid := lid, q := q, group := group, handle := handle, home := home, bufs := List.replicate 4 freshBuffer, current := 0, wrote := 0 }

def State.putInst (s : State) (t : TileInst) : State :=
  { s with engines := { s.engines with tiles := s.engines.tiles.filter (fun x =>
      !(x.lid == t.lid && x.q == t.q && x.group == t.group && x.handle == t.handle && x.home == t.home)) ++ [t] } }

/-- The task of a workgroup. -/
def State.taskOf (s : State) (g : Workgroup) : Option Task :=
  match g.entry with
  | some e => s.work.tasks.find? (fun t => t.cluster == clusterOf g.core && t.entry == e)
  | none => none

/-- The version that an access of a workgroup reaches: the task's resolved version, by the set that names the handle when only one
does, else the current one (R115). -/
def State.version (s : State) (g : Workgroup) (t : Tile) (write : Bool) : Nat :=
  let cur := (s.inst t.lid t.q t.group t.handle 0).current % t.nvb
  match s.taskOf g with
  | some k =>
    let first := if write then k.writeVer else k.readVer
    let second := if write then k.readVer else k.writeVer
    match (first ++ second).find? (·.1 == t.handle) with
    | some (_, v) => v % t.nvb
    | none => cur
  | none => cur

/-- Scratchpad address of a version. -/
def Tile.at_ (t : Tile) (v : Nat) : Nat := t.offs.getD v 0

/-- Owner of a version buffer. -/
def State.owner (s : State) (t : Tile) (v : Nat) : Owner :=
  ((s.inst t.lid t.q t.group t.handle t.key).bufs.getD v freshBuffer).owner

/-- Release barrier of a tile. -/
def Tile.credit (t : Tile) : Credit := { core := t.home.core, addr := t.bar }

/-- Set WPTR of a channel when a buffer is flipped to STREAM (R205). -/
def State.setPtr (s : State) (g : Workgroup) (ch ptr : Nat) : State :=
  { s with engines := { s.engines with ptrs := s.engines.ptrs.filter (fun x => !(x.core == g.core && x.ch == ch)) ++
      [{ core := g.core, ch := ch, lid := g.lid, slot := g.slot, startedAt := g.startedAt, ptr := ptr }] } }

/-- FLIP a THREAD buffer to ENGINE or STREAM, bound to the present phase of its release barrier (R191). -/
def State.flip (s : State) (t : Tile) (v : Nat) (to_ : Owner) : State :=
  let i := s.inst t.lid t.q t.group t.handle t.key
  let b : Buffer := { owner := to_, core := t.home.core, lo := t.at_ v, size := t.size, bar := t.bar }
  let s1 := s.putInst { i with bufs := setAt i.bufs v b }
  if to_ == .stream then s1.setPtr t.home t.chn (t.at_ v - t.home.base) else s1

/-- FLIP the instance that tells how a group member other than the home takes multicast deliveries: it bars no thread access and sets no
pointer (DESIGN CHOICE, log 23). -/
def State.flipMember (s : State) (t : Tile) (v : Nat) (to_ : Owner) : State :=
  let i := s.inst t.lid t.q t.group t.handle t.key
  if (i.bufs.getD v freshBuffer).owner != .thread then s
  else s.putInst { i with bufs := setAt i.bufs v { owner := to_, core := t.home.core, lo := t.at_ v, size := 0, bar := t.bar } }

/-- Do byte ranges overlap? -/
def overlap (a n b m : Nat) : Bool := a < b + m && b < a + n && m != 0

/-- The owner check of R183 on bytes of a core's scratchpad, for a thread access. -/
def State.ownerCheck (s : State) (core a n : Nat) (write : Bool) : Option TrapInfo :=
  let w := b2n write * 2 ^ 14
  let tiles := s.engines.tiles.findSome? (fun t => t.bufs.findSome? (fun b =>
    if b.core == core && overlap a n b.lo b.size && (b.owner == .engine || (b.owner == .stream && write)) then
      some (trapOf .mmxOwner (t.handle + (if b.owner == .engine then 1 else 2) * 2 ^ 12 + w)) else none))
  let marks := if !write then none else s.engines.marks.findSome? (fun m =>
    if m.core == core && overlap a n m.addr (if m.queue then 64 else 32) then
      some (trapOf .mmxOwner ((if m.queue then 2 else 1) + 3 * 2 ^ 12 + w)) else none)
  tiles <|> marks

/-! ## Barrier words -/

/-- An AS word on active threads in ascending order. -/
def asBody (need : Ctx → State → Thread → Bool) (f : Ctx → State → Thread → TRes) : BodyFn := eachThread need f

/-- A 32-bit source field of an AS word: register or literal. -/
def srcReg (c : Ctx) (t : Thread) (f : RegF) : Nat := if f == 127 then hLit32 c.pack.hdr else (t.reg f.toNat).toNat

/-! ### Addresses of memory words (R62, R144, R145) -/

/-- Scratch offset of an MR word (R62, R144). -/
def scratchAddr (c : Ctx) (t : Thread) (o : MrOp) (off : Int) : Nat := wrapInt 32 ((srcReg c t o.a : Int) + off)

/-- Signed offset of an MR word: its low n bits (R62, R339, R391). -/
def mrOff (o : MrOp) (n : Nat) : Int := sext n o.off.toNat

/-- Core role that a scratch word names (R62, R145). -/
def mrRole (s : State) (t : Thread) (o : MrOp) : Nat :=
  if o.off.getLsbD 23 then bits o.off.toNat 22 21 else match s.groupOf t.name with | some g => g.role | none => 0

/-- Value of n registers, or the zero-extended literal (R63, R340). -/
def dataOf (c : Ctx) (t : Thread) (d : RegF) (n : Nat) : Nat := if d == 127 then hLit32 c.pack.hdr else t.regsVal d.toNat n

/-- Global address of an MR word (R144). A base field of 127 reads the clause literal, zero-extended to 64 bits: an address has no source type
of R57 that would say otherwise (DEDUCED, log 59). -/
def globalAddr (c : Ctx) (t : Thread) (o : MrOp) (off : Int) : Nat := wrapInt 64 ((dataOf c t o.a 2 : Int) + off)

/-- The greater of a scope and CORE (R165). -/
def coreScope (scope : BitVec 3) : Nat := max scope.toNat 1

/-- Must a synchronising word wait for the thread's accesses (R162, R170)? -/
def syncNeed : Ctx → State → Thread → Bool := fun _ s t => s.drained t.name

/-- The object a barrier word names, by scratchpad address, or the trap of R344 or, in a poisoned unit, of R304. -/
def barrierAt (s : State) (t : Thread) (off : Nat) (made : Bool) : Except TrapInfo (Workgroup × Nat) :=
  match s.groupOf t.name with
  | none => .error (protOf 4)
  | some g =>
    if off % 32 != 0 then .error { trapOf .misalign off with vaddr := BitVec.ofNat 64 (off + g.role * 2 ^ 32) }
    else if g.size < off + 32 then .error { protOf 4 with vaddr := BitVec.ofNat 64 (off + g.role * 2 ^ 32) }
    else if made && (s.mark? g.core (g.base + off) false).isNone then .error { protOf 15 with vaddr := BitVec.ofNat 64 (off + g.role * 2 ^ 32) }
    else if made && s.scratchPoisoned g.core (g.base + off) 32 then
      .error { trapOf .eccUncorr 0 with vaddr := BitVec.ofNat 64 (off + g.role * 2 ^ 32), paddr := g.base + off }
    else .ok (g, g.base + off)

/-- Is the object in use (R351)? -/
def State.barInUse (s : State) (core a : Nat) : Bool :=
  let c : Credit := { core := core, addr := a }
  s.engines.tiles.any (fun t => t.bufs.any (fun b => b.owner != .thread && b.core == core && b.bar == a)) ||
  s.engines.copies.any (fun k => k.creditRead.contains c || k.creditLand.contains c || k.bob == some c) ||
  s.engines.units.any (fun u => u.b.credit == some c || u.left.any (fun x => x.a.credit == some c)) ||
  s.engines.passes.any (fun u => u.quarters.any (fun x => x.creditA == some c || x.creditB == some c)) ||
  s.engines.accOps.any (fun o => o.credit == some c) ||
  s.engines.evals.any (fun e => e.credit == some c) ||
  s.engines.rasts.any (fun r => r.credits.contains c) || s.engines.delayed.any (·.object == c)

/-- BINIT (R351, R352). -/
def bodyBinit (o : AgOp) : BodyFn := asBody syncNeed (fun c s t =>
  match barrierAt s t (srcReg c t o.a) false with
  | .error info => .trap s info
  | .ok (g, a) =>
    let rby := srcField (hLit32 c.pack.hdr) t 3 (.s 2) o.d
    let rar := srcReg c t o.b
    if (rby == 0 && rar == 0) || 2 ^ 56 ≤ rby then .trap s (trapOf .illegalField (a - g.base))
    else if s.barInUse g.core a then .trap s (protOf 16)
    else
      let s1 := (s.release g.core (coreScope o.scope)).putMark g.core a false
      let s2 := s1.writeBar g.core a { ph := false, err := false, drp := false, pby := rby, ecause := 0, rby := rby, rar := rar, par := rar, erra := 0 }
      .ok (s2.closeRegion t.name))

/-- One thread's arrivals at an object: a release, then the step at the scratchpad (R201). -/
def arrive (s : State) (t : Thread) (g : Workgroup) (a n scope : Nat) : State :=
  ((s.release g.core scope).closeRegion t.name).barApply { core := g.core, addr := a } 0 n none false (some t.name)

/-- The SCRATCH entry of an arrival at an object of the thread's workgroup (R316). -/
def arrivalEntry (o : AgOp) (c : Ctx) (s : State) (t : Thread) : Option Entry :=
  match barrierAt s t (srcReg c t o.a) true with
  | .ok (g, a) => some (clusterOf g.core, barWord { core := g.core, addr := a } (some t.name), some a)
  | .error _ => none

/-- BARV (R345). -/
def bodyBarv (o : AgOp) : BodyFn := gated (arrivalEntry o) (asBody syncNeed (fun c s t =>
  match barrierAt s t (srcReg c t o.a) true with
  | .error info => .trap s info
  | .ok (g, a) =>
    let n := if o.sub6 == 0 then o.imm.toNat else srcReg c t o.b
    .ok (arrive s t g a n (coreScope o.scope))))

/-- BWAIT (R359). -/
def bodyBwait (o : AgOp) : BodyFn := asBody syncNeed (fun c s t =>
  match barrierAt s t (srcReg c t o.a) true with
  | .error info => .trap s info
  | .ok (g, a) =>
    let b := if o.sub6 == 0 then o.imm.getLsbD 0 else bit (srcReg c t o.b) 0
    let s1 := s.closeRegion t.name
    if (s.readBar g.core a).ph != b then .ok (s1.acquire g.core (coreScope o.scope))
    else .ok s1 (.wait (.barrier (a - g.base) b (coreScope o.scope))))

/-- Completions of an object counted while one pack arrives: its PH and the surplus tell whether the phase a thread arrived at has
completed. The threads of the pack arrive first, each from the phase it found (R357). -/
def bsyncArrive (c : Ctx) (o : AgOp) (s : State) : List ThreadName → State × List (ThreadName × Except TrapInfo (Workgroup × Nat × Bool)) :=
  fun l => l.foldl (fun (acc : State × List (ThreadName × Except TrapInfo (Workgroup × Nat × Bool))) n =>
    match acc.1.thread? n with
    | none => acc
    | some t =>
      match barrierAt acc.1 t (srcReg c t o.a) true with
      | .error info => (acc.1, acc.2 ++ [(n, .error info)])
      | .ok (g, a) =>
        let before := phases ((acc.1.readBar g.core a).pby - ((acc.1.mark? g.core a false).elim 0 (·.overBytes)))
          ((acc.1.readBar g.core a).par - ((acc.1.mark? g.core a false).elim 0 (·.overArrivals)) - 1)
          (acc.1.readBar g.core a).rby (acc.1.readBar g.core a).rar
        let held := match acc.1.stop? (clusterOf g.core) with | some x => x.complete || x.stepping.isSome | none => false
        let s1 := arrive acc.1 t g a 1 (coreScope o.scope)
        let done := 0 < before && !held && s1.engines.delayed.length == acc.1.engines.delayed.length
        -- a completion releases every earlier arrival at the object
        let l := acc.2.map (fun x => match x.2 with
          | .ok (h, b, _) => if done && h.core == g.core && b == a then (x.1, .ok (h, b, true)) else x
          | .error _ => x)
        (s1, l ++ [(n, .ok (g, a, done))])) (s, [])

/-- BSYNC (R357). -/
def bodyBsync (o : AgOp) : BodyFn := gated (arrivalEntry o) fun c s =>
  let act := c.actives s
  if act.any (fun n => !(s.drained n)) then .stall
  else
    let (s1, res) := bsyncArrive c o s act
    let (s2, outs) := c.pack.threads.foldl (fun (acc : State × List Out) n =>
      match res.find? (·.1 == n) with
      | none => if (acc.1.thread? n).isSome then (acc.1, acc.2 ++ [{ name := n, fate := .next, after := [] }]) else acc
      | some (_, .error info) => c.take acc n (.trap acc.1 info)
      | some (_, .ok (g, a, done)) =>
        if done then c.take acc n (.ok (acc.1.acquire g.core (coreScope o.scope)))
        else c.take acc n (.ok acc.1 (.wait (.barrier (a - g.base) (acc.1.readBar g.core a).ph (coreScope o.scope))))) (s1, [])
    .done s2 outs

/-- BINIT (R351). -/
def execBinit (o : AgOp) (s : State) : Host.Outcome State Fault Refusal := .next (runWord (.binit o) (bodyBinit o) s)

/-- BARV (R345). -/
def execBarv (o : AgOp) (s : State) : Host.Outcome State Fault Refusal := .next (runWord (.barv o) (bodyBarv o) s)

/-- BWAIT (R359). -/
def execBwait (o : AgOp) (s : State) : Host.Outcome State Fault Refusal := .next (runWord (.bwait o) (bodyBwait o) s)

/-- BSYNC (R357). -/
def execBsync (o : AgOp) (s : State) : Host.Outcome State Fault Refusal := .next (runWord (.bsync o) (bodyBsync o) s)

/-! ## Batches (R202 to R204, R371) -/

def Batch.released (b : Batch) : Bool := b.unread.isEmpty
def Batch.landed (b : Batch) : Bool := b.unlanded.isEmpty

/-- Finished in the sense a CWAIT selects. -/
def Batch.done (b : Batch) (landed : Bool) : Bool := if landed then b.landed else b.released

/-- Update a batch of a thread. -/
def State.modBatch (s : State) (n : ThreadName) (key : Nat) (f : Batch → Batch) : State :=
  s.modThread n (fun t => { t with batches := t.batches.map (fun b => if b.key == key then f b else b) })

/-- Drop batches that are sealed, landed, and have nothing left to report. -/
def Thread.tidyBatches (t : Thread) : Thread :=
  { t with batches := t.batches.filter (fun b => !(b.number.isSome && b.released && b.landed && (b.err.isNone || b.reported))) }

/-- The batches of a wait that have finished; a batch that is gone has. -/
def Thread.finishedOf (t : Thread) (landed : Bool) (watch : List Nat) : List Nat :=
  watch.filter (fun k => match t.batches.find? (·.key == k) with | some b => b.done landed | none => true)

/-- The unreported error of the lowest-numbered batch among some, as the cause a CWAIT reports, with the batch's key (R204). -/
def Thread.batchError (t : Thread) (keys : List Nat) : Option (Nat × TrapInfo) :=
  let bad := t.batches.filter (fun b => keys.contains b.key && b.err.isSome && !b.reported)
  match minBy (fun (a b : Batch) => a.number.getD 0 % 2 ^ 16 < b.number.getD 0 % 2 ^ 16) bad with
  | some b => match b.err with
    | some e => some (b.key, { e with tval := BitVec.ofNat 32 (b.number.getD 0) })
    | none => none
  | none => none

/-- A CWAIT whose condition is met completes with the error it reports; under a cluster stop it does so at thaw, for the batches
that had finished (R36, R371). -/
def State.wakeBatches (s : State) (n : ThreadName) : State :=
  match s.thread? n with
  | none => s
  | some t =>
    match t.st with
    | .blocked (.batches landed k watch scope) =>
      let fin := t.finishedOf landed watch
      if watch.length ≤ k + fin.length then
        if s.stopped n.core then
          (s.modThread n (fun t => { t with st := .blocked (.batches landed k fin scope) })).deferTo (clusterOf n.core) (.batches n)
        else
          let s1 := s.acquire n.core scope
          match t.batchError fin with
          | some (key, info) => (s1.modBatch n key (fun b => { b with reported := true })).wake n .next [info]
          | none => s1.wake n .next []
      else s
    | _ => s

/-- A transfer has read all its sources. -/
def State.transferRead (s : State) (n : ThreadName) (key id : Nat) : State :=
  (s.modBatch n key (fun b => { b with unread := b.unread.filter (· != id) })).wakeBatches n

/-- A transfer is over, with its error: the first of its batch is kept (R204). -/
def State.transferError (s : State) (n : ThreadName) (key : Nat) (e : TrapInfo) : State :=
  s.modBatch n key (fun b => if b.err.isSome then b else { b with err := some e })

/-- A delivery is dropped: DRP in its BOB object and an EVENT record with its batch number (R21, R204, R313). -/
def State.deliveryDropped (s : State) (n : ThreadName) (key : Nat) (bob : Option Credit) : State :=
  let num := match s.thread? n with
    | some t => (match t.batches.find? (·.key == key) with | some b => b.number.getD (t.nextSeal % 2 ^ 16) | none => 0)
    | none => 0
  (bob.toList.foldl (fun s c => s.barApply c 0 0 none true) s).eventRecord (clusterOf n.core) (n.core % 4) (some n) 3 num 0

/-- A transfer has landed, once neither its channel nor the cluster network holds any of it (R203). -/
def State.transferOver (s : State) (n : ThreadName) (key id : Nat) : State :=
  if s.engines.copies.any (·.id == id) || s.engines.heldDeliveries.any (·.copy == id) then s
  else
    let s1 := s.modBatch n key (fun b => { b with unread := b.unread.filter (· != id), unlanded := b.unlanded.filter (· != id) })
    (s1.wakeBatches n).modThread n (·.tidyBatches)

/-! ## TOWN (R433) -/

/-- Write landed bytes, consecutive or not, to a scratchpad (R198, R201). -/
def State.landBytes (s : State) (lid core : Nat) (l : List (Nat × Byte)) : State :=
  match l with
  | [] => s
  | (a, _) :: _ =>
    let whole := (l.zip (List.range l.length)).all (fun x => x.1.1 == a + x.2)
    let s1 := if whole then s.scratchStore lid core a (l.map (·.2)) else l.foldl (fun s x => s.scratchStore lid core x.1 [x.2]) s
    (s1.watch agentCopy (some core) a (if whole then l.length else 1) false true (fun _ => true)).2

/-- Scratchpad address of a version, and the release barrier, of a tile homed in a workgroup, by the words of an entry. -/
def entryPlace (w : Nat × Nat) (g : Workgroup) (v : Nat) : Nat × Credit :=
  (g.base + bits w.2 (16 * v + 15) (16 * v) * 16, { core := g.core, addr := g.base + bits w.1 31 16 * 32 })

/-- Deliver a multicast's bytes to a member, by the entry as it stood at issue, and credit its release barrier and the BOB object; `short` bytes
were lost to an error (R188, R201, R217). -/
def State.deliver (s : State) (w : Nat × Nat) (g : Workgroup) (v lid : Nat) (data : List (Nat × Byte)) (short : Nat) (err : Option TrapInfo)
    (bob : Option Credit) : State :=
  let (a, rel) := entryPlace w g v
  let s1 := s.landBytes lid g.core (data.map (fun x => (a + x.1, x.2)))
  s1.creditAll (rel :: bob.toList) (data.length + (if err.isSome then short else 0)) (err.map (fun e => (e.cause.code, e.vaddr.toNat + e.paddr)))

/-- A multicast ends with COPY_ERROR for a member whose buffer is STREAM (R201, R217). -/
def State.deliverBad (s : State) (w : Nat × Nat) (g : Workgroup) (v total : Nat) (n : ThreadName) (key : Nat) (bob : Option Credit) : State :=
  let (a, rel) := entryPlace w g v
  let e : TrapInfo := { trapOf .copyError 0 with vaddr := BitVec.ofNat 64 (a - g.base) }
  (s.transferError n key e).creditAll (rel :: bob.toList) total (some (e.cause.code, e.vaddr.toNat))

/-- What the cluster network holds for a flipped buffer: delivered to the member it is homed in, or, where the buffer is STREAM, ended with
COPY_ERROR (R217; DESIGN CHOICE, log 23). -/
def State.deliverHeld (s : State) (t : Tile) (v : Nat) (stream : Bool) : State :=
  let mine (h : HeldDelivery) : Bool := h.lid == t.lid && h.q == t.q && h.group == t.group && h.handle == t.handle && h.role == t.home.role
  (s.engines.heldDeliveries.filter mine).foldl (fun s h =>
    let s1 := { s with engines := { s.engines with heldDeliveries := s.engines.heldDeliveries.filter (· != h) } }
    let s2 := if stream then s1.deliverBad h.entry t.home v (h.data.length + h.rest) h.thread h.key h.bob
      else s1.deliver h.entry t.home v h.lid h.data h.rest h.err h.bob
    s2.transferOver h.thread h.key h.copy) s

/-- Must TOWN wait: its accesses, or a home member that has not started (R145, R189). -/
def townNeed (o : AgOp) : Ctx → State → Thread → Bool := fun _ s t =>
  s.drained t.name && (match s.groupOf t.name with
    | some g => (match s.tile g o.imm.toNat with | .pending _ => false | _ => true)
    | none => true)

/-- TOWN (R433). -/
def bodyTown (o : AgOp) : BodyFn := asBody (townNeed o) (fun _ s t =>
  match s.groupOf t.name with
  | none => .trap s (protOf 10)
  | some g =>
    match s.tile g o.imm.toNat with
    | .pending _ => .trap s (protOf 10)
    | .bad r => .trap s (protOf r)
    | .ok tl =>
      let v := s.version g tl (o.sub6.getLsbD 1)
      let stream := o.sub6.getLsbD 0
      let own := s.owner tl v
      let twice := own == .stream || (own == .engine && stream)
      if twice then
        .trap s (trapOf .mmxOwner (tl.handle + (if own == .engine then 1 else 2) * 2 ^ 12))
      else
        let to_ : Owner := if stream then .stream else .engine
        let s1 := (s.release t.name.core 1).closeRegion t.name
        let s2 := (if own == .thread then s1.flip tl v to_ else s1).deliverHeld tl v stream
        .ok (if tl.home.role == g.role then s2 else
          match s2.tileOn g o.imm.toNat (some g.role) with
          | .ok mine => (s2.flipMember mine v to_).deliverHeld mine v stream
          | _ => s2))

/-- TOWN (R433). -/
def execTown (o : AgOp) (s : State) : Host.Outcome State Fault Refusal := .next (runWord (.town o) (bodyTown o) s)

end Sys2Proof.Machine
end

