-- ==== Sys2Proof/Machine/Ring.lean ====
section
/-! DEFINITION. Awning rings: descriptors and pointers, slot states, the ring words and the events that publish, settle and configure
(R263 to R266, R423). -/

namespace Sys2Proof.Machine

/-! ## Descriptors and pointers (R263) -/

/-- A ring descriptor. -/
structure Ring where
  val : Bool
  bnd : Bool
  psl : Nat
  conk : Nat
  slots : Nat
  lines : Nat
  lineBytes : Nat
  base : Nat
  asid : Nat
deriving DecidableEq, Repr

def State.ring (s : State) (r : Nat) : Ring :=
  let w0 := s.dreg (regRing r)
  { val := bit w0 63, bnd := bit w0 62, psl := bits w0 61 58, conk := bits w0 57 56, slots := bits w0 55 50 + 1
    lines := bits w0 49 44 + 1, lineBytes := bits w0 43 28 * 16, base := bits w0 19 0 * 64, asid := bits (s.dreg (regRing r + 8)) 63 48 }

/-- Bytes of a slot. -/
def Ring.slotBytes (r : Ring) : Nat := r.lines * r.lineBytes

/-- Invalid for use in an address space. -/
def Ring.invalid (r : Ring) (asid : Nat) : Bool := !r.val || r.asid != asid || 48 * 2 ^ 20 < r.base + r.slots * r.slotBytes

/-- The four pointers. -/
inductive RingPtr where
  | prd
  | pub
  | con
  | rls

/-- A pointer's place: offset in the descriptor, high half. -/
def RingPtr.place : RingPtr → Nat × Bool
  | .prd => (16, true)
  | .pub => (16, false)
  | .con => (24, true)
  | .rls => (24, false)

def State.ringPtr (s : State) (r : Nat) (k : RingPtr) : Nat :=
  let w := s.dreg (regRing r + k.place.1)
  if k.place.2 then w / 2 ^ 32 else w % 2 ^ 32

def State.setRingPtr (s : State) (r : Nat) (k : RingPtr) (v : Nat) : State :=
  let a := regRing r + k.place.1
  let w := s.dreg a
  s.setDreg a (if k.place.2 then setBits w 63 32 v else setBits w 31 0 v)

/-- The next sequence number, modulo 2^32. -/
def seqNext (n : Nat) : Nat := (n + 1) % 2 ^ 32

/-- Advance a pointer by one. -/
def State.stepRingPtr (s : State) (r : Nat) (k : RingPtr) : State := s.setRingPtr r k (seqNext (s.ringPtr r k))

/-- A slot outside FREE. -/
def State.slot? (s : State) (r k : Nat) : Option RingSlot := s.media.slots.find? (fun x => x.ring == r && x.slot == k)

/-- The slot outside FREE that holds a sequence. -/
def State.seq? (s : State) (r n : Nat) : Option RingSlot := s.media.slots.find? (fun x => x.ring == r && x.seq == n)

def State.setSlots (s : State) (l : List RingSlot) : State := { s with media := { s.media with slots := l } }

def State.modSlot (s : State) (r k : Nat) (f : RingSlot → RingSlot) : State :=
  s.setSlots (s.media.slots.map (fun x => if x.ring == r && x.slot == k then f x else x))

def State.freeSlot (s : State) (r k : Nat) : State := s.setSlots (s.media.slots.filter (fun x => !(x.ring == r && x.slot == k)))

/-- A write of a descriptor word (R263): ignored while a slot is outside FREE, words 2 and 3 are read only, and an accepted write of
word 0 clears them. -/
def State.ringDescWrite (s : State) (r word v : Nat) : State :=
  if s.media.slots.any (·.ring == r) || 256 ≤ r then s
  else if word == 0 then
    let s1 := ((s.setDreg (regRing r) (setBits v 27 20 0)).setDreg (regRing r + 16) 0).setDreg (regRing r + 24) 0
    { s1 with media := { s1.media with lates := s1.media.lates.filter (·.1 != r), voids := s1.media.voids.filter (·.1 != r) } }
  else if word == 1 then s.setDreg (regRing r + 8) (v / 2 ^ 48 * 2 ^ 48)
  else s

/-! ## Slots (R264) -/

/-- Are copies that name the slot as a ring end unfinished? -/
def State.slotBusy (s : State) (x : RingSlot) : Bool := s.engines.copies.any (fun c => c.ring == some (x.ring, x.slot, x.seq))

def State.isVoid (s : State) (r n : Nat) : Bool := s.media.voids.contains (r, n)

/-- Free the HELD slot of the sequence before n (R264). -/
def State.freeHeld (s : State) (r n : Nat) : State :=
  match s.media.slots.find? (fun x => x.ring == r && x.st == .held && seqNext x.seq == n) with
  | some x => s.freeSlot r x.slot
  | none => s

/-- One advance that is due at a ring, if there is one: a sequence to be LATE, PUB, CON, or RLS. -/
def State.ringDue (s : State) (r : Nat) : Option State :=
  let ring := s.ring r
  let prd := s.ringPtr r .prd
  let pub := s.ringPtr r .pub
  let con := s.ringPtr r .con
  let rls := s.ringPtr r .rls
  if s.media.lates.contains (r, prd) && (s.slot? r (prd % ring.slots)).isNone then
    let x : RingSlot := { ring := r, slot := prd % ring.slots, st := .late, seq := prd, owner := none, hold := none, publishing := false, lid := 0 }
    let s1 := { s with media := { s.media with lates := s.media.lates.filter (· != (r, prd)), slots := s.media.slots ++ [x] } }
    some (s1.stepRingPtr r .prd)
  else
    let up : Option State := match s.seq? r pub with
      | some x =>
        if x.st == .ready || x.st == .late then some (s.stepRingPtr r .pub)
        else if x.st == .filling && x.publishing && !(s.slotBusy x) then
          some ((s.modSlot r x.slot (fun x => { x with st := .ready, owner := none, publishing := false })).stepRingPtr r .pub)
        else none
      | none => if s.isVoid r pub then some (s.stepRingPtr r .pub) else none
    match up with
    | some s1 => some s1
    | none =>
      if con != pub && s.isVoid r con then some ((s.freeHeld r con).stepRingPtr r .con)
      else if rls != con && !(s.media.slots.any (fun x => x.ring == r && (x.st == .draining || x.st == .late) && x.seq == rls)) then
        let s1 := { s with media := { s.media with voids := s.media.voids.filter (· != (r, rls)) } }
        some (s1.stepRingPtr r .rls)
      else none

/-- Make every advance that is due, at most `fuel`. -/
def State.ringAdvance (s : State) (r : Nat) : Nat → State
  | 0 => s
  | fuel + 1 => match s.ringDue r with | some s1 => s1.ringAdvance r fuel | none => s

/-- Bound on the advances due at one moment: each slot, void and late sequence passes each pointer once. -/
def State.ringSettle (s : State) (r : Nat) : State := s.ringAdvance r (256 + 4 * (s.media.voids.length + s.media.lates.length))

/-- Release of a DRAINING slot (R264): FREE, or HELD when a hold was recorded and the next sequence is not yet released. -/
def State.releaseSlot (s : State) (x : RingSlot) : State :=
  let next := seqNext x.seq
  let con := s.ringPtr x.ring .con
  let passed := next != con && (con + 2 ^ 32 - next) % 2 ^ 32 < 2 ^ 31 &&
    !(s.media.slots.any (fun y => y.ring == x.ring && y.st == .draining && y.seq == next))
  let s1 := if x.hold.isSome && !passed then s.modSlot x.ring x.slot (fun x => { x with st := .held, owner := none })
    else s.freeSlot x.ring x.slot
  (s1.freeHeld x.ring x.seq).ringSettle x.ring

/-- RGREL.PUB, or the settlement of a FILLING slot: it is publishing, and READY when its turn comes (R264, R265). -/
def State.publishSlot (s : State) (x : RingSlot) : State :=
  (s.modSlot x.ring x.slot (fun x => { x with publishing := true })).ringSettle x.ring

/-- Has a ring's PRD not yet passed a sequence, by the order of sequences modulo 2^32? -/
def State.seqAhead (s : State) (r n : Nat) : Bool := (n + 2 ^ 32 - s.ringPtr r .prd) % 2 ^ 32 < 2 ^ 31

/-- A sequence of an output ring is LATE (R261, R264): its FILLING slot, or, when it was never acquired, its slot once it can be had. A
sequence that was published and released before is left as it is. -/
def State.lateSeq (s : State) (r n : Nat) : State :=
  match s.seq? r n with
  | some x =>
    if x.st == .filling then
      (s.modSlot r x.slot (fun x => { x with st := .late, owner := none, publishing := false })).ringSettle r
    else s
  | none => if s.seqAhead r n then ({ s with media := { s.media with lates := s.media.lates ++ [(r, n)] } } : State).ringSettle r else s

/-- The slots of an ended chain (R261, R264): FILLING is LATE in an output ring and void in another, DRAINING is released. -/
def State.settleChainSlots (s : State) (plan n : Nat) : State :=
  (s.media.slots.filter (fun x => x.owner == some (.chain plan n))).foldl (fun s x =>
    match x.st with
    | .filling =>
      if (s.ring x.ring).conk != 0 then s.lateSeq x.ring x.seq
      else
        let s1 := s.freeSlot x.ring x.slot
        ({ s1 with media := { s1.media with voids := s1.media.voids ++ [(x.ring, x.seq)] } } : State).ringSettle x.ring
    | .draining => s.releaseSlot x
    | _ => s) s

/-! ## Acquisition (R265) -/

/-- Who owns what a thread of a workgroup acquires at a ring. -/
def ringOwner (g : Workgroup) (ring : Ring) : SlotOwner :=
  match g.chain, ring.bnd with
  | some (p, n), true => .chain p n
  | _, _ => .wg g.core g.slot g.lid

/-- The sequence an acquisition takes (R264). -/
def State.ringSeq (s : State) (g : Workgroup) (r : Nat) (consumer : Bool) : Nat :=
  match g.chain, (s.ring r).bnd with
  | some (_, n), true => n % 2 ^ 32
  | _, _ => s.ringPtr r (if consumer then .con else .prd)

/-- Try an acquisition for a thread: the slot word, or none while the sequence is not acquirable. -/
def State.ringTry (s : State) (g : Workgroup) (wti r : Nat) (consumer : Bool) : Option (Nat × State) :=
  let ring := s.ring r
  let n := s.ringSeq g r consumer
  let k := n % ring.slots
  let p := clusterOf g.core
  let w0 := trailWord 5 p g.core g.slot wti (6 * 2 ^ 30)
  if !(s.trailOk p w0 (g.cls == 0)) then none
  else
    let word := n % 2 ^ 26 * 64 + k
    if consumer then
      match s.slot? r k with
      | some x =>
        if x.st == .ready && x.seq == n && s.ringPtr r .con == n then
          let s1 := s.modSlot r k (fun x => { x with st := .draining, owner := some (ringOwner g ring), hold := none, lid := g.lid })
          some (word, ((s1.stepRingPtr r .con).ringSettle r).trail p w0 n)
        else none
      | none => none
    else if (s.slot? r k).isNone && s.ringPtr r .prd == n then
      let x : RingSlot := { ring := r, slot := k, st := .filling, seq := n, owner := some (ringOwner g ring), hold := none
                            publishing := false, lid := g.lid }
      some (word, (((s.setSlots (s.media.slots ++ [x])).stepRingPtr r .prd).ringSettle r).trail p w0 n)
    else none

/-- Is another thread waiting before it on the same side of an unbound ring? -/
def State.ringAhead (s : State) (r : Nat) (consumer : Bool) (order : Nat) : Bool :=
  !(s.ring r).bnd && s.work.threads.any (fun t => match t.st with
    | .blocked (.ring r' c' _ o) => r' == r && c' == consumer && o < order
    | _ => false)

/-- The checks on the ring a ring word names (R265, R423): the workgroup and ring, or the trap. -/
def ringCheck (s : State) (t : Thread) (r : Nat) : Except TrapInfo (Workgroup × Ring) :=
  match s.groupOf t.name with
  | none => .error (protOf 11)
  | some g =>
    let ring := s.ring r
    if ring.invalid (s.asidOf t.name) then .error (protOf 11)
    else if ring.bnd && g.chain.isNone then .error (protOf 12)
    else .ok (g, ring)

/-- RGACQ (R423). -/
def bodyRgacq (o : AgOp) : BodyFn := asBody noNeed (fun c s t =>
  let a := srcReg c t o.a
  let consumer := o.sub6.getLsbD 0
  if 256 ≤ a then .trap s (trapOf .illegalField 0)
  else match ringCheck s t a with
    | .error info => .trap s info
    | .ok (g, ring) =>
      if consumer && ring.conk != 0 then .trap s (protOf 12)
      else
        let (k, s1) := s.nextOrder
        match (if s1.ringAhead a consumer k then none else s1.ringTry g t.name.wti a consumer) with
        | some (w, s2) => .ok (s2.modThread t.name (·.setReg o.d.toNat (BitVec.ofNat 32 w)))
        | none => .ok s1 (.wait (.ring a consumer o.d k)))

/-- A blocked RGACQ whose sequence is acquirable completes (R36, R265). -/
def State.wakeRing (s : State) (n : ThreadName) (r : Nat) (consumer : Bool) (d : RegF) (order : Nat) : State :=
  match s.groupOf n with
  | none => s
  | some g =>
    if s.ringAhead r consumer order then s
    else match s.ringTry g n.wti r consumer with
      | some (w, s1) => (s1.modThread n (·.setReg d.toNat (BitVec.ofNat 32 w))).wake n .next []
      | none => s

/-! ## Publish, release, hold (R265) -/

/-- The slot a ring word names, held by the thread's owner in a state, or the trap. -/
def ringHeld (s : State) (t : Thread) (a : Nat) (st : SlotState) : Except TrapInfo (Ring × RingSlot) :=
  if 2 ^ 14 ≤ a then .error (trapOf .illegalField 0)
  else match ringCheck s t (bits a 7 0) with
    | .error info => .error info
    | .ok (g, ring) =>
      match s.slot? (bits a 7 0) (bits a 13 8) with
      | some x => if x.st == st && x.owner == some (ringOwner g ring) then .ok (ring, x) else .error (protOf 12)
      | none => .error (protOf 12)

/-- RGREL.PUB (R265). -/
def bodyRgrelPub (o : AgOp) : BodyFn := asBody noNeed (fun c s t =>
  match ringHeld s t (srcReg c t o.a) .filling with
  | .error info => .trap s info
  | .ok (_, x) => if x.publishing then .trap s (protOf 12) else .ok (s.publishSlot x))

/-- RGREL.REL (R265). -/
def bodyRgrelRel (o : AgOp) : BodyFn := asBody noNeed (fun c s t =>
  match ringHeld s t (srcReg c t o.a) .draining with
  | .error info => .trap s info
  | .ok (_, x) => .ok (s.releaseSlot x))

/-- RGHOLD (R265). -/
def bodyRghold (o : AgOp) : BodyFn := asBody noNeed (fun c s t =>
  let b := srcReg c t o.b
  if 2 ^ 14 ≤ b || bits b 7 6 != 0 then .trap s (trapOf .illegalField 0)
  else match ringHeld s t (srcReg c t o.a) .draining with
    | .error info => .trap s info
    | .ok (ring, x) =>
      let first := bits b 5 0
      let count := bits b 13 8 + 1
      if ring.lines < first + count then .trap s (protOf 12)
      else .ok (s.modSlot x.ring x.slot (fun x => { x with hold := some (first, count) })))

/-- RGACQ (R423). -/
def execRgacq (o : AgOp) (s : State) : Host.Outcome State Fault Refusal := .next (runWord (.rgacq o) (bodyRgacq o) s)

/-- RGREL_REL (R265). -/
def execRgrelRel (o : AgOp) (s : State) : Host.Outcome State Fault Refusal := .next (runWord (.rgrelRel o) (bodyRgrelRel o) s)

/-- RGHOLD (R265). -/
def execRghold (o : AgOp) (s : State) : Host.Outcome State Fault Refusal := .next (runWord (.rghold o) (bodyRghold o) s)

/-! ## Events -/

/-- RING_DESCRIPTOR_WRITE (R263): a supervisor write of a descriptor word. -/
def execRingDescriptorWrite (ring word : Nat) (v : BitVec 64) (s : State) : Host.Outcome State Fault Refusal :=
  .next (s.ringDescWrite ring word v.toNat)

end Sys2Proof.Machine
end

