-- ==== Sys2Proof/Machine/Place.lean ====
section
/-! DEFINITION. Resources of a core with the reserves of strip mode, and the start of a gang (R7, R17 to R20, R110, R251, R445). -/

namespace Sys2Proof.Machine

/-- A thread at an entry clause, as R7 starts it. -/
def newThread (n : ThreadName) (lid crew level : Nat) (epc : VAddr) (fctl : Word32) (now : Nat) : Thread :=
  { name := n, lid := lid, crew := crew, level := level, pc := { ca := epc, wi := 0 }, regs := [], preds := 0, fctl := fctl
    fstat := 0, depth := 0, calls := [], callXfer := none, loops := [], progress := 0, region := 0, dtcf := 0, st := .ready
    hdr := none, skip := false, solo := none, readyAt := now, waited := 0, yielded := false, held := 0, issuedAt := now, xfn := []
    batches := [], nextSeal := 0, trap := none, boundary := [], kin := [], pastComparator := false, handling := none }

/-- Launched threads of a workgroup. -/
def Workgroup.threads (g : Workgroup) : Nat := g.crews.foldl (fun a c => a + c.nth) 0

/-- May `need` more of a resource be taken: STRIP work from all of it, other work never from what is reserved for STRIP while strip
mode is on (R251). -/
def reserveOk (mode strip : Bool) (total reserve stripUsed otherUsed need : Nat) : Bool :=
  if strip || !mode then stripUsed + otherUsed + need ≤ total
  else stripUsed + otherUsed + need + (reserve - stripUsed) ≤ total

/-- Use of a resource by the resident workgroups of a core, STRIP and other. -/
def State.coreUse (s : State) (core : Nat) (f : Workgroup → Nat) : Nat × Nat :=
  let on := s.work.groups.filter (fun g => g.core == core && g.away.isNone)
  let sum (l : List Workgroup) : Nat := l.foldl (fun a g => a + f g) 0
  (sum (on.filter (·.cls == 0)), sum (on.filter (·.cls != 0)))

/-- Lowest free workgroup slot of a core. -/
def State.freeWgSlot (s : State) (core : Nat) : Option Nat :=
  (List.range 64).find? (fun k => (s.group? core k).isNone)

/-- Lowest free scratchpad allocation of `size` bytes on a core (R20). -/
def State.freeScratch (s : State) (core size : Nat) : Option Nat :=
  let on := s.work.groups.filter (fun g => g.core == core && g.size != 0)
  if size == 0 then some 0
  else
    let starts := sortBy (fun a b => a < b) (0 :: on.map (fun g => g.base + g.size))
    starts.find? (fun b => b + size ≤ 2 ^ 20 && on.all (fun g => g.base + g.size ≤ b || b + size ≤ g.base))

/-- A slot and an allocation for a workgroup of n threads, or none (R19). -/
def State.room (s : State) (core cls n size : Nat) : Option (Nat × Nat) :=
  let mode := s.stripMode
  let strip := cls == 0
  let ok (total reserve : Nat) (f : Workgroup → Nat) (need : Nat) : Bool :=
    let (a, b) := s.coreUse core f
    reserveOk mode strip total reserve a b need
  if ok 4096 512 Workgroup.threads n && ok 64 4 (fun _ => 1) 1 && ok (2 ^ 20) (128 * 1024) (·.size) size then
    match s.freeWgSlot core, s.freeScratch core size with
    | some k, some b => some (k, b)
    | _, _ => none
  else none

/-- Squads of selected crews, numbered in turn (R17, R110). -/
def crewRuns : List (Nat × Crew) → Nat → Option VAddr → List CrewRun
  | [], _, _ => []
  | (c, x) :: r, first, pc =>
    { crew := c, firstSquad := first, nth := x.nth, epc := pc.getD x.epc } :: crewRuns r (first + (x.nth + 31) / 32) none

/-- The allocation as it stands when a gang starts: zero bytes, no open record, no object (R445). -/
def State.clearScratch (s : State) (core base size : Nat) : State :=
  let lo := core * 2 ^ 20 + base
  { s with
    store := { s.store with
      scratch := s.store.scratch.filter (fun e => !(lo ≤ e.1 && e.1 < lo + size))
      poison := s.store.poison.filter (fun u => !(scratchUnits ≤ u && u < awningUnits && lo ≤ (u - scratchUnits) * 64 &&
        (u - scratchUnits) * 64 < lo + size))
      conflicts := s.store.conflicts.filter (fun r => !(r.scratch == some core && base ≤ r.granule * 16 && r.granule * 16 < base + size)) }
    engines := { s.engines with
      marks := s.engines.marks.filter (fun m => !(m.core == core && base ≤ m.addr && m.addr < base + size))
      delayed := s.engines.delayed.filter (fun o => !(o.object.core == core && base ≤ o.object.addr && o.object.addr < base + size)) } }

/-- Version buffers of an allocation are THREAD (R191). -/
def State.freeTiles (s : State) (core base size : Nat) : State :=
  let back (b : Buffer) : Buffer := if b.core == core && base ≤ b.lo && b.lo < base + size then { b with owner := .thread } else b
  { s with engines := { s.engines with tiles := s.engines.tiles.map (fun (t : TileInst) => { t with bufs := t.bufs.map back }) } }

/-- START A GANG (R19): every launched thread READY at its crew's entry clause. The workgroup carries its slot and allocation. -/
def State.startGang (s : State) (l : Launch) (g : Workgroup) : State :=
  let ths := g.crews.flatMap (fun c => (List.range c.nth).map (fun i =>
    newThread { core := g.core, slot := g.slot, wti := 32 * c.firstSquad + i, ctx := 0 } g.lid c.crew 0 c.epc l.fctl s.now))
  let s1 := (s.clearScratch g.core g.base g.size).freeTiles g.core g.base g.size
  { s1 with work := { s1.work with groups := s1.work.groups ++ [g], threads := s1.work.threads ++ ths } }

end Sys2Proof.Machine
end

