-- ==== Sys2Proof/Machine/Chain.lean ====
section
/-! DEFINITION. Strip chains: the times of a strip, status entries, completion of tasks and launches, the shading level, the end and the
cancellation of a chain (R113, R116, R255, R259 to R261, R323, R442), and the ring events that can end a chain (R265). -/

namespace Sys2Proof.Machine

/-! ## Times (R255), in units of 2^-32 ns -/

/-- Scan time of line L of frame f. -/
def Plan.line (p : Plan) (f l : Nat) : Int := (p.epoch * 2 ^ 32 + (f * p.vtot + l) * p.lper * 2 ^ 16 : Nat)

def Plan.need (p : Plan) (n : Nat) : Int := p.line (n / p.spf) (p.voff + p.height * (n % p.spf))

def Plan.finish (p : Plan) (n : Nat) : Int := p.need n - (p.lead * 2 ^ 32 : Nat)

def Plan.start (p : Plan) (n : Nat) : Int := p.finish n - (p.budg * 2 ^ 32 : Nat)

/-- The present time in the same units (R247). -/
def State.time (s : State) : Int := (s.clock.dtc.toNat / 2 ^ 40 : Nat)

/-! ## Plan slots and chains

An enabled plan, and a disabled one with chains in flight, is known by the key slot + 16·launch id: a slot may be enabled anew while
chains of its last plan still run. -/

/-- Slot of a plan's key. -/
def slotOf (k : Nat) : Nat := k % 16

/-- Does a newer plan hold the slot's registers? -/
def State.superseded (s : State) (k : Nat) : Bool := s.media.plans.any (fun p => p.slot != k && slotOf p.slot == slotOf k && p.enabled)

def State.planSlot? (s : State) (i : Nat) : Option PlanSlot := s.media.plans.find? (·.slot == i)

def State.modPlan (s : State) (i : Nat) (f : PlanSlot → PlanSlot) : State :=
  { s with media := { s.media with plans := s.media.plans.map (fun p => if p.slot == i then f p else p) } }

def State.modChain (s : State) (i n : Nat) (f : Chain → Chain) : State :=
  s.modPlan i (fun p => { p with chains := p.chains.map (fun c => if c.n == n then f c else c) })

/-- Cluster role, chain id and cluster of a chain (R256). -/
def Plan.role (p : Plan) (n : Nat) : Nat := p.crb + n % (p.crn + 1)

def Plan.chainId (p : Plan) (n : Nat) : Nat := p.orl * 4096 + n % 4096

def State.roleCluster (s : State) (lid q : Nat) : Nat :=
  match s.launch? lid with
  | some l => match l.clusters.getD q none with | some c => c.pcl | none => 0
  | none => 0

/-- LVL and SLK of a plan slot (R252). -/
def State.planLvl (s : State) (i : Nat) : Nat := bits (s.dreg (regPlan (slotOf i) + 0x10)) 63 61
def State.planSlk (s : State) (i : Nat) : Nat := bits (s.dreg (regPlan (slotOf i) + 0x10)) 60 57
def State.setLvl (s : State) (i lvl slk : Nat) : State :=
  if s.superseded i then s else s.setDreg (regPlan (slotOf i) + 0x10) (lvl * 2 ^ 61 + slk * 2 ^ 57)

/-! ## Status entries (R259, R449) -/

/-- A HOME read of the device at supervisor level. -/
def State.deviceRead (s : State) (cluster asid va n : Nat) : List Byte :=
  match s.xlat (.unit cluster) asid va 1 { write := false, bytes := 8 } with
  | .ok pa _ => s.store.mem.read pa n
  | _ => List.replicate n 0

/-- Address of the status entry of strip n. -/
def Plan.status (p : Plan) (n : Nat) : Nat := p.stat + 32 * (n % 64)

/-- Write part of a status entry, offset and bytes, in the plan's address space; word 3 may be written after the plan's launch is gone. -/
def State.writeStatus (s : State) (p : Plan) (n off : Nat) (b : List Byte) : State :=
  s.deviceStoreLog (s.roleCluster p.lid (p.role n)) p.lid p.asid (p.status n + off) b

/-- Read a word of a status entry. -/
def State.statusWord (s : State) (p : Plan) (n off : Nat) : Nat :=
  leVal (s.deviceRead (s.roleCluster p.lid (p.role n)) p.asid (p.status n + off) 8)

/-! ## Completion of launches and tasks -/

/-- Write a completion record (R323). -/
def State.completion (s : State) (asid cpl lid status count cause addr : Nat) : State :=
  if cpl == 0 then s
  else
    let b := recBytes [lid * 2 ^ 48 + status * 2 ^ 40 + min count (2 ^ 16 - 1) * 2 ^ 24, s.dtcNs % 2 ^ 64, cause * 2 ^ 56, addr]
    match s.deviceStore 0 asid cpl b with
    | .ok s1 => s1
    | .error _ => s.deviceError 14 asid cpl 0 1

/-- A launch completes once every workgroup is EXITED and no task of it is left; a plan's launch, once its plan is off and its last
chain has ended (R253, R323). -/
def State.launchSettle (s : State) (lid : Nat) : State :=
  match s.launch? lid with
  | none => s
  | some l =>
    let busy := s.work.tasks.any (·.lid == lid) || s.work.groups.any (·.lid == lid) ||
      (match l.plan with
        | some i => (match s.planSlot? i with | some p => p.plan.lid == lid && (p.enabled || !p.chains.isEmpty) | none => false)
        | none => l.finished.length < l.count)
    if busy then s
    else
      let s1 := s.completion l.asid l.cpl.toNat lid 0 l.errors l.firstCause l.firstAddr.toNat
      { s1 with
        work := { s1.work with launches := s1.work.launches.filter (·.lid != lid) }
        engines := { s1.engines with tiles := s1.engines.tiles.filter (·.lid != lid)
                                     heldDeliveries := s1.engines.heldDeliveries.filter (·.lid != lid) }
        media := { s1.media with plans := s1.media.plans.filter (fun p => p.plan.lid != lid || p.enabled) } }

/-- A task leaves the dependence table: its versions become current and its completion word is written (R113, R116). -/
def State.taskOver (s : State) (t : Task) (status : Nat) : State :=
  let cur (s : State) (h v : Nat) : State :=
    let i := s.inst t.lid t.q t.group h 0
    if i.wrote ≤ t.order then s.putInst { i with current := v, wrote := t.order } else s
  let s1 := t.writeVer.foldl (fun s x => cur s x.1 x.2) s
  let s2 := { s1 with work := { s1.work with tasks := s1.work.tasks.filter (fun x => !(x.cluster == t.cluster && x.entry == t.entry)) } }
  if t.task.done == 0 then s2
  else
    let w := t.task.chainId * 2 ^ 48 + (s.dtcNs % 2 ^ 32) * 2 ^ 16 + status
    match s.launch? t.lid with
    | some l => s2.deviceStoreLog t.cluster t.lid l.asid t.task.done.toNat (leBytes w 8)
    | none => s2

/-! ## The shading level (R260) -/

/-- Estimate of a task kind. -/
def PlanSlot.estOf (p : PlanSlot) (k : Nat) : Nat := p.est.getD k 0

/-- The step at a task's completion: its estimate when it ran, and the prediction for its chain. -/
def State.chainStep (s : State) (i n kind : Nat) (ran : Option Nat) : State :=
  match s.planSlot? i with
  | none => s
  | some p =>
    let now := s.time
    let ns : Int := 2 ^ 32
    let s1 := match ran with
      | some t0 =>
        let e : Int := p.estOf kind
        let d : Int := now - t0 - e * ns
        s.modPlan i (fun p => { p with est := setAt p.est kind (e + d.tdiv (8 * ns)).toNat })
      | none => s
    match s1.planSlot? i with
    | none => s1
    | some p =>
      match p.chains.find? (·.n == n) with
      | none => s1
      | some c =>
        let pred := (s1.work.tasks.filter (fun t => t.chain == some (i, n))).foldl (fun (a : Int) t =>
          let e : Int := p.estOf t.task.kind
          match t.started with
          | some t0 => a + max 0 (e * ns - (now - t0))
          | none => a + e * ns) now
        if p.plan.finish n - p.plan.guard_ * ns < pred && c.clevel < 4 then
          (s1.modChain i n (fun c => { c with clevel := c.clevel + 1 })).setLvl i (max (s1.planLvl i) (c.clevel + 1)) 0
        else s1

/-! ## The end of a chain (R261) -/

/-- Does a pitch belong to a workgroup of a core's slot? -/
def State.pitchIn (s : State) (cluster number core slot : Nat) : Bool :=
  s.engines.pitches.any (fun p => p.cluster == cluster && p.number == number && p.core == core && p.slot == slot)

/-- End every thread of a workgroup: handler contexts with the threads they handle; its parked accesses and transfers, the units of its packs and
its parked evaluations are discarded (R164, R261). -/
def State.endGroup (s : State) (core slot : Nat) : State :=
  let mine (n : ThreadName) : Bool := n.core == core && n.slot == slot
  let s1 := (s.work.threads.filter (fun t => mine t.name && t.name.ctx != 0)).foldl (fun s t => (s.logBatches t).dropThread t.name) s
  let s2 := { s1 with
    store := { s1.store with outst := s1.store.outst.filter (fun o => !(mine o.thread && o.fid.isSome)) }
    engines := { s1.engines with
      copies := s1.engines.copies.map (fun (c : Copy) => if mine c.thread && c.fid.isSome then
        { c with fid := none, readDone := true, err := some { trapOf .copyError 0 with vaddr := 0 }, data := c.data.take c.landed, sides := []
                 vals := c.vals.take c.landed }
        else c)
      units := s1.engines.units.filter (fun u => !(u.core == core && u.slot == slot))
      evals := s1.engines.evals.map (fun (e : Eval) =>
        if e.fid.isSome && s1.pitchIn e.cluster e.pitch core slot then { e with fid := none, abort := true } else e) } }
  (s2.work.threads.filter (fun t => mine t.name && t.name.ctx == 0 && t.st != .exited)).foldl (fun s t => s.endThread t.name) s2

/-- Cancel a running workgroup of a chain; in a frozen cluster its threads end at thaw (R261). -/
def State.cancelGroup (s : State) (core slot : Nat) : State :=
  let s1 := s.modGroup core slot (fun g => { g with cancelled := true })
  if (s.stop? (clusterOf core)).isSome then s1.deferTo (clusterOf core) (.cancel core slot) else s1.endGroup core slot

/-- End chain n of a plan slot at a time: 0 COMPLETED, 1 cancelled, 2 completed with its slot unpublished. -/
def State.endChain (s : State) (i n outc : Nat) (at_ : Int) : State :=
  match s.planSlot? i with
  | none => s
  | some p =>
    match p.chains.find? (·.n == n) with
    | none => s
    | some c =>
      let p0 := p.plan
      let s1 := if outc != 1 then s else
        let mine (t : Task) : Bool := t.chain == some (i, n)
        let s1 := (s.work.tasks.filter (fun t => mine t && t.started.isNone)).foldl (fun s t => s.taskOver t 2) s
        (s1.work.groups.filter (fun g => g.chain == some (i, n))).foldl (fun s g => s.cancelGroup g.core g.slot) s1
      let s2 := if outc == 0 then s1 else
        let s2 := s1.lateSeq p0.ring (n % 2 ^ 32)
        let late := regPlan (slotOf i) + 0x20
        let s3 := if s2.superseded i then s2 else s2.setDreg late (s2.dreg late + 1)
        s3.eventRecord (s.roleCluster p0.lid (p0.role n)) 0 none 1 (p0.chainId n * 2 ^ 32 + n % p0.spf) 0
      let s3 := s2.settleChainSlots i n
      let tend := (at_ / (2 ^ 32 : Nat)).toNat
      let fin := p0.finish n
      let lvl := s3.planLvl i
      let slk := s3.planSlk i
      let s4 :=
        if outc != 0 then s3.setLvl i (min 4 (max lvl c.clevel + 1)) 0
        else if (p0.budg * 2 ^ 32 : Nat) ≤ 4 * (fin - at_) then
          (if slk + 1 == 8 then s3.setLvl i (max p0.bsr (lvl - 1)) 0 else s3.setLvl i lvl (slk + 1))
        else s3.setLvl i lvl 0
      let slack := satN ((fin - (tend * 2 ^ 32 : Nat)).tdiv (2 ^ 32 : Nat)) (-(2 ^ 31)) (2 ^ 31 - 1)
      let w0 := s4.statusWord p0 n 0
      let w2 := s4.statusWord p0 n 16
      let b0 := (n % 2 ^ 32) * 2 ^ 32 + outc * 2 ^ 24 + c.lv0 * 2 ^ 21 + c.clevel * 2 ^ 18 + bits w0 17 17 * 2 ^ 17 + p0.chainId n
      let b2 := (slack % (2 ^ 32 : Nat)).toNat * 2 ^ 32 + w2 % 2 ^ 32
      let s5 := s4.writeStatus p0 n 0 (recBytes [b0, tend % 2 ^ 64, b2])
      let s6 := s5.modPlan i (fun p => { p with chains := p.chains.filter (·.n != n) })
      s6.launchSettle p0.lid

/-- Has the publish pointer of a ring passed a sequence (R264)? -/
def State.pubPast (s : State) (r n : Nat) : Bool :=
  let pub := s.ringPtr r .pub
  let d := (pub + 2 ^ 32 - n % 2 ^ 32) % 2 ^ 32
  0 < d && d < 2 ^ 31

/-- Note when the slot of each chain was published. -/
def State.notePublished (s : State) : State :=
  { s with media := { s.media with plans := s.media.plans.map (fun p =>
      { p with chains := p.chains.map (fun c =>
          if c.published.isNone && s.pubPast p.plan.ring c.n then { c with published := some s.time.toNat } else c) }) } }

/-- End the oldest chains of each plan slot that have completed with their slots published before their finish: at the later of the
two (R261, R442). -/
def State.settleChains (s : State) : State :=
  let s := s.notePublished
  s.media.plans.foldl (fun s p =>
    p.chains.foldl (fun s _ =>
      match s.planSlot? p.slot with
      | some q => match q.chains with
        | c :: _ => match c.published with
          | some t =>
            let tend : Int := max t c.lastDone
            if c.left == 0 && tend < q.plan.finish c.n then s.endChain p.slot c.n 0 tend else s
          | none => s
        | [] => s
      | none => s) s) s

/-- A task completes with a status: the table, the step of its chain, what its completion ends (R116, R260, R261). -/
def State.taskDone (s : State) (t : Task) (status : Nat) : State :=
  let s1 := s.taskOver t status
  match t.chain with
  | some (i, n) =>
    let s2 := s1.modChain i n (fun c => { c with left := c.left - 1, lastDone := s.time.toNat })
    ((s2.chainStep i n t.task.kind (if status == 0 || status == 3 then t.started else none)).settleChains).launchSettle t.lid
  | none => s1.launchSettle t.lid

/-- CHAIN_FINISH (R261): chain n reaches its finish time; an earlier chain of the plan ends first, and a later one that has completed and whose
slot its end lets be published ends with it. -/
def execChainFinish (slot n : Nat) (s : State) : Host.Outcome State Fault Refusal :=
  .next (match s.media.plans.find? (fun p => slotOf p.slot == slot && (p.chains.head?.map (·.n)) == some n) with
  | none => s
  | some p => match p.chains with
    | c :: _ => if p.plan.finish n ≤ s.time then (s.endChain p.slot n (if c.left == 0 then 2 else 1) s.time).settleChains else s
    | [] => s)

/-! ## Ring events that publish (R265) -/

/-- RGREL_PUB (R265). -/
def execRgrelPub (o : AgOp) (s : State) : Host.Outcome State Fault Refusal :=
  .next (runWord (.rgrelPub o) (bodyRgrelPub o) s).settleChains

/-- RING_PUBLISH (R265): a publish whose copies have landed takes effect in its turn. -/
def execRingPublish (ring slot : Nat) (s : State) : Host.Outcome State Fault Refusal :=
  .next (match s.slot? ring slot with
  | some x => if x.publishing then (s.ringSettle ring).settleChains else s
  | none => s)

/-- SLOT_SETTLE_AT_EXIT (R265): a slot of an EXITING workgroup whose copies have finished. -/
def execSlotSettleAtExit (ring slot : Nat) (s : State) : Host.Outcome State Fault Refusal :=
  .next (match s.slot? ring slot with
  | some x =>
    match x.owner with
    | some (.wg core k lid) =>
      match s.group? core k with
      | some g =>
        if !g.exiting || g.lid != lid || s.slotBusy x then s
        else if x.st == .filling then (s.publishSlot x).settleChains
        else if x.st == .draining then s.releaseSlot x
        else s
      | none => s
    | _ => s
  | none => s)

end Sys2Proof.Machine
end

