-- ==== Sys2Proof/Machine/Float.lean ====
section
/-! DEFINITION. The meanings of the floating-point words of VEC clauses (R123, R131 to R137, R372, R375 to R378, R380, R387). -/

namespace Sys2Proof.Machine

/-- Format of a floating-point TYPE. -/
def fmtOf (ty : Nat) : Fmt :=
  match ty with
  | 5 => fp64
  | 6 => fp16
  | 7 => bf16
  | _ => fp32

/-- Join per-element results and their flags (R124). -/
def joinFlagged (w : Nat) (l : List (Flagged Nat)) : VOut :=
  { val := joinElems w (l.map (·.1)), flags := l.foldl (fun fl x => fl ||| x.2) 0 }

/-- One element of the arithmetic forms: NaN operands, the invalid case, or the rounded exact result (R375; for a NaN operand
the order of the entry's steps decides, DEDUCED, log 20). -/
def fpArith (f : Fmt) (c : FpCtl) (ops : List Nat) (g : List Ex → Ex) : Flagged Nat :=
  let xs := ops.map (srcFp f c)
  let fl := xs.foldl (fun fl x => fl ||| x.2) (0 : Flags)
  let vs := xs.map (·.1)
  if vs.any Ex.isNan then (f.nan, fl)
  else
    let r := g vs
    if r.isNan then (f.nan, fl ||| flagIV)
    else let (b, fr) := roundEx f c r; (b, fl ||| fr)

/-- Arithmetic on every element with two or three operands. -/
def fpRow (three : Bool) (g : RMode → List Ex → Ex) (x : VIn) : VOut :=
  let w := elemBits x.ty
  joinFlagged w ((List.range (elemCount x.ty)).map (fun i =>
    fpArith (fmtOf x.ty) x.ctl ([elem w x.a i, elem w x.b i] ++ (if three then [elem w x.c i] else [])) (g x.ctl.mode)))

def fnFadd : VIn → VOut := fpRow false (fun m l => match l with | [a, b] => a.add m b | _ => .nan false)
def fnFsub : VIn → VOut := fpRow false (fun m l => match l with | [a, b] => a.add m b.negate | _ => .nan false)
def fnFmul : VIn → VOut := fpRow false (fun _ l => match l with | [a, b] => a.mul b | _ => .nan false)
def fnFfma : VIn → VOut := fpRow true (fun m l => match l with | [a, b, c] => (a.mul b).add m c | _ => .nan false)

/-- A pattern after any flush. -/
def flushed (f : Fmt) (c : FpCtl) (b : Nat) : Nat :=
  if c.ftz && f.subnormal b then f.zero (b.testBit f.signBit) else b

/-- Is x below y, with -0 below +0? -/
def fpBelow (x y : Ex) : Bool := x.cmp y < 0 || (x.isZero && y.isZero && x.neg && !y.neg)

/-- One element of a minimum or maximum (R375). -/
def fpPick (f : Fmt) (c : FpCtl) (max numbers : Bool) (p q : Nat) : Flagged Nat :=
  let (x, fx) := srcFp f c p
  let (y, fy) := srcFp f c q
  let fl := fx ||| fy
  let xb := flushed f c p
  let yb := flushed f c q
  if x.isNan && y.isNan then (f.nan, fl)
  else if x.isNan then (if numbers then yb else f.nan, fl)
  else if y.isNan then (if numbers then xb else f.nan, fl)
  else (if (if max then fpBelow x y else fpBelow y x) then yb else xb, fl)

def pickRow (max numbers : Bool) (x : VIn) : VOut :=
  let w := elemBits x.ty
  joinFlagged w ((List.range (elemCount x.ty)).map (fun i =>
    fpPick (fmtOf x.ty) x.ctl max numbers (elem w x.a i) (elem w x.b i)))

def fnFmin : VIn → VOut := pickRow false false
def fnFmax : VIn → VOut := pickRow true false
def fnFminn : VIn → VOut := pickRow false true
def fnFmaxn : VIn → VOut := pickRow true true

/-- Condition of FCMP on numbers; on unordered operands (R377). -/
def fpCond (sub : Nat) (x y : Ex) : Bool :=
  let un := x.isNan || y.isNan
  match sub with
  | 0 => !un && x.cmp y == 0
  | 1 => !un && x.cmp y < 0
  | 2 => !un && x.cmp y ≤ 0
  | 3 => !un && 0 < x.cmp y
  | 4 => !un && 0 ≤ x.cmp y
  | 5 => un || x.cmp y != 0
  | 6 => un
  | _ => !un

/-- FCMP (R377). -/
def fnFcmp (x : VIn) : VOut :=
  let f := fmtOf x.ty
  let (p, fp) := srcFp f x.ctl x.a
  let (q, fq) := srcFp f x.ctl x.b
  let nan := p.isNan || q.isNan
  { preds := [(x.d, fpCond x.sub p q)], flags := fp ||| fq ||| flagIf (nan && 1 ≤ x.sub && x.sub ≤ 4) flagIV }

/-- FCLASS (R376). -/
def fnFclass (x : VIn) : VOut :=
  let f := fmtOf x.ty
  let neg := x.a.testBit f.signBit
  let k := match f.val x.a with
    | .nan true => 8
    | .nan false => 9
    | .inf _ => if neg then 0 else 7
    | .fin _ num _ =>
      if num == 0 then (if neg then 3 else 4)
      else if f.subnormal x.a then (if neg then 2 else 5)
      else if neg then 1 else 6
  { val := 2 ^ k }

/-- One element rounded to an integer in its own format (R380). -/
def fpIntegral (f : Fmt) (c : FpCtl) (inexact : Bool) (b : Nat) : Flagged Nat :=
  let (x, fl) := srcFp f c b
  match x with
  | .nan _ => (f.nan, fl)
  | .inf neg => (f.inf neg, fl)
  | .fin neg num den =>
    let m := roundNat c.mode neg num den
    ((roundEx f ctlRn (.fin neg m 1)).1, fl ||| flagIf (inexact && m * den != num) flagNX)

def roundRow (inexact : Bool) (x : VIn) : VOut :=
  let w := elemBits x.ty
  joinFlagged w ((List.range (elemCount x.ty)).map (fun i => fpIntegral (fmtOf x.ty) x.ctl inexact (elem w x.a i)))

def fnFrnd : VIn → VOut := roundRow false
def fnFrndX : VIn → VOut := roundRow true

/-- A source value rounded to a format (R137). -/
def fpToFp (src dst : Fmt) (c : FpCtl) (b : Nat) : Flagged Nat :=
  let (x, fl) := srcFp src c b
  let (r, fr) := roundEx dst c x
  (r, fl ||| fr)

/-- A source value rounded to a w-bit integer (R137). -/
def fpToInt (src : Fmt) (c : FpCtl) (sg : Bool) (w : Nat) (b : Nat) : Flagged Nat :=
  let (x, fl) := srcFp src c b
  let lo : Int := if sg then -(2 ^ (w - 1) : Nat) else 0
  let hi : Int := if sg then (2 ^ (w - 1) : Nat) - 1 else (2 ^ w : Nat) - 1
  let (r, fr) := toInt c.mode lo hi x
  (wrapInt w r, fl ||| fr)

/-- FCVT (R378). -/
def fnFcvt (x : VIn) : VOut :=
  let c := x.ctl
  let one (r : Flagged Nat) : VOut := { val := r.1, flags := r.2 }
  let each (w sw : Nat) (n src : Nat) (f : Nat → Flagged Nat) : VOut :=
    joinFlagged w ((List.range n).map (fun i => f (elem sw src i)))
  match x.sub with
  | 0 => one (fpToFp fp64 fp32 c x.a)
  | 1 => one (fpToFp fp32 fp64 c x.a)
  | 2 => joinFlagged 16 [fpToFp fp32 fp16 c x.a, fpToFp fp32 fp16 c x.b]
  | 3 => joinFlagged 16 [fpToFp fp32 bf16 c x.a, fpToFp fp32 bf16 c x.b]
  | 4 => each 32 16 2 x.a (fpToFp fp16 fp32 c)
  | 5 => each 32 16 2 x.a (fpToFp bf16 fp32 c)
  | 6 => each 8 32 4 x.a (fpToFp fp32 f8a c)
  | 7 => each 8 32 4 x.a (fpToFp fp32 f8b c)
  | 8 => each 32 8 4 x.a (fpToFp f8a fp32 c)
  | 9 => each 32 8 4 x.a (fpToFp f8b fp32 c)
  | 10 => let (v, fl) := srcFp fp32 c x.a; let (r, fr) := toL6 v; { val := r, flags := fl ||| fr }
  | 11 => { val := (roundEx fp32 ctlRn (l6Val x.a)).1 }
  | 12 => one (fpToInt fp32 c true 32 x.a)
  | 13 => one (fpToInt fp32 c false 32 x.a)
  | 14 => one (fpToInt fp64 c true 64 x.a)
  | _ => one (fpToInt fp64 c false 64 x.a)

/-- ICVT (R387). -/
def fnIcvt (x : VIn) : VOut :=
  let sg := tySigned x.ty
  let v := readInt sg (elemBits x.ty) x.a
  let toF (f : Fmt) : VOut := let (b, fl) := roundEx f x.ctl (.int v); { val := b, flags := fl }
  match x.sub with
  | 0 | 1 | 4 | 5 => toF fp32
  | 2 | 3 | 6 | 7 => toF fp64
  | 8 | 9 => { val := wrapInt 64 v }
  | _ => { val := wrapInt 32 (if x.ctl.sat then clampInt sg 32 v else v) }

/-- DSUBS (R372, R140). -/
def fnDsubs (x : VIn) : VOut :=
  let (p, fp) := srcFp fp64 x.ctl x.a
  let (q, fq) := srcFp fp64 x.ctl x.b
  let fl := fp ||| fq
  if p.isNan || q.isNan then { val := fp32.nan, flags := fl } else
  let r := p.add x.ctl.mode q.negate
  if r.isNan then { val := fp32.nan, flags := fl ||| flagIV }
  else let (b, fr) := roundEx fp32 x.ctl r; { val := b, flags := fl ||| fr }

def bodyFadd (_ : VOp) : BodyFn := vecBody fnFadd
def bodyFsub (_ : VOp) : BodyFn := vecBody fnFsub
def bodyFmul (_ : VOp) : BodyFn := vecBody fnFmul
def bodyFfma (_ : VOp) : BodyFn := vecBody fnFfma
def bodyFmin (_ : VOp) : BodyFn := vecBody fnFmin
def bodyFmax (_ : VOp) : BodyFn := vecBody fnFmax
def bodyFminn (_ : VOp) : BodyFn := vecBody fnFminn
def bodyFmaxn (_ : VOp) : BodyFn := vecBody fnFmaxn
def bodyFcmp (_ : VOp) : BodyFn := vecBody fnFcmp
def bodyFclass (_ : VOp) : BodyFn := vecBody fnFclass
def bodyFrnd (_ : VOp) : BodyFn := vecBody fnFrnd
def bodyFrndX (_ : VOp) : BodyFn := vecBody fnFrndX
def bodyFcvt (_ : VOp) : BodyFn := vecBody fnFcvt
def bodyIcvt (_ : VOp) : BodyFn := vecBody fnIcvt
def bodyDsubs (_ : VOp) : BodyFn := vecBody fnDsubs

/-- FADD (R375). -/
def execFadd (o : VOp) (s : State) : Host.Outcome State Fault Refusal := .next (runWord (.fadd o) (bodyFadd o) s)

/-- FSUB (R375). -/
def execFsub (o : VOp) (s : State) : Host.Outcome State Fault Refusal := .next (runWord (.fsub o) (bodyFsub o) s)

/-- FMUL (R375). -/
def execFmul (o : VOp) (s : State) : Host.Outcome State Fault Refusal := .next (runWord (.fmul o) (bodyFmul o) s)

/-- FFMA (R375). -/
def execFfma (o : VOp) (s : State) : Host.Outcome State Fault Refusal := .next (runWord (.ffma o) (bodyFfma o) s)

/-- FMIN (R375). -/
def execFmin (o : VOp) (s : State) : Host.Outcome State Fault Refusal := .next (runWord (.fmin o) (bodyFmin o) s)

/-- FMAX (R375). -/
def execFmax (o : VOp) (s : State) : Host.Outcome State Fault Refusal := .next (runWord (.fmax o) (bodyFmax o) s)

/-- FMINN (R375). -/
def execFminn (o : VOp) (s : State) : Host.Outcome State Fault Refusal := .next (runWord (.fminn o) (bodyFminn o) s)

/-- FMAXN (R375). -/
def execFmaxn (o : VOp) (s : State) : Host.Outcome State Fault Refusal := .next (runWord (.fmaxn o) (bodyFmaxn o) s)

/-- FCMP (R377). -/
def execFcmp (o : VOp) (s : State) : Host.Outcome State Fault Refusal := .next (runWord (.fcmp o) (bodyFcmp o) s)

/-- FCLASS (R376). -/
def execFclass (o : VOp) (s : State) : Host.Outcome State Fault Refusal := .next (runWord (.fclass o) (bodyFclass o) s)

/-- FRND (R380). -/
def execFrnd (o : VOp) (s : State) : Host.Outcome State Fault Refusal := .next (runWord (.frnd o) (bodyFrnd o) s)

/-- FRND_X (R380). -/
def execFrndX (o : VOp) (s : State) : Host.Outcome State Fault Refusal := .next (runWord (.frndX o) (bodyFrndX o) s)

/-- FCVT (R378). -/
def execFcvt (o : VOp) (s : State) : Host.Outcome State Fault Refusal := .next (runWord (.fcvt o) (bodyFcvt o) s)

/-- ICVT (R387). -/
def execIcvt (o : VOp) (s : State) : Host.Outcome State Fault Refusal := .next (runWord (.icvt o) (bodyIcvt o) s)

/-- DSUBS (R372). -/
def execDsubs (o : VOp) (s : State) : Host.Outcome State Fault Refusal := .next (runWord (.dsubs o) (bodyDsubs o) s)

end Sys2Proof.Machine
end

