-- ==== Sys2Proof/Machine/Elem.lean ====
section
/-! DEFINITION. Elements of tiles and arrays by format code, the conversions of the half-chains and drains, and compressed chunks
(R128, R137, R190, R207 to R215). -/

namespace Sys2Proof.Machine

/-- Bits of an element format (R190). -/
def fmtBits (f : Nat) : Nat :=
  match f with
  | 4 => 6
  | 5 | 6 | 8 | 9 => 16
  | 7 | 10 | 11 => 32
  | 12 => 64
  | 13 => 512
  | _ => 8

/-- Bytes of n elements, packed (R190, R198). -/
def fmtBytes (f n : Nat) : Nat := (fmtBits f * n + 7) / 8

/-- Signedness and width of an integer format. -/
def fmtInt (f : Nat) : Option (Bool × Nat) :=
  match f with
  | 0 => some (false, 8)
  | 1 => some (true, 8)
  | 8 => some (true, 16)
  | 9 => some (false, 16)
  | 10 => some (true, 32)
  | 11 => some (false, 32)
  | _ => none

/-- The floating-point layout of a format code. -/
def fmtFp (f : Nat) : Option Fmt :=
  match f with
  | 2 => some f8a
  | 3 => some f8b
  | 5 => some fp16
  | 6 => some bf16
  | 7 => some fp32
  | 12 => some fp64
  | _ => none

/-- `Val` of an element. -/
def fmtVal (f b : Nat) : Ex :=
  match fmtInt f, fmtFp f with
  | some (sg, w), _ => .int (readInt sg w b)
  | none, some x => x.val b
  | none, none => l6Val b

/-- Conversion of a value to a format with the SAT fates and no flags (R137). -/
def fmtRound (f : Nat) (x : Ex) : Nat :=
  match fmtInt f, fmtFp f with
  | some (sg, w), _ =>
    let lo : Int := if sg then -(2 ^ (w - 1) : Nat) else 0
    let hi : Int := if sg then (2 ^ (w - 1) : Nat) - 1 else (2 ^ w : Nat) - 1
    wrapInt w (toInt .rne lo hi x).1
  | none, some y => (roundEx y ctlSat x).1
  | none, none => (toL6 x).1

/-- Exact product with a scale (R128). -/
def Ex.scaled (x : Ex) (q : Nat) : Ex := let (n, d) := scaleByte q; x.mul (.fin false n d)

/-! ## Blocks (R207, R209, R210) -/

/-- Element format of a block code; none when unassigned. -/
def blockFmt (c : Nat) : Option Nat :=
  match c with
  | 1 => some 1
  | 2 => some 0
  | 3 => some 2
  | 4 => some 3
  | 5 => some 4
  | 6 => some 5
  | 7 => some 6
  | 8 => some 7
  | 9 => some 8
  | _ => none

/-- Payload count of a block of elements of a format. -/
def blockCount (f : Nat) : Nat :=
  match f with
  | 4 => 82
  | 5 | 6 | 8 => 31
  | 7 => 15
  | _ => 62

/-- First payload bit of a block. -/
def blockBase (f : Nat) : Nat := if f == 7 then 32 else 16

/-- The payload elements of a block read as a 512-bit value. -/
def blockElems (f b : Nat) : List Nat :=
  (List.range (blockCount f)).map (fun i => b / 2 ^ (blockBase f + fmtBits f * i) % 2 ^ fmtBits f)

/-- A block from its code, scale byte and elements. -/
def blockOf (code f q : Nat) (l : List Nat) : Nat :=
  code + 256 * (q % 256) + (joinElems (fmtBits f) l) * 2 ^ blockBase f

/-- Does the quotient x fit the format (R209)? -/
def quantFits (f : Nat) (x : Ex) : Bool :=
  match x with
  | .nan _ => true
  | _ =>
    match fmtInt f, fmtFp f with
    | some (sg, w), _ =>
      let lo : Int := if sg then -(2 ^ (w - 1) : Nat) else 0
      let hi : Int := if sg then (2 ^ (w - 1) : Nat) - 1 else (2 ^ w : Nat) - 1
      (toInt .rne lo hi x).2 &&& flagIV == 0
    | none, some y => !x.isInf && (roundEx y ctlRn x).2 &&& flagOF == 0
    | none, none => (toL6 x).2 &&& flagOF == 0

/-- v / L(q). -/
def Ex.unscaled (x : Ex) (q : Int) : Ex := let (n, d) := logL q; x.mul (.fin false d n)

/-- Smallest q from a list that every element fits; 127 when none does (R209). -/
def quantScale (f : Nat) (l : List Ex) : List Int → Int
  | [] => 127
  | q :: r => if l.all (fun v => quantFits f (v.unscaled q)) then q else quantScale f l r

/-- Quantise one group, already filled with zeros, into a block (R209). -/
def quantise (code f : Nat) (l : List Ex) : Nat :=
  let q := quantScale f l ((List.range 256).map (fun i => (i : Int) - 128))
  blockOf code f (wrapInt 8 q) (l.map (fun v => match v with
    | .nan _ => (match fmtInt f with | some _ => 0 | none => fmtRound f v)
    | _ => fmtRound f (v.unscaled q)))

/-! ## The reduce stage (R208, R420) -/

/-- Combine the value at the home with an element: 1 add, 2 minimum, 3 maximum. -/
def reduceElem (rd f old v : Nat) : Nat :=
  match fmtInt f, fmtFp f with
  | some (sg, w), _ =>
    let a := readInt sg w old
    let b := readInt sg w v
    wrapInt w (if rd == 1 then a + b else if rd == 2 then min a b else max a b)
  | none, some y =>
    if rd == 1 then (roundEx y ctlRn ((y.val old).add .rne (y.val v))).1 else (fpPick y ctlRn (rd == 3) true old v).1
  | none, none => v

/-! ## Compressed chunks (R211 to R215) -/

/-- Decode one sub-stream that must yield `want` bytes; `out` is what it has yielded, last byte first (R213, R214). -/
def expandStream (stride want : Nat) : Nat → List Byte → List Byte → Option (List Byte)
  | 0, _, _ => none
  | _ + 1, [], _ => none
  | fuel + 1, b :: rest, out =>
    let t := b.toNat
    let n := t % 64 + 1
    if t == 0xC0 then (if out.length == want then some out.reverse else none)
    else if 0xC0 < t then none
    else if t < 64 then
      if rest.length < n then none else expandStream stride want fuel (rest.drop n) ((rest.take n).reverse ++ out)
    else if t < 128 then expandStream stride want fuel rest (List.replicate n 0 ++ out)
    else if out.length < stride then none
    else expandStream stride want fuel rest ((List.range n).foldl (fun o _ => o.getD (stride - 1) 0 :: o) out)

/-- Expand a stored chunk of s units, below 64 (R212, R214). -/
def expandChunk (b : List Byte) : Option (List Byte) :=
  let h := leVal (b.take 8)
  let elen := bits h 12 0
  let nc := bits h 14 13
  let n := 2 ^ nc
  let sl := (List.range 7).map (fun i => bits h (6 * i + 20) (6 * i + 15))
  if bits h 63 57 != 0 || elen == 0 || 4096 < elen || (sl.drop (n - 1)).any (· != 0) then none
  else
    let start (i : Nat) : Nat := 8 + 64 * ((sl.take i).foldl (· + ·) 0)
    if b.length < start (n - 1) then none
    else
      let streams := (List.range n).map (fun k =>
        let stop := if k + 1 == n then b.length else start (k + 1)
        let bytes := (b.drop (start k)).take (stop - start k)
        expandStream (64 / n) ((elen + n - 1 - k) / n) (bytes.length + 1) bytes [])
      if streams.any (·.isNone) then none
      else
        some ((List.range 4096).map (fun o => ((streams.getD (o % n) none).getD []).getD (o / n) 0))

/-- Length of the zero run, or of the run equal to the bytes a stride earlier, at the head of a sequence (R215). -/
def runLen (l prev : List Byte) : Nat → Nat
  | 0 => 0
  | k + 1 => match l, prev with
    | x :: r, y :: q => if x == y then 1 + runLen r q k else 0
    | _, _ => 0

/-- z and m at a position of a sequence. -/
def zAt (l : List Byte) (p : Nat) : Nat := runLen (l.drop p) (List.replicate 64 0) 64
def mAt (stride : Nat) (l : List Byte) (p : Nat) : Nat := if p < stride then 0 else runLen (l.drop p) (l.drop (p - stride)) 64

/-- End of a literal that starts at p. -/
def litEnd (stride : Nat) (l : List Byte) (p : Nat) : Nat → Nat → Nat
  | 0, q => q
  | k + 1, q => if q < l.length && q - p < 64 && zAt l q < 2 && mAt stride l q < 2 then litEnd stride l p k (q + 1) else q

/-- The encoder of R215 from position p on. -/
def encodeStream (stride : Nat) (l : List Byte) : Nat → Nat → List Byte
  | 0, _ => [0xC0]
  | fuel + 1, p =>
    if l.length ≤ p then [0xC0]
    else
      let z := zAt l p
      let m := mAt stride l p
      if 2 ≤ z && m ≤ z then BitVec.ofNat 8 (0x40 + z - 1) :: encodeStream stride l fuel (p + z)
      else if 2 ≤ m then BitVec.ofNat 8 (0x80 + m - 1) :: encodeStream stride l fuel (p + m)
      else
        let q := litEnd stride l p 64 (p + 1)
        BitVec.ofNat 8 (q - p - 1) :: ((l.drop p).take (q - p) ++ encodeStream stride l fuel q)

/-- Encode a chunk with N = 2^cn sub-streams: its stored bytes, a whole number of units, raw when they would be 64 (R215). -/
def compressChunk (cn : Nat) (b : List Byte) : List Byte :=
  let n := 2 ^ cn
  let streams := (List.range n).map (fun k =>
    let l := (List.range (4096 / n)).map (fun i => b.getD (n * i + k) 0)
    encodeStream (64 / n) l 4097 0)
  let sl := (streams.take (n - 1)).map (fun x => (x.length + 63) / 64)
  let body := (streams.take (n - 1)).flatMap (fun x => x ++ List.replicate ((64 - x.length % 64) % 64) 0) ++ (streams.getLast?.getD [])
  let total : Nat := 8 + body.length
  if 63 * 64 < total then b
  else
    let h := 4096 + cn * 2 ^ 13 + (sl.zip (List.range 7)).foldl (fun a x => a + x.1 * 2 ^ (6 * x.2 + 15)) 0
    let out := leBytes h 8 ++ body
    out ++ List.replicate ((64 - out.length % 64) % 64) 0

end Sys2Proof.Machine
end

