-- ==== Sys2Proof/Machine/Copy.lean ====
section
/-! DEFINITION. Copies: records and checks at issue, transfers of the channels, batches and waits (R192 to R217, R364 to R366, R371,
R443). -/

namespace Sys2Proof.Machine

/-! ## Engine access to global memory (R163, R206, R211, R304) -/

inductive EngRes where
  | ok (b : List Byte)
  | park (level va : Nat)
  | err (cause : Cause) (addr : Nat)

/-- A whole chunk of a compressed page as it expands (R211, R214). -/
def State.chunkRead (s : State) (pa : Nat) : EngRes :=
  let base := pa / 4096 * 4096
  let k := (s.store.mem.byte (s.dreg regCmapb + pa / 4096)).toNat
  if 64 ≤ k then .err .compLength base
  else if s.poisoned base (64 * (k + 1)) then .err .eccUncorr base
  else if k == 63 then .ok (s.store.mem.read base 4096)
  else match expandChunk (s.store.mem.read base (64 * (k + 1))) with
    | some b => .ok b
    | none => .err .compLength base

/-- Read bytes of one page for an engine. `kept` are chunks that the transfer has read before, by address over 4,096; a chunk that is read
now comes with the answer of `pageChunk` (R216). -/
def State.enginePage (s : State) (cluster asid level va n : Nat) (kept : List (Nat × List Byte) := []) : EngRes :=
  match s.xlat (.unit cluster) asid va level { write := false, bytes := n } with
  | .park l => .park l va
  | .trap _ => .err .copyError va
  | .ok pa leaf =>
    if bit leaf 59 then
      match kept.find? (·.1 == va / 4096), s.chunkRead pa with
      | some (_, b), _ => .ok ((b.drop (pa % 4096)).take n)
      | none, .ok b => .ok ((b.drop (pa % 4096)).take n)
      | none, r => r
    else if s.poisoned pa n then .err .eccUncorr pa
    else .ok (s.store.mem.read pa n)

/-- The chunk at an address on a compressed page, as it stands. -/
def State.pageChunk (s : State) (cluster asid level va : Nat) : Option (List Byte) :=
  match s.xlat (.unit cluster) asid va level { write := false, bytes := 1 } with
  | .ok pa leaf => if bit leaf 59 then (match s.chunkRead pa with | .ok b => some b | _ => none) else none
  | _ => none

/-- Read n bytes, at most a page, for an engine. -/
def State.engineRead (s : State) (cluster asid level va n : Nat) (kept : List (Nat × List Byte) := []) : EngRes :=
  let first := min n (4096 - va % 4096)
  match s.enginePage cluster asid level va first kept with
  | .ok b =>
    if first == n then .ok b
    else match s.enginePage cluster asid level (va + first) (n - first) kept with
      | .ok c => .ok (b ++ c)
      | r => r
  | r => r

/-- An engine's read of n bytes as the watchpoints see it (R308). -/
def State.engineSeen (s : State) (ag : Agent) (cluster asid level va n : Nat) : State :=
  let s := s.walkSeen (.unit cluster) asid va
  match s.xlat (.unit cluster) asid va level { write := false, bytes := n } with
  | .ok pa _ => (s.watch ag none pa n true false (fun _ => true)).2
  | _ => s

/-- The trap value an engine error leaves in a batch: cause, and the address as logged. -/
def engineError (cause : Cause) (addr : Nat) : TrapInfo := { trapOf cause 0 with vaddr := BitVec.ofNat 64 addr }

/-- Bytes of a dense end, up to the first poisoned unit. -/
def State.denseRead (s : State) (p : Place) (n : Nat) : List Byte × Option TrapInfo :=
  let go (bad : Nat → Bool) (rd : Nat → Byte) (a : Nat) : List Byte × Option TrapInfo :=
    let k := ((List.range n).find? (fun i => bad (a + i))).getD n
    ((List.range k).map (fun i => rd (a + i)), if k == n then none else some (engineError .eccUncorr (a + k)))
  match p with
  | .scratch core a => go (fun x => s.scratchPoisoned core x 1) (s.scratchByte core) a
  | .awning a => go (fun x => s.awningPoisoned x 1) s.store.awning.byte a
  | .global _ => ([], none)

/-! ## Records (R192, R194 to R196) -/

/-- A copy record. -/
structure CopyRec where
  shape : Nat
  lk : Nat
  ring : Nat
  slot : Nat
  mcm : Nat
  cr : Nat
  off : Nat
  sk : Nat
  sh : Nat
  dq : Nat
  tr : Bool
  rd : Nat
  qc : Nat
  cn : Nat
  bv : Bool
  bob : Nat
  ch : Nat
  str : Bool
  side : Nat
  org : List Int
  ext : List Nat
  /-- Bits reserved in every record are zero. -/
  clean : Bool

def State.copyRec (s : State) (core a : Nat) : CopyRec :=
  let w (i : Nat) : Nat := s.scratchVal core (a + 8 * i) 8
  let loc := w 1
  let o := w 2
  let lk := bits loc 63 61
  { shape := w 0, lk := lk, ring := bits loc 39 32, slot := bits loc 31 26, mcm := bits loc 25 22, cr := bits loc 21 20
    off := if lk == 2 then bits loc 25 0 else bits loc 19 0
    sk := bits o 59 58, sh := bits o 57 46, dq := bits o 45 44, tr := bit o 43, rd := bits o 42 40, qc := bits o 39 36, cn := bits o 35 34
    bv := bit o 33, bob := bits o 32 18, ch := bits o 17 15, str := bit o 14, side := bits (w 3) 19 0
    org := (List.range 10).map (fun d => sext 32 (s.scratchVal core (a + 0x20 + 4 * d) 4))
    ext := (List.range 10).map (fun d => s.scratchVal core (a + 0x48 + 2 * d) 2)
    clean := bits loc 60 40 == 0 && bits o 63 60 == 0 && bits o 13 0 == 0 && bits (w 3) 63 20 == 0 &&
      s.scratchVal core (a + 0x5C) 4 == 0 }

/-- A shape record from its 128 bytes; none when it violates R192. -/
def shapeOf (b : List Byte) : Option Shape :=
  let v (o n : Nat) : Nat := leVal ((b.drop o).take n)
  let ctl := v 8 8
  let sizes := (List.range 10).map (fun d => v (0x10 + 4 * d) 4)
  let strides := (List.range 10).map (fun d => v (0x38 + 6 * d) 6)
  let rank := bits ctl 7 4
  let x : Shape := { base := v 0 8, fmt := bits ctl 3 0, strict := bit ctl 8, permit := bit ctl 9, rank := rank, sizes := sizes, strides := strides }
  let above := ((sizes.zip strides).drop rank).all (fun (a, b) => a == 1 && b == 0)
  if v 0 8 % 16 != 0 || 2 ^ 57 ≤ v 0 8 || 2 ^ 10 ≤ ctl || rank == 0 || 10 < rank || 13 < x.fmt || sizes.any (· == 0) ||
     strides.headD 0 != 0 || strides.any (fun t => t % 16 != 0) || !above || v 0x74 12 != 0 then none
  else some x

/-- Format and channel fields of a handle's table entry as they stand (R188). -/
def State.tileFmt (s : State) (core handle : Nat) : Nat := bits (s.dreg (regTile (clusterOf core) handle)) 58 55
def State.tileChn (s : State) (core handle : Nat) : Nat := bits (s.dreg (regTile (clusterOf core) handle)) 54 52
def State.tileSize (s : State) (core handle : Nat) : Nat := (bits (s.dreg (regTile (clusterOf core) handle)) 15 0 + 1) * 16

/-- A CPYS from a ring slot into a tile (R443). -/
def CopyRec.ringToTile (c : CopyRec) (store : Bool) : Bool := store && c.lk == 2 && c.shape == 0

/-- Element format of the dense end: the tile's, else the shape's. -/
def State.copyFmt (s : State) (core : Nat) (c : CopyRec) (sh : Option Shape) (store : Bool) : Nat :=
  if c.lk == 0 || c.lk == 3 then s.tileFmt core (c.off % 4096)
  else if c.sk == 1 || c.ringToTile store then s.tileFmt core c.sh
  else match sh with | some x => x.fmt | none => 0

/-- The field checks of R197 and R207. -/
def State.copyBad (s : State) (core : Nat) (c : CopyRec) (sh : Option Shape) (store : Bool) : Bool :=
  let half := c.dq != 0 || c.tr || c.rd != 0 || c.qc != 0 || c.cn != 0
  let r2t := c.ringToTile store
  let unused := match c.lk with
    | 0 => c.ring != 0 || c.slot != 0 || c.mcm != 0 || c.cr != 0 || 4096 ≤ c.off
    | 1 => c.ring != 0 || c.slot != 0 || c.mcm != 0 || c.off % 16 != 0
    | 2 => c.off % 16 != 0
    | 3 => c.ring != 0 || c.slot != 0 || c.cr != 0 || 4096 ≤ c.off
    | _ => true
  let needs := if store then !r2t else c.sk == 0
  let tile := c.lk == 0 || c.lk == 3
  let tf := s.tileFmt core (c.off % 4096)
  !c.clean || unused || 2 ≤ c.sk || c.dq == 3 || 4 ≤ c.rd || 9 < c.qc || c.ext.any (· == 0) ||
  (c.sh != 0 && !(c.sk == 1 || r2t)) || (c.side != 0 && c.dq != 2) || (c.bob != 0 && !c.bv) ||
  (needs != (c.shape != 0)) ||
  (store && (c.dq != 0 || c.tr || c.sk != 0 || c.lk == 3 || c.str)) ||
  (!store && (c.rd != 0 || c.qc != 0 || c.cn != 0)) ||
  (c.shape == 0 && half) ||
  (c.str && (c.lk != 0 || c.ch != s.tileChn core (c.off % 4096))) ||
  (c.shape != 0 && (match sh with
    | none => true
    | some x =>
      ((c.dq != 0 || c.qc != 0) && (x.fmt != 13 || !tile)) ||
      (c.dq == 0 && c.qc == 0 && tile && x.fmt != tf) ||
      (c.dq == 1 && !(tf == 7 || tf == 5 || tf == 6)) ||
      (c.tr && (x.fmt == 4 || x.fmt == 13)) ||
      (x.fmt == 4 && (c.org.headD 0) % 4 != 0) ||
      (c.rd != 0 && !([7, 5, 6, 10, 11].contains x.fmt))))

/-- The lowest dimension in which a STRICT copy leaves the array, with bit 4 set when it is beyond SIZE (R193). -/
def strictBad (x : Shape) (c : CopyRec) : Option Nat :=
  if !x.strict || x.permit then none
  else (List.range 10).findSome? (fun d =>
    let o := c.org.getD d 0
    if o < 0 then some d
    else if (x.sizes.getD d 1 : Int) < o + c.ext.getD d 1 then some (d + 16)
    else none)

/-- Number of elements of a region. -/
def regionCount (ext : List Nat) : Nat := ext.foldl (· * ·) 1

/-- Bytes of the dense end, where issue can know them (R197, R207, R209). -/
def denseBytes (c : CopyRec) (fmt : Nat) : Option Nat :=
  let n := regionCount c.ext
  if c.dq == 1 then none
  else if c.dq == 2 then some (fmtBytes fmt (n * blockCount fmt))
  else if c.qc != 0 then some (fmtBytes fmt ((n - 1) * blockCount ((blockFmt c.qc).getD 0)) + 1)
  else some (fmtBytes fmt n)

/-! ## Issue (R364, R365) -/

/-- What the checks of a copy come to. -/
inductive PlanRes where
  /-- Queued; watchpoints that the thread's own reads fired. -/
  | ok (s : State) (fired : List Nat)
  /-- A home or peer member has not started: the word waits. -/
  | wait
  | park (level va : Nat)
  | bad (t : TrapInfo)

/-- A tile end and its resolved version. -/
abbrev TileEnd := Tile × Nat

/-- The tile end that names a handle. -/
def State.tileEnd (s : State) (g : Workgroup) (handle : Nat) (write : Bool) : Except PlanRes TileEnd :=
  match s.tile g handle with
  | .ok t => .ok (t, s.version g t write)
  | .pending _ => .error .wait
  | .bad r => .error (.bad (protOf r))

/-- MMX_OWNER of a tile end at issue (R183, DEDUCED, log 25). -/
def ownerTrap (t : Tile) (own : Owner) (write : Bool) : TrapInfo :=
  trapOf .mmxOwner (t.handle + (match own with | .thread => 0 | .engine => 1 | .stream => 2) * 2 ^ 12 + b2n write * 2 ^ 14)

/-- A tile end by place. -/
def TileEnd.place (t : TileEnd) : Place := .scratch t.1.home.core (t.1.at_ t.2)

/-- Identity of a workgroup. -/
def Workgroup.target (g : Workgroup) : Target := { core := g.core, slot := g.slot, lid := g.lid, startedAt := g.startedAt }

/-- Batches of a thread that are unfinished, the open one counted once it holds a copy (R202). -/
def Thread.openBatches (t : Thread) : Nat := (t.batches.filter (fun b => b.number.isNone || !(b.released && b.landed))).length

/-- The thread's copy joins its open batch (R202). -/
def State.joinBatch (s : State) (n : ThreadName) (id : Nat) : State :=
  s.modThread n (fun t =>
    if t.batches.any (fun b => b.number.isNone) then
      { t with batches := t.batches.map (fun b => if b.number.isNone then { b with unread := b.unread ++ [id], unlanded := b.unlanded ++ [id] } else b) }
    else { t with batches := t.batches ++ [{ key := t.nextSeal, number := none, unread := [id], unlanded := [id], err := none, reported := false }] })

/-- The ends of a copy that passed the first checks: near place, its room, tile or peer reached, ring slot. -/
structure Ends where
  near : Place
  room : Nat
  tile : Option TileEnd
  peer : Option Workgroup
  ring : Option (Nat × Nat × Nat)
  far : Option TileEnd

/-- Checks 8 to 10 of R364: tile handles and peers, ring slot, owners. -/
def State.copyEnds (s : State) (t : Thread) (g : Workgroup) (l : Launch) (c : CopyRec) (store : Bool) (dense : Nat) : Except PlanRes Ends := do
  let tile ← if c.lk == 0 then (s.tileEnd g c.off (!store)).map some else .ok none
  let peer ← if c.lk != 1 then .ok none else match s.peerOf l g c.cr with
    | .unbound => .error (PlanRes.bad (protOf 8))
    | .gone => .error (PlanRes.bad (protOf 9))
    | .pending => .error PlanRes.wait
    | .run h => if h.size < c.off + dense then .error (PlanRes.bad (protOf 4)) else .ok (some h)
  let far ← if c.sk == 1 then (s.tileEnd g c.sh false).map some
    else if c.ringToTile store then (s.tileEnd g c.sh true).map some else .ok none
  let _ ← if c.lk != 3 then .ok () else
    match ((List.range 4).filter (bit c.mcm)).findSome? (fun r => match s.tileOn g (c.off % 4096) (some r) with
      | .bad 10 => some (protOf 10)
      | _ => none) with
    | some e => .error (PlanRes.bad e)
    | none => .ok ()
  let ring ← if c.lk != 2 then .ok none else match ringCheck s t c.ring with
    | .error e => .error (PlanRes.bad e)
    | .ok (g, ring) =>
      let held : Bool := match s.slot? c.ring c.slot with
        | none => false
        | some x =>
          let mine := x.owner == some (ringOwner g ring)
          if !store then x.st == .filling && mine && !x.publishing
          else (x.st == .draining && mine) ||
            (x.st == .held && x.lid == g.lid && (match x.hold with
              | some (first, count) => first * ring.lineBytes ≤ c.off && c.off + dense ≤ (first + count) * ring.lineBytes
              | none => false))
      match s.slot? c.ring c.slot with
      | some x => if held then .ok (some (c.ring, c.slot, x.seq)) else .error (PlanRes.bad (protOf 12))
      | none => .error (PlanRes.bad (protOf 12))
  let own (e : Option TileEnd) : Option Owner := e.map (fun e => s.owner e.1 e.2)
  let _ ← match tile with
    | some e =>
      if (c.str && own tile == some .engine) || (!c.str && own tile == some .stream) then
        .error (PlanRes.bad (ownerTrap e.1 (s.owner e.1 e.2) (!store)))
      else .ok ()
    | none => .ok ()
  let _ ← match far with
    | some e =>
      let o := s.owner e.1 e.2
      if (c.sk == 1 && o != .engine) || (c.sk != 1 && o == .stream) then .error (PlanRes.bad (ownerTrap e.1 o (c.sk != 1)))
      else .ok ()
    | none => .ok ()
  let rd := s.ring c.ring
  .ok
    { near := match tile, peer with
        | some e, _ => e.place
        | none, some h => .scratch h.core (h.base + c.off)
        | none, none => if c.lk == 2 then .awning (rd.base + c.slot * rd.slotBytes + c.off) else .scratch g.core 0
      room := if c.lk == 1 then dense else if c.lk == 2 then rd.slotBytes - c.off else s.tileSize g.core (c.off % 4096)
      tile := tile, peer := peer, ring := ring, far := far }

/-- Check a thread's copy in the order of R364 and, when every check passes, flip, join the batch and queue the transfer. -/
def State.copyIssue (s : State) (t : Thread) (off : Nat) (store : Bool) : PlanRes :=
  match s.groupOf t.name with
  | none => .bad (protOf 4)
  | some g =>
  match s.launch? g.lid with
  | none => .bad (protOf 4)
  | some l =>
    let core := t.name.core
    let at_ : Word64 := BitVec.ofNat 64 (off + g.role * 2 ^ 32)
    let illegal : PlanRes := .bad (trapOf .illegalField off)
    if off % 32 != 0 then .bad { trapOf .misalign off with vaddr := at_ }
    else if g.size < off + 96 then .bad { protOf 4 with vaddr := at_ }
    else if s.scratchPoisoned core (g.base + off) 96 then .bad { trapOf .eccUncorr 0 with vaddr := at_, paddr := g.base + off }
    else
      let c := s.copyRec core (g.base + off)
      let fetched : Except PlanRes (Option Shape × List Nat × State) :=
        if c.shape == 0 then .ok (none, [], s)
        else if c.shape % 128 != 0 || 2 ^ 57 ≤ c.shape then .error illegal
        else match s.xlat (.core core) l.asid c.shape t.level { write := false, thread := true, bytes := 128 } with
          | .park lv => .error (.park lv c.shape)
          | .trap e => .error (.bad e)
          | .ok pa _ =>
            if s.poisoned pa 128 then .error (.bad { trapOf .eccUncorr 0 with vaddr := BitVec.ofNat 64 c.shape, paddr := pa })
            else
              let (b, s1) := (s.walkSeen (.core core) l.asid c.shape).homeRead core pa 128
              let (fired, s2) := s1.watch (agentThread t.name) none pa 128 true false (fun _ => true)
              .ok (shapeOf b, fired, s2)
      match fetched with
      | .error r => r
      | .ok (shape, fired, s1) =>
        let fmt := s.copyFmt core c shape store
        let known := denseBytes c fmt
        let dense := known.getD 0
        let limits := (if c.lk == 0 || c.lk == 3 then [s.tileSize core (c.off % 4096)] else []) ++
          (if c.sk == 1 || c.ringToTile store then [s.tileSize core c.sh] else []) ++
          (if c.lk == 2 && !((s.ring c.ring).invalid l.asid) then [(s.ring c.ring).slotBytes - c.off] else [])
        let roles := (List.range 4).filter (fun r => c.lk == 3 && bit c.mcm r)
        if s.copyBad core c shape store then illegal
        else if c.lk == 2 && bits s.cap3 31 28 == 2 then .bad (trapOf .unitAbsent 0)
        else match shape.bind (fun x => strictBad x c) with
        | some d => .bad (trapOf .bounds d)
        | none =>
        if limits.any (· < dense) then .bad (trapOf .bounds 15)
        else match roles.find? (fun r => match s.peerOf l g r with | .unbound => true | _ => false) with
        | some r => .bad (trapOf .mcast r)
        | none =>
        match s.copyEnds t g l c store dense with
        | .error r => r
        | .ok e =>
          let id := s.engines.nextCopy
          let bob : Option Credit := if c.bv then some { core := core, addr := g.base + 32 * c.bob } else none
          let tile : List Credit := e.tile.toList.map (·.1.credit)
          let far : List Credit := e.far.toList.map (·.1.credit)
          let destWg : Option Workgroup := if store then e.far.map (·.1.home) else match e.tile with
            | some x => some x.1.home
            | none => e.peer
          let k : Copy :=
            { id := id, core := core, ch := c.ch, thread := t.name
              key := ((t.batches.find? (fun b => b.number.isNone)).map (·.key)).getD t.nextSeal
              lid := g.lid, asid := l.asid, level := t.level, store := store, shape := shape, org := c.org, ext := c.ext
              near := e.near, far := e.far.map (·.place), fmt := fmt, room := (e.room :: (e.far.toList.map (·.1.size))).foldl min e.room
              dq := c.dq, tr := c.tr, rd := c.rd, qc := c.qc, cn := c.cn, side := g.base + c.side, sideRoom := g.size - c.side
              creditRead := if store then tile ++ bob.toList else if c.sk == 1 then far else []
              creditLand := if store then far else tile ++ bob.toList
              bob := if store then none else bob
              stream := c.str, ring := e.ring, multi := c.lk == 3, mcast := roles, handle := c.off % 4096
              entry := s.tileEntry (clusterOf core) c.off, dest := destWg.map (·.target)
              before := (s.outOf t.name).map (·.id), started := false, vals := [], readDone := false, data := [], total := dense, landed := 0
              err := none, fid := none }
          let flips := e.tile.toList ++ (if c.sk == 1 then [] else e.far.toList)
          let s2 := flips.foldl (fun s x => if s.owner x.1 x.2 == .thread then s.flip x.1 x.2 (if c.str then .stream else .engine) else s) s1
          let s3 := (s2.watch agentCopy (some core) (g.base + off) 96 true false (fun _ => true)).2
          let s4 := (s3.release core 1).joinBatch t.name id
          .ok { s4 with engines := { s4.engines with copies := s4.engines.copies ++ [k], nextCopy := id + 1 } } fired

/-- Must a copy word wait in place: a member that has not started, a 65th batch, or a scratch access of the thread that is still to be performed
before a flip (R145, R184, R202)? -/
def copyNeed (o : AgOp) (store : Bool) : Ctx → State → Thread → Bool := fun c s t =>
  (s.outOf t.name).all (·.peer.isNone) &&
  (t.batches.any (fun b => b.number.isNone) || t.openBatches < 64) &&
  (match s.copyIssue t (srcReg c t o.a) store with | .wait => false | _ => true)

/-- A copy word (R364, R365). -/
def copyBody (o : AgOp) (store : Bool) : BodyFn := asBody (copyNeed o store) (fun c s t =>
  match s.copyIssue t (srcReg c t o.a) store with
  | .ok s1 fired => .ok s1 .next (watchCause fired)
  | .bad info => .trap s info
  | .park l va => .park (s.asidOf t.name) 0 l va
  | .wait => .ok s)

/-- CPY (R364). -/
def bodyCpy (o : AgOp) : BodyFn := copyBody o false

/-- CPYS (R364). -/
def bodyCpys (o : AgOp) : BodyFn := copyBody o true

/-- CSEAL (R366). -/
def bodyCseal (_ : AgOp) : BodyFn := asBody (fun _ _ t => t.openBatches < 64) (fun _ s t =>
  .ok (s.modThread t.name (fun t =>
    if t.batches.any (fun b => b.number.isNone) then
      ({ t with batches := t.batches.map (fun (b : Batch) => if b.number.isNone then { b with number := some (t.nextSeal % 2 ^ 16) } else b)
                nextSeal := t.nextSeal + 1 } : Thread).tidyBatches
    else t)))

/-- CWAIT (R371): BLOCKED until at most n of the sealed, unfinished batches remain so. -/
def cwaitBody (o : AgOp) (landed : Bool) : BodyFn := asBody syncNeed (fun _ s t =>
  let watch := (t.batches.filter (fun b => b.number.isSome && !(b.done landed))).map (·.key)
  let n := o.imm.toNat
  let s1 := s.closeRegion t.name
  if watch.length ≤ n then .ok (s1.acquire t.name.core o.scope.toNat)
  else .ok s1 (.wait (.batches landed n watch o.scope.toNat)))

/-- CWAIT.REL (R371). -/
def bodyCwaitRel (o : AgOp) : BodyFn := cwaitBody o false

/-- CWAIT.LND (R371). -/
def bodyCwaitLnd (o : AgOp) : BodyFn := cwaitBody o true

/-- CPY (R364). -/
def execCpy (o : AgOp) (s : State) : Host.Outcome State Fault Refusal := .next (runWord (.cpy o) (bodyCpy o) s)

/-- CPYS (R364). -/
def execCpys (o : AgOp) (s : State) : Host.Outcome State Fault Refusal := .next (runWord (.cpys o) (bodyCpys o) s)

/-- CSEAL (R366). -/
def execCseal (o : AgOp) (s : State) : Host.Outcome State Fault Refusal := .next (runWord (.cseal o) (bodyCseal o) s)

/-- CWAIT_REL (R371). -/
def execCwaitRel (o : AgOp) (s : State) : Host.Outcome State Fault Refusal := .next (runWord (.cwaitRel o) (bodyCwaitRel o) s)

/-- CWAIT_LND (R371). -/
def execCwaitLnd (o : AgOp) (s : State) : Host.Outcome State Fault Refusal := .next (runWord (.cwaitLnd o) (bodyCwaitLnd o) s)

/-! ## Reading (R193, R198, R206 to R209) -/

/-- Bit address of element r of a region, in region order (R192, R193). -/
def Region.elemAt (g : Region) (r : Nat) : Nat :=
  let x := g.shape
  let step (acc : Nat × Nat) (d : Nat) : Nat × Nat :=
    let e := g.ext.getD d 1
    let i := acc.1 % e
    let raw : Int := g.org.getD d 0 + (i : Int)
    let cd := (satN raw 0 ((x.sizes.getD d 1 : Int) - 1)).toNat
    (acc.1 / e, acc.2 + (if d == 0 then cd * fmtBits x.fmt else cd * x.strides.getD d 0 * 8))
  ((List.range 10).foldl step (r, x.base * 8)).2

/-- Bytes that hold element r. -/
def Region.elemBytes (g : Region) (r : Nat) : Nat × Nat :=
  let b := g.elemAt r
  (b / 8, (b % 8 + fmtBits g.shape.fmt + 7) / 8)

def Copy.elemAt (c : Copy) (x : Shape) (r : Nat) : Nat := ({ shape := x, org := c.org, ext := c.ext } : Region).elemAt r

def Copy.elemBytes (c : Copy) (x : Shape) (r : Nat) : Nat × Nat := ({ shape := x, org := c.org, ext := c.ext } : Region).elemBytes r

/-- Place of element r in the dense end (R198). -/
def Copy.position (c : Copy) (r : Nat) : Nat :=
  if !c.tr then r
  else
    let e0 := c.ext.getD 0 1
    let e1 := c.ext.getD 1 1
    (r / (e0 * e1) * e0 + r % e0) * e1 + r / e0 % e1

/-- Read elements of a region from r on, at most `fuel`: what was read, last first, and a fault or an error (R163). -/
def State.readElems (s : State) (cluster asid level : Nat) (g : Region) (kept : List (Nat × List Byte)) :
    Nat → Nat → List Nat → List Nat × Option (Except (Nat × Nat) TrapInfo)
  | 0, _, acc => (acc, none)
  | fuel + 1, r, acc =>
    let (va, n) := g.elemBytes r
    match s.engineRead cluster asid level va n kept with
    | .ok b => s.readElems cluster asid level g kept fuel (r + 1) (leVal b / 2 ^ (g.elemAt r % 8) % 2 ^ fmtBits g.shape.fmt :: acc)
    | .park l v => (acc, some (.error (l, v)))
    | .err cause a => (acc, some (.ok (engineError cause a)))

/-- The chunks of compressed pages that elements r to r + n - 1 of a region lie in, beside those already kept (R216). -/
def State.chunksOf (s : State) (cluster asid level : Nat) (g : Region) (r n : Nat) (kept : List (Nat × List Byte)) : List (Nat × List Byte) :=
  (List.range n).foldl (fun kept i =>
    let (va, m) := g.elemBytes (r + i)
    [va / 4096, (va + m - 1) / 4096].foldl (fun kept p =>
      if kept.any (·.1 == p) then kept
      else match s.pageChunk cluster asid level (4096 * p) with | some b => kept ++ [(p, b)] | none => kept) kept) kept

/-- Pack elements of a format into bytes (R190, R198). -/
def packElems (fmt : Nat) (l : List Nat) : List Byte := leBytes (joinElems (fmtBits fmt) l) (fmtBytes fmt l.length)

/-- Number bytes from an address. -/
def addressed (a : Nat) (l : List Byte) : List (Nat × Byte) := (List.range l.length).zip l |>.map (fun x => (a + x.1, x.2))

/-- Start address of a dense end. -/
def Place.addr : Place → Nat
  | .scratch _ a => a
  | .global a => a
  | .awning a => a

/-- One dequantised block: elements of the tile, or the error of R207. -/
def dequantBlock (c : Copy) (b : Nat) : Option (List Nat) :=
  match blockFmt (b % 256) with
  | none => none
  | some f =>
    if c.dq == 2 then (if f == c.fmt then some (blockElems f b) else none)
    else some ((blockElems f b).map (fun e => fmtRound c.fmt ((fmtVal f e).scaled (b / 256 % 256))))

/-- Dequantise blocks in region order: tile elements and scale bytes, and the index of a block that ends the transfer. `room` is what
the tile can hold, and a side vector ends with the issuer's allocation (R207; DEDUCED, log 26). -/
def dequantAll (c : Copy) : List Nat → Nat → List Nat → List Byte → List Nat × List Byte × Option Nat
  | [], _, es, qs => (es, qs, none)
  | b :: r, k, es, qs =>
    match dequantBlock c b with
    | none => (es, qs, some k)
    | some l =>
      if c.room < fmtBytes c.fmt (es.length + l.length) || (c.dq == 2 && c.sideRoom ≤ k) then (es, qs, some k)
      else dequantAll c r (k + 1) (es ++ l) (qs ++ [BitVec.ofNat 8 (b / 256)])

/-- What a `CPY` from global memory delivers, once its reading has ended (R206, R207). -/
def Copy.delivery (c : Copy) (x : Shape) : Copy :=
  let a := if c.multi then 0 else c.near.addr
  let n := regionCount c.ext
  if c.dq == 0 then
    let bytes (fmt : Nat) : List (Nat × Byte) :=
      if c.tr then
        let w := fmtBytes fmt 1
        let items := ((List.range c.vals.length).zip c.vals).flatMap (fun (r, v) => addressed (a + c.position r * w) (leBytes v w))
        sortBy (fun p q => p.1 < q.1) items
      else addressed a (packElems fmt c.vals)
    { c with data := bytes x.fmt, total := fmtBytes x.fmt n }
  else
    let (es, qs, stop) := dequantAll c c.vals 0 [] []
    let err := match stop, c.err with
      | some k, _ => some (engineError .copyError (c.elemAt x k / 8))
      | none, e => e
    let per := if c.dq == 2 || es.isEmpty then blockCount c.fmt else es.length / (max 1 qs.length)
    let short := n - (match stop with | some k => k | none => c.vals.length)
    let data := addressed a (packElems c.fmt es)
    let sides := if c.dq == 2 then addressed c.side qs else []
    { c with data := data, sides := sides, err := err
             total := data.length + sides.length + (if err.isSome then fmtBytes c.fmt (short * per) + (if c.dq == 2 then short else 0) else 0) }

/-- Cut elements into groups of n, the last filled with zeros (R209). -/
def groupsOf (n : Nat) : Nat → List Ex → List (List Ex)
  | 0, _ => []
  | fuel + 1, l => match l with
    | [] => []
    | _ => (l.take n ++ List.replicate (n - l.length) (.int 0)) :: groupsOf n fuel (l.drop n)

/-- The elements or blocks a `CPYS` writes, from its dense bytes (R208, R209). -/
def Copy.elements (c : Copy) (b : List Byte) : List Nat :=
  let n := b.length * 8 / fmtBits c.fmt
  let es := (List.range n).map (fun i => elem (fmtBits c.fmt) (leVal b) i)
  match blockFmt c.qc with
  | none => es
  | some f => (groupsOf (blockCount f) (n + 1) (es.map (fmtVal c.fmt))).map (quantise c.qc f)

/-- Error as barrier objects take it. -/
def Copy.barErr (c : Copy) : Option (Nat × Nat) := c.err.map (fun e => (e.cause.code, e.vaddr.toNat))

def State.putCopy (s : State) (c : Copy) : State :=
  { s with engines := { s.engines with copies := s.engines.copies.map (fun x => if x.id == c.id then c else x) } }

/-- The transfer has read all it will: its batch is released by it, and the objects of its sources are credited (R201, R203). -/
def State.readOver (s : State) (c : Copy) (bytes : Nat) : State :=
  let s1 := (s.putCopy { c with readDone := true, chunks := [] }).creditAll c.creditRead bytes c.barErr
  let s2 := match c.err with | some e => s1.transferError c.thread c.key e | none => s1
  s2.transferRead c.thread c.key c.id

/-- The read phase of a transfer. -/
def State.copyRead (s : State) (c : Copy) : State :=
  let src : Option Place := if c.store then some c.near else c.far
  match src with
  | some p =>
    let want := if c.qc != 0 then min c.room (fmtBytes c.fmt (regionCount c.ext * blockCount ((blockFmt c.qc).getD 0))) else c.total
    let (b, err) := s.denseRead p want
    let s1 := match p with
      | .scratch core a => (s.watch agentCopy (some core) a want true false (fun _ => true)).2
      | _ => s
    let c1 := { c with err := err, total := want }
    let dst := if c.store then c.far else some c.near
    let c2 := match dst with
      | some d => { c1 with data := addressed (if c.multi then 0 else d.addr) b }
      | none => { c1 with vals := c1.elements b }
    s1.readOver c2 want
  | none =>
    match c.shape with
    | none => s.readOver c 0
    | some x =>
      let n := regionCount c.ext - c.vals.length
      let g : Region := { shape := x, org := c.org, ext := c.ext }
      let p := clusterOf c.core
      let (new, r) := s.readElems p c.asid c.level g c.chunks n c.vals.length []
      let c1 := { c with vals := c.vals ++ new.reverse, chunks := s.chunksOf p c.asid c.level g c.vals.length new.length c.chunks }
      let s1 := (List.range new.length).foldl (fun s k =>
        let (va, m) := c.elemBytes x (c.vals.length + k)
        s.engineSeen agentCopy p c.asid c.level va m) s
      match r with
      | some (.error (l, va)) =>
        let (fid, s2) := s1.parkFault c.asid 4 l va
        s2.putCopy { c1 with fid := some fid, fva := va }
      | some (.ok e) => s1.readOver (({ c1 with err := some e } : Copy).delivery x) 0
      | none => s1.readOver (c1.delivery x) 0

/-! ## Landing (R199, R201, R205, R208, R217) -/

/-- A transfer leaves its channel. -/
def State.copyOver (s : State) (c : Copy) : State :=
  let s1 := { s with engines := { s.engines with copies := s.engines.copies.filter (·.id != c.id) } }
  let p := clusterOf c.core
  (s1.trail p (trailWord 5 p c.core c.thread.slot c.thread.wti 0) c.id).transferOver c.thread c.key c.id

/-- Raise the write pointer of a channel to the end of what lies in sequence in a buffer that ends at `top` (R205). -/
def State.raisePtr (s : State) (core ch lo hi top : Nat) : State :=
  { s with engines := { s.engines with ptrs := s.engines.ptrs.map (fun (x : ChanPtr) =>
      if x.core == core && x.ch == ch then
        let base := match s.group? core x.slot with | some g => g.base | none => 0
        if lo ≤ base + x.ptr && base + x.ptr < min hi top then { x with ptr := min hi top - base } else x
      else x) } }

/-- Is the workgroup that a transfer delivers into EXITING or gone (R21)? -/
def State.targetGone (s : State) (t : Target) : Bool :=
  match s.group? t.core t.slot with
  | some g => g.target != t || g.exiting
  | none => true

/-- What a transfer lands in a scratchpad or the Awning, by core (0 for the Awning) and address, in ascending order: its bytes, and the side bytes
in the issuer's scratchpad (R199, R207; DEDUCED, log 45). -/
def Copy.bytesTo (c : Copy) (to_ : Place) : List (Nat × Nat × Byte) :=
  let core := match to_ with | .scratch k _ => k | _ => 0
  let near := if c.multi then [] else c.data.map (fun x => (core, x.1, x.2))
  match c.sides with
  | [] => near
  | l => sortBy (fun a b => a.1 < b.1 || (a.1 == b.1 && a.2.1 < b.2.1)) (near ++ l.map (fun x => (c.core, x.1, x.2)))

/-- Land the next bytes of a transfer into a scratchpad or the Awning, at most a line. The side bytes of a multicast are landed before its
first delivery. -/
def State.landDense (s : State) (c : Copy) (to_ : Place) : State :=
  let rest := (c.bytesTo to_).drop c.landed
  let piece : List (Nat × Byte) := match rest with
    | (k, a, _) :: _ => ((rest.take (64 - a % 64)).filter (fun x => x.1 == k && x.2.1 / 64 == a / 64)).map (fun x => x.2)
    | [] => []
  match rest with
  | [] =>
    let short := c.total - c.landed
    let s1 := if c.err.isSome then s.creditAll c.creditLand short c.barErr else s
    s1.copyOver c
  | (k, a, _) :: _ =>
    let s1 := match to_ with
      | .awning _ => s.awningStore c.lid a (piece.map Prod.snd)
      | _ => s.landBytes c.lid k piece
    let s2 := match to_ with
      | .scratch core lo => if c.stream && k == core && lo ≤ a then s1.raisePtr core c.ch a (a + piece.length) (lo + c.room) else s1
      | _ => s1
    let s3 := (s2.putCopy { c with landed := c.landed + piece.length }).creditAll c.creditLand piece.length none
    if rest.length == piece.length && c.err.isNone && !c.multi then s3.copyOver c else s3

/-- Deliver a multicast to its next member (R217). -/
def State.landMember (s : State) (c : Copy) (role : Nat) (more : List Nat) : State :=
  let on (s : State) : State := if more.isEmpty then s.copyOver c else s.putCopy { c with mcast := more }
  let short := c.total - c.sides.length - c.data.length
  let drop (s : State) : State := s.deliveryDropped c.thread c.key c.bob
  match s.groupOf c.thread with
  | none => on (drop s)
  | some g =>
    let hold (s : State) : State :=
      let used := ((s.engines.heldDeliveries.filter (·.cluster == clusterOf c.core)).map (fun h => h.data.length)).foldl (· + ·) 0
      if 65536 < used + c.data.length then s
      else
        let h : HeldDelivery := { copy := c.id, cluster := clusterOf c.core, lid := g.lid, q := g.q, group := g.group, role := role
                                  handle := c.handle, entry := c.entry, data := c.data, rest := short, err := c.err, thread := c.thread, key := c.key, bob := c.bob }
        on { s with engines := { s.engines with heldDeliveries := s.engines.heldDeliveries ++ [h] } }
    match s.tileOf g c.handle c.entry.1 c.entry.2 (some role) with
    | .pending _ => hold s
    | .bad _ => on (drop s)
    | .ok t =>
      let v := s.version g t true
      match s.owner t v with
      | .thread => hold s
      | .stream => on (s.deliverBad c.entry t.home v (c.data.length + short) c.thread c.key c.bob)
      | .engine => on (s.deliver c.entry t.home v c.lid c.data short c.err c.bob)

/-- The chunk of a compressed page as a `CPYS` writes it: bits written and their values, an element that straddles a chunk boundary by its
part (R208). -/
def Copy.chunkOf (c : Copy) (x : Shape) (chunk : Nat) : Nat × Nat :=
  let start := chunk * 32768
  let (m, v) := ((List.range c.vals.length).zip c.vals).foldl (fun (acc : Nat × Nat) (r, v) =>
    let b := c.elemAt x r
    let w := fmtBits x.fmt
    if b < start + 32768 && start < b + w then
      let o := b + 512 - start
      (setBits acc.1 (o + w - 1) o (2 ^ w - 1), setBits acc.2 (o + w - 1) o v)
    else acc) (0, 0)
  (m / 2 ^ 512 % 2 ^ 32768, v / 2 ^ 512 % 2 ^ 32768)

/-- Home cluster of a physical address (R180; DESIGN CHOICE, log 7). -/
def homeCluster (pa : Nat) : Nat := sliceOf (pa / 16)

/-- Elements of a `CPYS` in ascending order of their addresses (R199). -/
def Copy.ascending (c : Copy) (x : Shape) : List Nat :=
  (sortBy (fun (a b : Nat × Nat) => a.1 < b.1) ((List.range c.vals.length).map (fun r => (c.elemAt x r, r)))).map (·.2)

/-- Can the memory at a physical address hold compressed chunks: any but that of an RDMA peer that did not negotiate chunk transfer, for which the
Ethernet port expands them (R216; DESIGN CHOICE, log 46)? -/
def State.holdsChunks (s : State) (pa : Nat) : Bool :=
  !(0x4000000000000 ≤ pa && pa < 0x8000000000000) || s.control.fw.peers.any (fun x => x.1 == pa / 2 ^ 40 % 1024 && x.2)

/-- Store a whole chunk of a `CPYS` in the compressed page of a physical address, and its byte of the chunk map (R208, R215, R216). -/
def State.storeChunk (s : State) (c : Copy) (pa val : Nat) : State :=
  let b := if s.holdsChunks pa then compressChunk c.cn (leBytes val 4096) else leBytes val 4096
  let base := pa / 4096 * 4096
  let s1 := (s.memWrite c.lid base b).memWrite c.lid (s.dreg regCmapb + pa / 4096) [BitVec.ofNat 8 (b.length / 64 - 1)]
  (s1.watch agentCopy none base b.length false true (fun _ => true)).2

/-- Outcome of writing one element. -/
inductive WriteRes where
  | ok (s : State)
  | park (level va : Nat)
  | err (t : TrapInfo)
  | wait

/-- Write the part of element r on one page, n bytes from address va: the element's bytes `b` from there. A chunk of a compressed page is written
with its first element; `prior` are the elements landed before (R193, R208). -/
def State.writePart (s : State) (c : Copy) (x : Shape) (prior : List Nat) (va n : Nat) (new : List Byte → List Byte) (pa leaf : Nat) : Except TrapInfo State :=
  if bit leaf 59 then
    let chunk := va / 4096
    let touches (j : Nat) : Bool := let (a, m) := c.elemBytes x j; a / 4096 ≤ chunk && chunk ≤ (a + m - 1) / 4096
    if prior.any touches then .ok s
    else
      let (mask, val) := c.chunkOf x chunk
      if c.rd != 0 || mask != 2 ^ 32768 - 1 then .error (engineError .copyError (chunk * 4096)) else .ok (s.storeChunk c pa val)
  else
    let s1 := s.memWrite c.lid pa (new (s.store.mem.read pa n))
    .ok (s1.watch agentCopy none pa n (c.rd != 0) true (fun _ => true)).2

/-- Write element r of a `CPYS` to its place, page by page (R193, R208). -/
def State.writeElem (s : State) (c : Copy) (x : Shape) (prior : List Nat) (r v : Nat) : WriteRes :=
  let (va, n) := c.elemBytes x r
  let k : AccKind := { write := true, bytes := n }
  let m : Mmu := .unit (clusterOf c.core)
  let last := va + n - 1
  match s.xlat m c.asid va c.level k, s.xlat m c.asid last c.level k with
  | .park l, _ => .park l va
  | .trap _, _ => .err (engineError .copyError va)
  | _, .park l => .park l last
  | _, .trap _ => .err (engineError .copyError last)
  | .ok pa leaf, .ok pz lz =>
    let first := min n (4096 - va % 4096)
    let sh := c.elemAt x r % 8
    let w := fmtBits x.fmt
    let merge (old : Nat) : Nat := if c.rd != 0 then reduceElem c.rd x.fmt old v else setBits old (sh + w - 1) sh v
    let head (old : List Byte) : List Byte := (leBytes (merge (leVal old)) n).take first
    let tail (old : List Byte) : List Byte := (leBytes (merge (leVal (List.replicate first 0 ++ old))) n).drop first
    let p := homeCluster pa
    let w0 := trailWord 2 (clusterOf c.core) c.core c.thread.slot c.thread.wti (2 * 2 ^ 32)
    let strip := (s.groupOf c.thread).elim false (·.cls == 0)
    if c.rd != 0 && !(s.trailOk p w0 strip (some (pa / 16 * 16))) then .wait
    else
      let s0 := s.walkSeen m c.asid va
      let s1 := if c.rd != 0 && !(bit leaf 59) then s0.trail p w0 (pa / 16 * 16) else s0
      match s1.writePart c x prior va first head pa leaf with
      | .error e => .err e
      | .ok s2 =>
        if first == n then .ok s2
        else match s2.writePart c x prior (va + first) (n - first) tail (pz + 1 - (n - first)) lz with
          | .error e => .err e
          | .ok s3 => .ok s3

/-- Write elements from the r-th in ascending order on, at most `fuel`; `prior` and `rest` are the elements before and from it on. -/
def State.writeElems (s : State) (c : Copy) (x : Shape) : Nat → List Nat → List Nat → State
  | 0, prior, _ => s.putCopy { c with landed := prior.length }
  | fuel + 1, prior, rest =>
    match rest with
    | [] =>
      let s1 := match c.err with
        | some e => (s.transferError c.thread c.key e).creditAll c.creditRead 0 c.barErr
        | none => s
      s1.copyOver c
    | r :: more =>
      match s.writeElem c x prior r (c.vals.getD r 0) with
      | .ok s1 => s1.writeElems c x fuel (prior ++ [r]) more
      | .wait => s.putCopy { c with landed := prior.length }
      | .park l va =>
        let (fid, s1) := s.parkFault c.asid 4 l va
        s1.putCopy { c with landed := prior.length, fid := some fid, fva := va }
      | .err e =>
        ((s.transferError c.thread c.key e).creditAll c.creditRead 0 (some (e.cause.code, e.vaddr.toNat))).copyOver c

/-- Next landing of a transfer that has been read. -/
def State.copyLand (s : State) (c : Copy) : State :=
  match c.dest with
  | some t => if s.targetGone t then (s.deliveryDropped c.thread c.key c.bob).copyOver c else go s
  | none => go s
where
  go (s : State) : State :=
    if c.multi && c.landed == c.sides.length then
      match c.mcast with
      | role :: more => s.landMember c role more
      | [] => s.copyOver c
    else if !c.store then s.landDense c c.near
    else match c.far, c.shape with
      | some f, _ => s.landDense c f
      | none, some x =>
        let l := c.ascending x
        s.writeElems c x (max 1 (512 / fmtBits x.fmt)) (l.take c.landed) (l.drop c.landed)
      | none, none => s.copyOver c

/-- The transfer whose turn it is on a channel: the one in progress, else the oldest; channel 7 starts STRIP copies first in strip mode
(R199, R251). -/
def State.channelNext (s : State) (core ch : Nat) : Option Copy :=
  let l := s.engines.copies.filter (fun c => c.core == core && c.ch == ch)
  let strip (c : Copy) : Bool := match s.groupOf c.thread with | some g => g.cls == 0 | none => false
  match l.find? (·.started) with
  | some c => some c
  | none => if ch == 7 && s.stripMode then (match l.find? strip with | some c => some c | none => l.head?) else l.head?

/-- COPY_LANDING (R199, R201): the transfer of a channel reads its sources, then lands its bytes. Under a cluster stop a
channel starts no transfer (R310). -/
def execCopyLanding (core ch : Nat) (s : State) : Host.Outcome State Fault Refusal :=
  .next (match s.channelNext core ch with
  | none => s
  | some c =>
    let p := clusterOf core
    let strip := (s.groupOf c.thread).elim false (·.cls == 0)
    if c.fid.isSome || !(s.trailOk p (trailWord 5 p core c.thread.slot c.thread.wti 0) strip) then s
    else if !c.started then
      if (s.stop? p).isSome || s.store.outst.any (fun o => c.before.contains o.id) then s
      else (s.cleanCore core).copyRead { c with started := true }
    else if !c.readDone then s.copyRead c
    else s.copyLand c)

end Sys2Proof.Machine
end

