-- ==== Sys2Proof/Machine/Matrix.lean ====
section
/-! DEFINITION. The matrix engine: pitches, quarters, units, passes, the row queue, drains, load-backs, clears and the freeze (R138, R218 to
R240, R381, R399, R401 to R403, R406, R337, R338). -/

namespace Sys2Proof.Machine

/-! ## Pitches (R220 to R224) -/

/-- The pitch that a workgroup holds. -/
def State.pitchOf (s : State) (g : Workgroup) : Option Pitch :=
  s.engines.pitches.find? (fun p => p.core == g.core && p.slot == g.slot)

def State.pitch? (s : State) (cluster n : Nat) : Option Pitch :=
  s.engines.pitches.find? (fun p => p.cluster == cluster && p.number == n)

def State.modPitch (s : State) (cluster n : Nat) (f : Pitch → Pitch) : State :=
  { s with engines := { s.engines with pitches := s.engines.pitches.map (fun p => if p.cluster == cluster && p.number == n then f p else p) } }

/-- Rows of a pitch. -/
def Pitch.rows (p : Pitch) : Nat := 32 * p.units32

/-- An error of a pitch's transfers: the first is pending, the others are counted in the launch's error log (R224). -/
def State.pitchError (s : State) (cluster n : Nat) (e : TrapInfo) : State :=
  match s.pitch? cluster n with
  | none => s
  | some p =>
    if p.err.isSome then s.logError p.lid e.cause.code e.vaddr.toNat
    else s.modPitch cluster n (fun p => { p with err := some e })

/-- A rectangle of the accumulator: rows lo to hi - 1, columns from c0 to c1 - 1. -/
structure Rect where
  lo : Nat
  hi : Nat
  c0 : Nat
  c1 : Nat
deriving DecidableEq, Repr

def Rect.meets (a b : Rect) : Bool := a.lo < b.hi && b.lo < a.hi && a.c0 < b.c1 && b.c0 < a.c1

/-- Columns of a half. -/
def halfRect (lo n : Nat) (h : Bool) : Rect := { lo := lo, hi := lo + n, c0 := 64 * b2n h, c1 := 64 * b2n h + 64 }

/-- Do rows in a pitch's queue, or owed to it, lie in a rectangle (R234, R243)? -/
def Pitch.queued (p : Pitch) (r : Rect) : Bool := (p.queue ++ p.owed).any (fun x => (halfRect x.1 1 x.2).meets r)

/-- Output range of an evaluation (R245). -/
def State.evalRect (s : State) (e : Eval) : Rect :=
  let base := match s.pitch? e.cluster e.pitch with | some p => p.base | none => 0
  { lo := base + e.cfg.gbase, hi := base + e.cfg.gbase + e.cfg.rows, c0 := 32 * e.cq, c1 := 32 * e.cq + 32 }

/-- Rows and columns of a queued operation. -/
def AccOp.rect (o : AccOp) : Rect :=
  match o.kind with
  | .clear true => { lo := o.row, hi := o.row + o.count, c0 := 0, c1 := 128 }
  | _ => halfRect o.row o.count o.half

/-- Is any matrix work of a pitch not complete (R223)? A unit whose quarters are all granted counts while its pack is still there. -/
def State.pitchBusy (s : State) (cluster n : Nat) : Bool :=
  s.engines.units.any (fun u => u.cluster == cluster && u.pitch == n &&
    (!u.left.isEmpty || (s.work.packs ++ s.work.resumes).any (fun p => p.threads.any u.threads.contains))) ||
  s.engines.passes.any (fun p => p.cluster == cluster && p.quarters.any (·.pitch == n)) ||
  s.engines.accOps.any (fun o => o.cluster == cluster && o.pitch == n) ||
  s.engines.evals.any (fun e => e.cluster == cluster && e.pitch == n)

/-- Free a pitch: its queue and owed pushes are discarded and an undelivered error is logged (R223). -/
def State.freePitch (s : State) (p : Pitch) : State :=
  let s1 := match p.err with | some e => s.logError p.lid e.cause.code e.vaddr.toNat | none => s
  { s1 with engines := { s1.engines with pitches := s1.engines.pitches.filter (fun x => !(x.cluster == p.cluster && x.number == p.number)) } }

/-- Are rows lo to lo + n - 1 of a cluster's accumulator free? -/
def State.rowsFree (s : State) (cluster lo n : Nat) : Bool :=
  lo + n ≤ 1024 && (s.engines.pitches.filter (·.cluster == cluster)).all (fun p => p.base + p.rows ≤ lo || lo + n ≤ p.base)

/-- A pitch number and first row for a request of nr units of 32 rows (R221, R222). -/
def State.allot (s : State) (cluster cls nr : Nat) : Option (Nat × Nat) :=
  let n := 32 * nr
  let strip := s.stripMode
  let free (k : Nat) : Bool := (s.pitch? cluster k).isNone
  if strip && cls == 0 && n ≤ 64 && free 15 && s.rowsFree cluster 960 n then some (15, 960)
  else
    let limited := strip && cls != 0
    let num := (List.range (if limited then 15 else 16)).find? free
    let row := ((List.range 32).map (32 * ·)).find? (fun r => s.rowsFree cluster r n && (!limited || r + n ≤ 960))
    match num, row with
    | some k, some r => some (k, r)
    | _, _ => none

/-- Set accumulator elements of a rectangle to zero. -/
def State.clearRect (s : State) (cluster : Nat) (r : Rect) : State :=
  let inside (k : Nat) : Bool :=
    k / 2 ^ 17 == cluster && r.lo ≤ k % 2 ^ 17 / 128 && k % 2 ^ 17 / 128 < r.hi && r.c0 ≤ k % 128 && k % 128 < r.c1
  { s with store := { s.store with acc := s.store.acc.filter (fun x => !(inside x.1)) } }

/-- One thread's request (R221): the answer and the state. -/
def State.acquire_ (s : State) (g : Workgroup) (req : Nat) : Bool × State :=
  let nr := bits req 5 0
  let cl := clusterOf g.core
  if nr == 0 || 32 < nr || req != nr + bits req 9 8 * 256 then (false, s)
  else match s.pitchOf g with
  | some p => (p.units32 == nr, s)
  | none =>
    match s.allot cl g.cls nr with
    | none => (false, s)
    | some (k, base) =>
      let p : Pitch := { cluster := cl, number := k, cls := g.cls, pri := bits req 9 8, units32 := nr, slot := g.slot, role := g.role, core := g.core
                         base := base, lid := g.lid, gram := none, err := none, queue := [], owed := [], releasing := false }
      let s1 := s.clearRect cl { lo := base, hi := base + 32 * nr, c0 := 0, c1 := 128 }
      (true, { s1 with engines := { s1.engines with pitches := s1.engines.pitches ++ [p] } })

/-! ## Matrix words (R381) -/

/-- A word on the pack's active threads, without further condition. -/
def forEach (f : Ctx → State → Thread → TRes) : BodyFn := eachThread noNeed f

/-- Every thread passes on. -/
def passOn : BodyFn := forEach (fun _ s _ => .ok s)

/-- Trail word of a matrix operation of an engine code. -/
def engineWord (core slot wti code : Nat) : Nat := trailWord 5 (clusterOf core) core slot wti (code * 2 ^ 30)

/-- MACQ (R399): one entry of the trail log for the word. -/
def bodyMacq (o : MxOp) : BodyFn := fun c s =>
  let act := c.actives s
  let w0 := engineWord c.pack.core c.pack.slot ((act.map (·.wti)).headD 0) 4
  let cl := clusterOf c.pack.core
  if !act.isEmpty && !(s.trailOk cl w0 (c.pack.cls == 0)) then .stall
  else
    let s0 := if act.isEmpty then s else s.trail cl w0 s.now
    forEach (fun c s t =>
      match s.groupOf t.name with
      | none => .ok s
      | some g =>
        let (ok, s1) := s.acquire_ g (srcReg c t o.a)
        .ok (s1.modThread t.name (·.setPred o.d.toNat ok))) c s0

/-- The checks that come before a matrix word's own, for an active thread (R381): NO_PITCH, and the pending error, which the first
thread takes. -/
def withPitch (own : Ctx → State → Thread → Workgroup → Pitch → TRes) : Ctx → State → Thread → TRes := fun c s t =>
  match s.groupOf t.name with
  | none => .trap s (trapOf .noPitch 0)
  | some g => match s.pitchOf g with
    | none => .trap s (trapOf .noPitch 0)
    | some p => match p.err with
      | some e => .trap (s.modPitch p.cluster p.number (fun p => { p with err := none })) e
      | none => own c s t g p

/-- MREL (R406, R223): the pending error first; then the first thread releases once the pitch's work has completed. -/
def bodyMrel (_ : MxOp) : BodyFn := fun c s =>
  let act := c.actives s
  match act.head?.bind s.groupOf with
  | none => passOn c s
  | some g => match s.pitchOf g with
    | none => passOn c s
    | some p => match p.err, act with
      | some e, n :: _ =>
        .more (c.trapAt (s.modPitch p.cluster p.number (fun p => { p with err := none })) n e)
      | _, _ =>
        if s.pitchBusy p.cluster p.number then
          .more ((s.modPitch p.cluster p.number (fun p => { p with releasing := true })).stallPack c.pack)
        else passOn c (s.freePitch p)

/-- BOUNDS of a row range (R225, R236). -/
def rowsTrap (row : Nat) : TrapInfo := trapOf .bounds (13 + row * 2 ^ 16)

/-- The checks of a tile that an engine uses (R227, R401): handle, owner, format, size; its address when they pass. -/
def engineTile (s : State) (g : Workgroup) (handle fmt need : Nat) (write : Bool) (fmtTrap : TrapInfo) : Except TrapInfo (Tile × Nat) :=
  match s.tile g handle with
  | .pending _ => .error (protOf 10)
  | .bad r => .error (protOf r)
  | .ok t =>
    let v := s.version g t write
    let own := s.owner t v
    if own != .engine then .error (ownerTrap t own write)
    else if t.fmt != fmt then .error fmtTrap
    else if t.size < need then .error (trapOf .bounds 15)
    else .ok (t, v)

/-- Must a word wait for the home member of a tile it names (R145, R189)? -/
def tilePending (s : State) (t : Thread) (handle : Nat) : Bool :=
  match s.groupOf t.name with
  | some g => (match s.tile g handle with | .pending _ => true | _ => false)
  | none => false

/-! ## Drains, load-backs and clears (R236 to R239) -/

/-- Bytes of a target element. -/
def targetBytes (t : Nat) : Nat := fmtBits t / 8

/-- The requantisation table (R238): PROT beyond the allocation, ILLEGAL_FIELD for a bad entry. -/
def requantTable (s : State) (g : Workgroup) (off : Nat) : Except TrapInfo (List Byte) :=
  let at_ : Word64 := BitVec.ofNat 64 (off + g.role * 2 ^ 32)
  if g.size < off + 512 then .error { protOf 4 with vaddr := at_ }
  else if s.scratchPoisoned g.core (g.base + off) 512 then .error { trapOf .eccUncorr 0 with vaddr := at_ }
  else
    let b := s.scratchRead g.core (g.base + off) 512
    let bad := (List.range 64).any (fun i =>
      let w := leVal ((b.drop (8 * i)).take 8)
      2 ^ 48 ≤ w || bits w 39 38 != 0 || 31 < bits w 37 32)
    if bad then .error (trapOf .illegalField off) else .ok b

/-- Put an accumulator operation in its place in grant order. -/
def State.putAccOp (s : State) (g : Workgroup) (p : Pitch) (kind : AccOpKind) (row count : Nat) (half : Bool) (core addr : Nat)
    (credit : Option Credit) : State :=
  let (k, s1) := s.nextOrder
  let o : AccOp := { cluster := p.cluster, pitch := p.number, order := k, lid := g.lid, kind := kind, row := p.base + row, count := count, half := half
                     core := core, addr := addr, credit := credit }
  { s1 with engines := { s1.engines with accOps := s1.engines.accOps ++ [o] } }

/-- MZERO (R402). -/
def bodyMzero (o : MxOp) : BodyFn := eachThread noNeed (withPitch (fun c s t g p =>
  let x := srcReg c t o.a
  let n := bits x 31 23 + 1
  if p.rows < bits x 21 12 + n then .trap s (rowsTrap (bits x 21 12))
  else .ok (s.putAccOp g p (.clear (o.sub6.getLsbD 0)) (bits x 21 12) n (bit x 22) 0 0 none)))

/-- MDRN (R401). -/
def bodyMdrn (o : MxOp) : BodyFn := eachThread (fun c s t => !(tilePending s t (bits (srcReg c t o.a) 11 0))) (withPitch (fun c s t g p =>
  let x := srcReg c t o.a
  let n := bits x 31 23 + 1
  let tgt := o.fb.toNat
  let h := bits x 11 0
  if p.rows < bits x 21 12 + n then .trap s (rowsTrap (bits x 21 12))
  else match engineTile s g h tgt (64 * targetBytes tgt * n) true (trapOf .illegalField h) with
  | .error e => .trap s e
  | .ok (tl, v) =>
    match (if tgt ≤ 1 then requantTable s g (32 * o.imm.toNat) else .ok []) with
    | .error e => .trap s e
    | .ok tab =>
      .ok (s.putAccOp g p (.drain o.mode.toNat tgt tab) (bits x 21 12) n (bit x 22) tl.home.core (tl.at_ v) (some tl.credit))))

/-- MLDA (R402). -/
def bodyMlda (o : MxOp) : BodyFn := eachThread (fun c s t => !(tilePending s t (bits (srcReg c t o.a) 11 0))) (withPitch (fun c s t g p =>
  let x := srcReg c t o.a
  let n := bits x 31 23 + 1
  let h := bits x 11 0
  if p.rows < bits x 21 12 + n then .trap s (rowsTrap (bits x 21 12))
  else match engineTile s g h o.fb.toNat (256 * n) false (trapOf .illegalField h) with
  | .error e => .trap s e
  | .ok (tl, v) => .ok (s.putAccOp g p .loadBack (bits x 21 12) n (bit x 22) tl.home.core (tl.at_ v) (some tl.credit))))

/-- Requantise one element (R238). -/
def requantise (acc : Nat) (w tgt : Nat) : Nat :=
  let v := sext 32 acc * sext 32 (w % 2 ^ 32)
  let d := 2 ^ (31 + bits w 37 32)
  let m := (2 * v.natAbs + d) / (2 * d)
  let n : Int := if v < 0 then -(m : Int) else m
  if tgt == 1 then wrapInt 8 (satN (n + sext 8 (bits w 47 40)) (-128) 127)
  else wrapInt 8 (satN (n + (bits w 47 40 : Nat)) 0 255)

/-- The element that a drain writes for an accumulator word (R237). -/
def drainElem (mode tgt : Nat) (tab : List Byte) (col acc : Nat) : Nat :=
  if tgt ≤ 1 then requantise acc (leVal ((tab.drop (8 * col)).take 8)) tgt
  else if mode == 0 then (if tgt == 7 then acc else fmtRound tgt (fp32.val acc))
  else if tgt == 10 then acc
  else fmtRound tgt (.int (sext 32 acc))

/-- May a queued operation run: nothing earlier holds its rows, and no queued row would be written (R234, R236, R245)? -/
def State.accReady (s : State) (o : AccOp) : Bool :=
  let r := o.rect
  let drain := match o.kind with | .drain .. => true | _ => false
  !(s.engines.accOps.any (fun x => x.cluster == o.cluster && x.order < o.order && x.rect.meets r)) &&
  !(s.engines.passes.any (fun p => p.cluster == o.cluster && p.quarters.any (fun q => (halfRect q.row 8 q.half).meets r))) &&
  !(s.engines.evals.any (fun e => e.cluster == o.cluster && e.order < o.order && (s.evalRect e).meets r)) &&
  (drain || !(match s.pitch? o.cluster o.pitch with | some p => p.queued r | none => false))

def State.dropAccOp (s : State) (o : AccOp) : State :=
  { s with engines := { s.engines with accOps := s.engines.accOps.filter (· != o) } }

/-- Run a queued operation. -/
def State.runAccOp (s : State) (o : AccOp) : State :=
  let c0 := 64 * b2n o.half
  let places := (List.range o.count).flatMap (fun i => (List.range 64).map (fun c => (o.row + i, c)))
  let s1 := s.dropAccOp o
  let w0 := engineWord o.core 0 0 7
  let s1 := s1.trail o.cluster w0 o.order
  match o.kind with
  | .clear _ => s1.clearRect o.cluster o.rect
  | .drain mode tgt tab =>
    let b := places.flatMap (fun (r, c) => leBytes (drainElem mode tgt tab c (s1.accGet o.cluster r (c0 + c)).toNat) (targetBytes tgt))
    let s2 := ((s1.scratchStore o.lid o.core o.addr b).watch agentMatrix (some o.core) o.addr b.length false true (fun _ => true)).2
    s2.creditAll o.credit.toList b.length none
  | .loadBack =>
    let n := 256 * o.count
    let bad := s1.scratchPoisoned o.core o.addr n
    let b := s1.scratchRead o.core o.addr n
    let s2 := (s1.watch agentMatrix (some o.core) o.addr n true false (fun _ => true)).2
    let s3 := if bad then s2.pitchError o.cluster o.pitch { trapOf .eccUncorr 0 with vaddr := BitVec.ofNat 64 o.addr }
      else ((List.range places.length).zip places).foldl (fun s (i, r, c) =>
        s.accPut o.cluster r (c0 + c) (BitVec.ofNat 32 (leVal ((b.drop (4 * i)).take 4)))) s2
    s3.creditAll o.credit.toList n none

/-- Run the oldest queued operation of a kind that may run. -/
def State.accEvent (s : State) (cluster : Nat) (kind : AccOpKind → Bool) : State :=
  match (s.engines.accOps.filter (fun o => o.cluster == cluster && kind o.kind)).find? s.accReady with
  | some o => if s.trailOk cluster (engineWord o.core 0 0 7) false then s.runAccOp o else s
  | none => s

/-- DRAIN_EXECUTION (R237). -/
def execDrainExecution (cluster : Nat) (s : State) : Host.Outcome State Fault Refusal :=
  .next (s.accEvent cluster (fun k => match k with | .drain .. => true | _ => false))

/-- LOAD_BACK_EXECUTION (R239). -/
def execLoadBackExecution (cluster : Nat) (s : State) : Host.Outcome State Fault Refusal :=
  .next (s.accEvent cluster (fun k => match k with | .loadBack => true | _ => false))

/-- ACCUMULATOR_CLEAR (R239). -/
def execAccumulatorClear (cluster : Nat) (s : State) : Host.Outcome State Fault Refusal :=
  .next (s.accEvent cluster (fun k => match k with | .clear _ => true | _ => false))

/-! ## Quarters and units (R225 to R230, R403) -/

/-- Number of a tile instance's version as an operand key (R229). -/
def Tile.keyOf (t : Tile) (v fb : Nat) : Nat :=
  fb + 16 * (v + 4 * (t.key + 2 ^ 18 * (t.handle + 2 ^ 12 * (t.group + 2 ^ 13 * (t.q + 2 ^ 6 * t.lid)))))

/-- Key of an operand named by its record. -/
def recordKey (core addr fb : Nat) : Nat := 2 ^ 100 + fb + 16 * (core * 2 ^ 20 + addr)

/-- What an operand's checks come to. -/
inductive OpRes where
  /-- The operand, its key, the state after the reads of its record, and the watchpoints they fired. -/
  | ok (o : Operand) (key : Nat) (s : State) (fired : List Nat)
  | bad (t : TrapInfo)
  | park (level va : Nat)

/-- An operand given by a copy record (R228). -/
def recordOperand (s : State) (t : Thread) (g : Workgroup) (off size fmt : Nat) : OpRes :=
  let asid := s.asidOf t.name
  let at_ : Word64 := BitVec.ofNat 64 (off + g.role * 2 ^ 32)
  if g.size < off + 96 then .bad { protOf 4 with vaddr := at_ }
  else if s.scratchPoisoned g.core (g.base + off) 96 then .bad { trapOf .eccUncorr 0 with vaddr := at_ }
  else
    let a := g.base + off
    let c := s.copyRec g.core a
    let words := (List.range 3).any (fun i => s.scratchVal g.core (a + 8 + 8 * i) 8 != 0)
    if c.shape == 0 || c.shape % 128 != 0 || 2 ^ 57 ≤ c.shape || words || !c.clean || c.ext.any (· == 0) then .bad (trapOf .illegalField off)
    else match s.xlat (.core g.core) asid c.shape t.level { write := false, thread := true, bytes := 128 } with
    | .park l => .park l c.shape
    | .trap e => .bad e
    | .ok pa _ =>
      if s.poisoned pa 128 then .bad { trapOf .eccUncorr 0 with vaddr := BitVec.ofNat 64 c.shape, paddr := pa }
      else
      let (b, s1) := ((s.watch agentMatrix (some g.core) a 96 true false (fun _ => true)).2.walkSeen (.core g.core) asid c.shape).homeRead g.core pa 128
      match shapeOf b with
      | none => .bad (trapOf .illegalField off)
      | some x =>
        if x.fmt != fmt || (fmt == 4 && (c.org.headD 0) % 4 != 0) then .bad (trapOf .illegalField off)
        else match strictBad x c with
        | some d => .bad (trapOf .bounds d)
        | none =>
          if fmtBytes fmt (regionCount c.ext) != size then .bad (trapOf .bounds 15)
          else
            let (fired, s2) := s1.watch (agentThread t.name) none pa 128 true false (fun _ => true)
            .ok { core := g.core, addr := a, size := size, region := some { shape := x, org := c.org, ext := c.ext }, asid := asid
                  level := t.level, credit := none, ready := false, data := [], err := none } (recordKey g.core a fmt) s2 fired

/-- An operand given by a tile handle (R227). -/
def tileOperand (s : State) (g : Workgroup) (handle from_ size fmt : Nat) : OpRes :=
  match engineTile s g handle fmt (from_ + size) false (trapOf .illegalField handle) with
  | .error e => .bad e
  | .ok (tl, v) =>
    .ok { core := tl.home.core, addr := tl.at_ v + from_, size := size, region := none, asid := 0, level := 0, credit := some tl.credit
          ready := false, data := [], err := none } (tl.keyOf v fmt) s []

/-- Outcome of one quarter leader's checks. -/
inductive LeadRes where
  | ok (q : Quarter) (b : Operand) (key : Nat) (s : State) (fired : List Nat)
  | bad (t : TrapInfo)
  | park (level va : Nat)

/-- The checks of a quarter leader in the order of R403. -/
def leadQuarter (c : Ctx) (s : State) (t : Thread) (g : Workgroup) (p : Pitch) (o : MxOp) : LeadRes :=
  let x := srcReg c t o.a
  let ga := o.sub6.getLsbD 0
  let gb := o.sub6.getLsbD 1
  let row := bits x 29 20
  if ga && bits x 19 16 != 0 then .bad (trapOf .illegalField 0)
  else if row % 8 != 0 || p.rows < row + 8 then .bad (rowsTrap row)
  else
    let a := if ga then recordOperand s t g (32 * bits x 15 0) 768 o.fa.toNat
      else tileOperand s g (bits x 11 0) (768 * bits x 19 12) 768 o.fa.toNat
    match a with
    | .bad e => .bad e
    | .park l va => .park l va
    | .ok a _ s1 fired =>
      let b := if gb then recordOperand s1 t g (32 * o.imm.toNat) 6144 o.fb.toNat
        else tileOperand s1 g (o.imm.toNat % 4096) 0 6144 o.fb.toNat
      match b with
      | .bad e => .bad e
      | .park l va => .park l va
      | .ok b key s2 more => .ok { leader := t.name.wti, row := p.base + row, half := bit x 30, a := a } b key s2 (fired ++ more)

/-- Unit of a pack that waits at an MMA. -/
def State.unitOf (s : State) (p : Pack) : Option MatUnit := s.engines.units.find? (fun u => u.threads.any p.threads.contains)

def State.dropUnit (s : State) (u : MatUnit) : State :=
  { s with engines := { s.engines with units := s.engines.units.filter (fun x => x.threads != u.threads) } }

def State.modUnit (s : State) (u : MatUnit) (f : MatUnit → MatUnit) : State :=
  { s with engines := { s.engines with units := s.engines.units.map (fun x => if x.threads == u.threads then f x else x) } }

/-- Is FRZ set on a cluster (R240)? -/
def State.frozen (s : State) (cluster : Nat) : Bool := bit (s.dreg (regFreeze cluster)) 0

/-- What the checks at an MMA have come to: the state, the quarters so far, the B they name, the reads that park. -/
structure MmaAcc where
  s : State
  qs : List Quarter := []
  b : Option (Operand × Nat) := none
  parks : List (ThreadName × Parked) := []

/-- One active thread of an MMA: R381, then a leader's own checks (R403). -/
def mmaThread (o : MxOp) (c : Ctx) (acc : MmaAcc) (n : ThreadName) : MmaAcc :=
  match acc.s.thread? n with
  | none => acc
  | some t => match withPitch (fun _ s _ _ _ => .ok s) c acc.s t with
    | .trap s1 e => { acc with s := c.trapAt s1 n e }
    | .leave s1 _ => { acc with s := s1 }
    | .park .. => acc
    | .ok s1 _ _ =>
      if !(bit (srcReg c t o.a) 31) then { acc with s := s1 }
      else match s1.groupOf n, (s1.groupOf n).bind s1.pitchOf with
      | some g, some p => match leadQuarter c s1 t g p o with
        | .ok q b key s2 fired =>
          { acc with s := (watchCause fired).foldl (fun s info => s.owe n info c.pc c.word) s2, qs := acc.qs ++ [q], b := some (b, key) }
        | .bad e => { acc with s := c.trapAt s1 n e }
        | .park l va => { acc with s := s1, parks := acc.parks ++ [(n, { asid := s1.asidOf n, kind := 5, level := l, va := va })] }
      | _, _ => { acc with s := s1 }

/-- MMA (R403): the checks, once; then the pack stalls at the word until every quarter of its unit is granted. A pack whose records park is held
at the word, with no unit yet. -/
def bodyMma (o : MxOp) : BodyFn := fun c s =>
  let retire := passOn c
  match s.unitOf c.pack with
  | some u => if u.left.isEmpty then retire (s.dropUnit u) else .stall
  | none =>
    let act := c.actives s
    let lead (t : Thread) : Bool := bit (srcReg c t o.a) 31
    let pend (t : Thread) : Bool := lead t &&
      ((!(o.sub6.getLsbD 0) && tilePending s t (bits (srcReg c t o.a) 11 0)) || (!(o.sub6.getLsbD 1) && tilePending s t (o.imm.toNat % 4096)))
    if act.any (fun n => match s.thread? n with | some t => pend t | none => false) then .stall
    else if !act.isEmpty && s.frozen (clusterOf c.pack.core) then .stall
    else
      let r := act.foldl (mmaThread o c) { s := s }
      let s1 := r.s
      if !r.parks.isEmpty then .held r.parks
      else match r.b, s1.pack? c.pack.core c.pack.pipe with
      | some (b, key), some pk =>
        match act.head?.bind s1.groupOf with
        | none => retire s1
        | some g => match s1.pitchOf g with
          | none => retire s1
          | some p =>
            let (k, s2) := s1.nextOrder
            let u : MatUnit :=
              { cluster := p.cluster, core := g.core, slot := g.slot, threads := pk.threads, pitch := p.number, cls := p.cls, pri := p.pri, role := g.role
                leader := (r.qs.map (·.leader)).headD 0, arrival := s.now, order := k, waited := 0, queueWait := 0, fa := o.fa.toNat, fb := o.fb.toNat
                mode := o.mode.toNat, push := o.q, bsl := o.bsl.toNat, key := key, b := b, left := r.qs, begun := false, fid := none }
            .more (({ s2 with engines := { s2.engines with units := s2.engines.units ++ [u] } } : State).stallPack pk)
      | _, some pk => passOn { c with pack := pk } s1
      | _, none => .more s1

/-! ## Operands and passes (R226, R228, R231 to R234) -/

/-- What a fetch of an operand comes to. -/
inductive FetchRes where
  | ok (o : Operand)
  /-- Parked, with what has been read (R163). -/
  | park (o : Operand) (level va : Nat)

/-- Fetch an operand: a tile's bytes as they stand, or a region through the cluster's fetch path (R163, R227, R228). -/
def State.fetchOperand (s : State) (cluster : Nat) (o : Operand) : FetchRes :=
  if o.ready then .ok o
  else match o.region with
  | none =>
    if s.scratchPoisoned o.core o.addr o.size then
      .ok { o with ready := true, err := some { trapOf .eccUncorr 0 with vaddr := BitVec.ofNat 64 o.addr } }
    else .ok { o with ready := true, data := s.scratchRead o.core o.addr o.size }
  | some g =>
    let had := o.data.length / 8
    let (l, r) := s.readElems cluster o.asid o.level g o.chunks (regionCount g.ext - had) had []
    let data := o.data ++ l.reverse.flatMap (fun x => leBytes x 8)
    match r with
    | some (.error (lv, va)) =>
      .park { o with data := data, chunks := s.chunksOf cluster o.asid o.level g had l.length o.chunks, fva := some va } lv va
    | some (.ok e) => .ok { o with ready := true, err := some e, fva := none }
    | none =>
      let vals := (List.range (data.length / 8)).map (fun i => leVal ((data.drop (8 * i)).take 8))
      .ok { o with ready := true, data := packElems g.shape.fmt vals, fva := none }

/-- Rectangle of a quarter. -/
def Quarter.rect (q : Quarter) : Rect := halfRect q.row 8 q.half

/-- Pushes that granted passes still owe a pitch. -/
def State.pushesComing (s : State) (cluster pitch : Nat) : Nat :=
  8 * ((s.engines.passes.filter (·.cluster == cluster)).flatMap (fun p => p.quarters.filter (fun q => q.pitch == pitch && q.push))).length

/-- Has a pitch's row queue room for the pushes of k more quarters (R234)? -/
def State.pushRoom (s : State) (u : MatUnit) (k : Nat) : Bool :=
  match s.pitch? u.cluster u.pitch with
  | some p => p.queue.length + s.pushesComing u.cluster u.pitch + 8 * (k + 1) ≤ 64
  | none => false

/-- Will a granted pass push rows of a rectangle into a pitch's row queue (R234)? -/
def State.pushing (s : State) (cluster pitch : Nat) (r : Rect) : Bool :=
  s.engines.passes.any (fun p => p.cluster == cluster && p.quarters.any (fun q => q.push && q.pitch == pitch && (halfRect q.row 8 q.half).meets r))

/-- May a quarter of a unit be granted now, with k quarters that push to its pitch already in the pass? -/
def State.grantable (s : State) (u : MatUnit) (k : Nat) (q : Quarter) : Bool :=
  !(s.pushing u.cluster u.pitch q.rect) && !(s.engines.accOps.any (fun o => o.cluster == u.cluster && o.rect.meets q.rect)) &&
  !(s.engines.evals.any (fun e => e.cluster == u.cluster && (s.evalRect e).meets q.rect)) &&
  !(match s.pitch? u.cluster u.pitch with | some p => p.queued q.rect | none => false) && (!u.push || s.pushRoom u k)

/-- A quarter in the pass being made: its pitch, its rows, whether it pushes them. -/
structure Taken where
  pitch : Nat
  rect : Rect
  push : Bool

/-- The quarters of a unit that go into a pass that has room for n more and already holds `taken`: in unit order, none that overlaps
one before it (R231). -/
def State.unitQuarters (s : State) (u : MatUnit) (n : Nat) (taken : List Taken) : List Quarter :=
  let pushes := (taken.filter (fun x => x.pitch == u.pitch && x.push)).length
  let go := u.left.foldl (fun (acc : List Quarter × List Rect) q =>
    let clash := acc.2.any (·.meets q.rect) || taken.any (fun x => x.pitch == u.pitch && x.rect.meets q.rect)
    if clash || n ≤ acc.1.length || !(s.grantable u (pushes + acc.1.length) q) then (acc.1, acc.2 ++ [q.rect])
    else (acc.1 ++ [q], acc.2 ++ [q.rect])) ([], [])
  go.1

/-- Fetch what quarters of a unit need. The unit with its operands, or the state with the fetch parked. -/
def State.fetchUnit (s : State) (u : MatUnit) (qs : List Quarter) : Except State MatUnit :=
  match s.fetchOperand u.cluster u.b with
  | .park b l va =>
    let (fid, s1) := s.parkFault u.b.asid 5 l va
    .error (s1.modUnit u (fun u => { u with b := b, fid := some fid }))
  | .ok b =>
    qs.foldl (fun (acc : Except State MatUnit) q => match acc with
      | .error s => .error s
      | .ok u => match s.fetchOperand u.cluster q.a with
        | .park a l va =>
          let (fid, s1) := s.parkFault q.a.asid 5 l va
          .error (s1.modUnit u (fun _ => { u with fid := some fid, left := u.left.map (fun x => if x == q then { q with a := a } else x) }))
        | .ok a => .ok { u with left := u.left.map (fun x => if x == q then { q with a := a } else x) }) (.ok { u with b := { b with credit := u.b.credit } })

/-- Credit the tiles of a quarter (R227). -/
def State.creditQuarter (s : State) (a b : Option Credit) : State := (s.creditAll a.toList 768 none).creditAll b.toList 6144 none

/-- The watchpoints that reading an operand fires (R308). -/
def State.watchOperand (s : State) (cluster : Nat) (o : Operand) : State :=
  if s.watchpoints.isEmpty then s
  else match o.region with
  | none => (s.watch agentMatrix (some o.core) o.addr o.size true false (fun _ => true)).2
  | some g => (List.range (regionCount g.ext)).foldl (fun s r =>
      let (va, n) := g.elemBytes r
      s.engineSeen agentMatrix cluster o.asid o.level va n) s

/-- Take granted quarters out of their unit: into the pass, or dropped with the pitch's error (R228). -/
def State.takeQuarters (s : State) (u : MatUnit) (qs : List Quarter) : State × List PassQuarter :=
  let rows := qs.map (fun q => (q.row, q.half, q.leader))
  let now := u.left.filter (fun q => rows.contains (q.row, q.half, q.leader))
  let s1 := s.modUnit u (fun _ => { u with left := u.left.filter (fun q => !(rows.contains (q.row, q.half, q.leader))), begun := true, queueWait := 0 })
  let s1 := if u.begun then s1 else s1.watchOperand u.cluster u.b
  let s1 := now.foldl (fun s q => s.watchOperand u.cluster q.a) s1
  now.foldl (fun (acc : State × List PassQuarter) q =>
    match q.a.err <|> u.b.err with
    | some e => ((acc.1.pitchError u.cluster u.pitch e).creditQuarter q.a.credit u.b.credit, acc.2)
    | none => (acc.1, acc.2 ++ [{ pitch := u.pitch, push := u.push, row := q.row, half := q.half, a := q.a.data, b := u.b.data
                                  creditA := q.a.credit, creditB := u.b.credit }])) (s1, [])

/-- Tag of a B slot after a grant (R229): slot BSL by preference, never one that an ungranted quarter names. -/
def State.fillSlot (s : State) (u : MatUnit) : State :=
  let mine := s.engines.bslots.filter (·.cluster == u.cluster)
  let named (i : Nat) : Bool := match mine.find? (·.index == i) with
    | some b => s.engines.units.any (fun x => x.cluster == u.cluster && x.key == b.key && !x.left.isEmpty)
    | none => false
  if mine.any (·.key == u.key) then s
  else match (u.bsl :: List.range 4).find? (fun i => !(named i)) with
  | some i =>
    let rest := s.engines.bslots.filter (fun b => !(b.cluster == u.cluster && b.index == i))
    { s with engines := { s.engines with bslots := rest ++ [{ cluster := u.cluster, index := i, key := u.key }] } }
  | none => s

/-- Oldest units first, then as the arbiter orders those of one cycle (R231, R232). -/
def unitOlder (a b : MatUnit) : Bool := [a.arrival, a.role, a.leader, a.order] < [b.arrival, b.role, b.leader, b.order]

/-- Grant the next pass of a unit, filled from other pending units with the same key (R231); none when its next quarter must wait. -/
def State.grantPass (s : State) (u : MatUnit) : Option State :=
  let qs := s.unitQuarters u 4 []
  if qs.isEmpty || u.fid.isSome then none
  else match s.fetchUnit u qs with
  | .error s1 => some s1
  | .ok u1 =>
    let (s1, pq) := (s.fillSlot u).takeQuarters u1 qs
    let last := u1.left.length == qs.length
    let others := if !last then [] else sortBy unitOlder (s1.engines.units.filter (fun x => x.cluster == u.cluster && x.threads != u.threads && x.key == u.key &&
      x.fa == u.fa && x.fb == u.fb && x.mode == u.mode && !x.left.isEmpty && x.fid.isNone && !x.begun))
    let (s2, pq, _) := others.foldl (fun (acc : State × List PassQuarter × Bool) x =>
      let (s, pq, stop) := acc
      if stop || 4 ≤ pq.length then acc
      else
        let qs := s.unitQuarters x (4 - pq.length) (pq.map (fun q => { pitch := q.pitch, rect := halfRect q.row 8 q.half, push := q.push }))
        if qs.isEmpty then acc
        else match s.fetchUnit x qs with
        | .error s1 => (s1, pq, stop)
        | .ok x1 =>
          let (s1, more) := s.takeQuarters x1 qs
          (s1, pq ++ more, qs.length != x.left.length)) (s1, pq, false)
    let w0 := engineWord u.core u.slot u.leader 1
    let s3 := s2.trail u.cluster w0 u.order
    some (if pq.isEmpty then s3 else
      { s3 with engines := { s3.engines with passes := s3.engines.passes ++ [{ cluster := u.cluster, fa := u.fa, fb := u.fb, mode := u.mode, quarters := pq }] } })

/-- Order among pending units of an arbiter (R232). -/
def unitLt (a b : MatUnit) : Bool :=
  let key (u : MatUnit) : List Nat := [u.cls, 3 - u.pri, u.arrival, u.role, u.leader]
  key a < key b

/-- The unit that the arbiter takes (R230, R232); `ready` picks the units whose next quarter may be granted. -/
def State.arbiter (s : State) (cluster : Nat) (ready : MatUnit → Bool) : Option MatUnit :=
  let us := s.engines.units.filter (fun u => u.cluster == cluster && !u.left.isEmpty)
  let frz := s.frozen cluster
  let stripWaits := s.stripMode && us.any (fun u => u.cls == 0 && !u.begun)
  match us.find? (fun u => u.begun && u.cls == 0), us.find? (·.begun) with
  | some u, _ => some u
  | none, u0 =>
    if u0.isSome && (frz || !stripWaits) then u0
    else if frz then none
    else
      let ps := us.filter (fun u => !u.begun && ready u && (u0.isNone || u.cls == 0))
      let starved := ps.filter (fun u => 256 ≤ u.waited)
      match minBy (fun (a b : MatUnit) => b.waited < a.waited) starved with
      | some u => some u
      | none => match minBy unitLt ps with
        | some u => some u
        | none => u0

/-- PASS_GRANT (R232). -/
def execPassGrant (cluster : Nat) (s : State) : Host.Outcome State Fault Refusal :=
  .next (
    let ready (u : MatUnit) : Bool := u.fid.isNone && !(s.unitQuarters u 4 []).isEmpty
    match s.arbiter cluster ready with
    | none => s
    | some u =>
      if !(s.trailOk cluster (engineWord u.core u.slot u.leader 1) (u.cls == 0)) then s
      else (s.grantPass u).getD s)

/-! ## The arithmetic of a pass (R138, R226) -/

/-- An accumulator word as a value. -/
def accVal (mode acc : Nat) : Ex := if mode == 0 then fp32.val acc else .int (sext 32 acc)

/-- An exact integer value. -/
def Ex.toExact : Ex → Int
  | .fin neg num den => signed neg (num / den)
  | _ => 0

/-- `RoundAcc` (R138). -/
def roundAcc (mode : Nat) (x : Ex) : Word32 :=
  match mode with
  | 0 => BitVec.ofNat 32 (roundEx fp32 ctlRn x).1
  | 1 => BitVec.ofNat 32 (wrapInt 32 x.toExact)
  | _ => BitVec.ofNat 32 (wrapInt 32 (satN x.toExact (-(2 ^ 31)) (2 ^ 31 - 1)))

/-- Product of two elements: L6 by L6 is exact in the exponents (R126). -/
def elemMul (fa fb a b : Nat) : Ex := if fa == 4 && fb == 4 then l6Mul a b else (fmtVal fa a).mul (fmtVal fb b)

/-- One element of a pass: the prior value plus the products of a row of A and a column of B, rounded once. An infinite prior value against an
infinity of the other sign among the products gives the canonical NaN, as two products of opposite signs do: R138 speaks only of the products
(DESIGN CHOICE, log 57). -/
def passElem (fa fb mode : Nat) (acc : Nat) (a b : List Byte) : Word32 :=
  let k := 768 / fmtBits fa
  let x := leVal a
  let y := leVal b
  roundAcc mode ((List.range k).foldl (fun e i => e.add .rne (elemMul fa fb (elem (fmtBits fa) x i) (elem (fmtBits fb) y i))) (accVal mode acc))

/-- The 96 bytes of row or column i of an operand. -/
def operandRow (b : List Byte) (i : Nat) : List Byte := (b.drop (96 * i)).take 96

/-- Write a quarter's results. -/
def State.writeQuarter (s : State) (p : Pass) (q : PassQuarter) : State :=
  (List.range 8).foldl (fun s m => (List.range 64).foldl (fun s n =>
    let col := 64 * b2n q.half + n
    s.accPut p.cluster (q.row + m) col (passElem p.fa p.fb p.mode (s.accGet p.cluster (q.row + m) col).toNat (operandRow q.a m) (operandRow q.b n))) s) s

/-- PASS_COMPLETE (R226, R233): the oldest granted pass of a cluster writes its results, credits its tiles and pushes its rows. -/
def execPassComplete (cluster : Nat) (s : State) : Host.Outcome State Fault Refusal :=
  .next (match s.engines.passes.find? (·.cluster == cluster) with
  | none => s
  | some p =>
    let s1 := { s with engines := { s.engines with passes := dropFirst (·.cluster == cluster) s.engines.passes } }
    p.quarters.foldl (fun s q =>
      let s2 := (s.writeQuarter p q).creditQuarter q.creditA q.creditB
      if q.push then s2.modPitch cluster q.pitch (fun x => { x with queue := x.queue ++ (List.range 8).map (fun m => (q.row + m, q.half)) })
      else s2) s1)

/-! ## The row queue (R234, R235) -/

/-- Values that a thread of squad index j takes from a row. -/
def State.popValues (s : State) (cluster row : Nat) (h : Bool) (j : Nat) : List Word32 :=
  [s.accGet cluster row (64 * b2n h + j), s.accGet cluster row (64 * b2n h + j + 32)]

/-- Take the head entry of a pitch for a squad. -/
def State.popRow (s : State) (p : Pitch) (slot wti : Nat) : Option (Nat × Bool × State) :=
  match p.queue with
  | [] => none
  | (r, h) :: rest =>
    let s1 := s.modPitch p.cluster p.number (fun p => { p with queue := rest })
    some (r, h, s1.trail p.cluster (trailWord 3 p.cluster p.core slot wti (4 * 2 ^ 30)) r)

/-- Threads of a workgroup blocked in APOP, with the order of their arrival. -/
def State.apops (s : State) (core slot : Nat) : List (ThreadName × RegF × Nat) :=
  s.work.threads.filterMap (fun t => match t.st with
    | .blocked (.rowQueue d o) => if t.name.core == core && t.name.slot == slot then some (t.name, d, o) else none
    | _ => none)

/-- APOP (R337, R338). -/
def bodyApop (o : MxOp) : BodyFn := fun c s =>
  let act := c.actives s
  let pass := passOn c
  match act, act.head?.bind s.groupOf with
  | [], _ => pass s
  | _, none => pass s
  | n :: rest, some g =>
    match s.pitchOf g with
    | none => forEach (fun _ s _ => .trap s (trapOf .noPitch 0)) c s
    | some p =>
      match p.err with
      | some e =>
        let s1 := c.trapAt (s.modPitch p.cluster p.number (fun p => { p with err := none })) n e
        if rest.isEmpty then
          (match s1.pack? c.pack.core c.pack.pipe with
            | some pk => passOn { c with pack := pk } s1
            | none => .more s1)
        else .more s1
      | none =>
        let w0 := trailWord 3 p.cluster p.core g.slot n.wti (4 * 2 ^ 30)
        if !(s.trailOk p.cluster w0 (g.cls == 0)) then .stall
        else if p.queue.isEmpty || !(s.apops g.core g.slot).isEmpty then
          let (k, s1) := s.nextOrder
          .done s1 (c.pack.threads.map (fun m => { name := m, fate := .wait (.rowQueue (if act.contains m then o.d else 127) k), after := [] }))
        else match s.popRow p g.slot n.wti with
        | none => .stall
        | some (r, h, s1) =>
          forEach (fun _ s t => .ok (s.modThread t.name (·.setRegs o.d.toNat (s.popValues p.cluster r h (t.name.wti % 32))))) c s1

/-- The squad that has waited longest in APOP takes the head row (R235). -/
def State.wakeApop (s : State) (n : ThreadName) : State :=
  let l := s.apops n.core n.slot
  match l.find? (·.1 == n), s.groupOf n with
  | some (_, _, k), some g =>
    if l.any (fun x => x.2.2 < k) then s
    else match s.pitchOf g with
    | none => s
    | some p =>
      let squad := l.filter (fun x => x.2.2 == k)
      let w := ((squad.filter (fun x => x.2.1 != 127)).map (·.1.wti)).headD 0
      if !(s.trailOk p.cluster (trailWord 3 p.cluster p.core g.slot w (4 * 2 ^ 30)) (g.cls == 0)) then s
      else match s.popRow p g.slot w with
      | none => s
      | some (r, h, s1) =>
        squad.foldl (fun s x =>
          ((if x.2.1 == 127 then s else s.modThread x.1 (·.setRegs x.2.1.toNat (s.popValues p.cluster r h (x.1.wti % 32)))).wake x.1 .next [])) s1
  | _, _ => s

/-- ROW_QUEUE_TIMEOUT (R234): a unit that has waited 2^20 cycles for its row queue is withdrawn, and its threads take QDEADLOCK. -/
def execRowQueueTimeout (cluster : Nat) (s : State) : Host.Outcome State Fault Refusal :=
  .next (match s.engines.units.find? (fun u => u.cluster == cluster && 2 ^ 20 ≤ u.queueWait) with
  | none => s
  | some u =>
    let s1 := s.dropUnit u
    u.threads.foldl (fun s n =>
      match s.thread? n with
      | none => s
      | some t =>
        if t.st == .exited || t.trap.isSome then s
        else
          let (pc, pa, pb) := s.position n
          s.trapAt n (trapOf .qdeadlock 2) pc (s.peek n.core (s.asidOf n) t.level (wordAddr pc.ca pc.wi)) pa pb) s1)

/-- PITCH_RELEASE (R223): the pitch of a workgroup that has entered EXITING is released once its work has completed. -/
def execPitchRelease (cluster pitch : Nat) (s : State) : Host.Outcome State Fault Refusal :=
  .next (match s.pitch? cluster pitch with
  | none => s
  | some p => match s.group? p.core p.slot with
    | some g =>
      if !g.exiting then s
      else if s.pitchBusy cluster pitch then s.modPitch cluster pitch (fun p => { p with releasing := true })
      else s.freePitch p
    | none => s.freePitch p)

/-! ## Freeze (R240) -/

/-- A write of the freeze register: FRZ withdraws the units with no granted quarter; its clearing clears FDONE. -/
def State.writeFreeze (s : State) (cluster : Nat) (on : Bool) : State :=
  if on then
    let s1 := s.setDreg (regFreeze cluster) (setBits (s.dreg (regFreeze cluster)) 0 0 1)
    { s1 with engines := { s1.engines with units := s1.engines.units.filter (fun u => u.cluster != cluster || u.begun) } }
  else s.setDreg (regFreeze cluster) 0

/-- FREEZE_REQUEST (R240): a write of FRZ. -/
def execFreezeRequest (cluster : Nat) (on : Bool) (s : State) : Host.Outcome State Fault Refusal :=
  .next (if 64 ≤ cluster then s else s.writeFreeze cluster on)

/-- Has the engine come to rest: no unit in progress, no pass, no evaluation within a rule? -/
def State.engineRests (s : State) (cluster : Nat) : Bool :=
  !(s.engines.units.any (fun u => u.cluster == cluster && u.begun && !u.left.isEmpty)) && !(s.engines.passes.any (·.cluster == cluster)) &&
  !(s.engines.evals.any (fun e => e.cluster == cluster && e.mid))

/-- FREEZE_DONE (R240). -/
def execFreezeDone (cluster : Nat) (s : State) : Host.Outcome State Fault Refusal :=
  .next (if s.frozen cluster && s.engineRests cluster then s.setDreg (regFreeze cluster) (setBits (s.dreg (regFreeze cluster)) 1 1 1) else s)

/-- MACQ (R399). -/
def execMacq (o : MxOp) (s : State) : Host.Outcome State Fault Refusal := .next (runWord (.macq o) (bodyMacq o) s)

/-- MREL (R406). -/
def execMrel (o : MxOp) (s : State) : Host.Outcome State Fault Refusal := .next (runWord (.mrel o) (bodyMrel o) s)

/-- MMA (R403). -/
def execMma (o : MxOp) (s : State) : Host.Outcome State Fault Refusal := .next (runWord (.mma o) (bodyMma o) s)

/-- MZERO (R402). -/
def execMzero (o : MxOp) (s : State) : Host.Outcome State Fault Refusal := .next (runWord (.mzero o) (bodyMzero o) s)

/-- MDRN (R401). -/
def execMdrn (o : MxOp) (s : State) : Host.Outcome State Fault Refusal := .next (runWord (.mdrn o) (bodyMdrn o) s)

/-- MLDA (R402). -/
def execMlda (o : MxOp) (s : State) : Host.Outcome State Fault Refusal := .next (runWord (.mlda o) (bodyMlda o) s)

/-- APOP (R337). -/
def execApop (o : MxOp) (s : State) : Host.Outcome State Fault Refusal := .next (runWord (.apop o) (bodyApop o) s)

end Sys2Proof.Machine
end

