-- ==== Sys2Proof/Machine/Grammar.lean ====
section
/-! DEFINITION. Grammar matrices: configurations, evaluations and their row pushes (R241 to R246, R382, R383). -/

namespace Sys2Proof.Machine

/-! ## GCFG (R241, R242, R382) -/

/-- A header that obeys R242 for a pitch of so many rows. -/
def gramCfg (va rows : Nat) (b : List Byte) : Option GramCfg :=
  let w (i : Nat) : Nat := leVal ((b.drop (8 * i)).take 8)
  let c : GramCfg :=
    { fw := bits (w 0) 47 44, fx := bits (w 0) 43 40, gmode := bits (w 0) 39 38, acc := bit (w 0) 37, scl := bits (w 0) 31 24
      cols := bits (w 1) 53 32, rules := bits (w 1) 31 0, rows := bits (w 2) 53 32, gbase := bits (w 2) 9 0, va := va }
  let reserved := bits (w 0) 36 32 != 0 || bits (w 0) 23 0 != 0 || bits (w 1) 63 54 != 0 || bits (w 2) 63 54 != 0 ||
    bits (w 2) 31 10 != 0 || [3, 4, 5, 6, 7].any (fun i => w i != 0)
  let ints := c.fw ≤ 1 && c.fx ≤ 1 && (c.gmode == 1 || c.gmode == 2) && c.scl == 0
  let fps := 2 ≤ c.fw && c.fw ≤ 4 && 2 ≤ c.fx && c.fx ≤ 7 && c.gmode == 0
  if bits (w 0) 63 48 == 0x6A17 && !reserved && (ints || fps) && 1 ≤ c.cols && 1 ≤ c.rules && 1 ≤ c.rows && c.rows ≤ 1024 &&
    c.gbase + c.rows ≤ rows then some c else none

/-- GRAMMAR_FORMAT at a word. -/
def gramTrap (v : Nat) : TrapInfo := trapOf .grammarFormat v

/-- Is a thread's header fetch parked? -/
def State.headerParked (s : State) (n : ThreadName) : Bool := (s.outOf n).any (·.kind == .header)

/-- Park a header fetch: the access holds the thread's load count (R161, R382). -/
def State.parkHeader (s : State) (c : Ctx) (t : Thread) (level va : Nat) : State :=
  let (fid, s1) := s.parkFault (s.asidOf t.name) 0 level va
  let (k, s2) := s1.nextOrder
  let o : Outstanding :=
    { id := k, thread := t.name, lid := t.lid, asid := s.asidOf t.name, region := t.region, level := t.level, kind := .header
      va := BitVec.ofNat 57 va, bytes := 64, pol := 0, ord := 0, scope := 0, dst := 127, sx := false, aop := 0, data := 0, pc := c.pc
      word := c.word, fid := some fid, peer := none }
  { s2 with store := { s2.store with outst := s2.store.outst ++ [o] } }

/-- Outcome of one thread's header read. -/
inductive HeadRes where
  | ok (b : List Byte) (s : State) (fired : List Nat)
  | bad (t : TrapInfo)
  | park (level : Nat)

/-- Read a header: a HOME load of 64 bytes, through the Expand stage on a compressed page (R382). -/
def State.readHeader (s : State) (t : Thread) (va : Nat) : HeadRes :=
  match s.xlat (.core t.name.core) (s.asidOf t.name) va t.level { write := false, bytes := 64 } with
  | .park l => .park l
  | .trap e => .bad e
  | .ok pa leaf =>
    let seen (s : State) : List Nat × State := s.watch (agentThread t.name) none pa 64 true false (fun _ => true)
    let s := s.walkSeen (.core t.name.core) (s.asidOf t.name) va
    if bit leaf 59 then
      match s.chunkRead pa with
      | .ok b => .ok ((b.drop (pa % 4096)).take 64) (seen s).2 (seen s).1
      | .err cause a => .bad { trapOf cause 0 with vaddr := BitVec.ofNat 64 va, paddr := a }
      | .park l _ => .park l
    else if s.poisoned pa 64 then .bad { trapOf .eccUncorr 0 with vaddr := BitVec.ofNat 64 va, paddr := pa }
    else
      let (b, s1) := s.homeRead t.name.core pa 64
      .ok b (seen s1).2 (seen s1).1

/-- One thread's GCFG. -/
def gcfgThread (o : MxOp) : Ctx → State → Thread → TRes := withPitch (fun _ s t _ p =>
  let va := t.regsVal o.a.toNat 2
  if va % 64 != 0 then .trap s { trapOf .misalign va with vaddr := BitVec.ofNat 64 va }
  else if 2 ^ 57 ≤ va then .trap s { protOf 5 with vaddr := BitVec.ofNat 64 va }
  else match s.readHeader t va with
  | .park l => .park (s.asidOf t.name) 0 l va
  | .bad e => .trap s e
  | .ok b s1 fired =>
    match gramCfg va p.rows b with
    | none => .trap s1 { gramTrap 0xFFFFFFFF with vaddr := BitVec.ofNat 64 va }
    | some x => .ok (s1.modPitch p.cluster p.number (fun p => { p with gram := some x })) .next (watchCause fired))

/-- GCFG (R382): the pack stalls until every active thread's header can be read; a parked fetch is the thread's one more outstanding load, which
its count must have room for (R47). -/
def bodyGcfg (o : MxOp) : BodyFn := fun c s =>
  let act := c.actives s
  if act.any (fun n => s.headerParked n || s.acqPending n || 63 ≤ s.loadsOut n) then .stall
  else
    let (s1, outs) := c.pack.threads.foldl (c.part (gcfgThread o) (fun _ s _ => s)) (s, [])
    match outs.filterMap (fun x => x.park.map (fun p => (x.name, p))) with
    | [] => .done s1 outs
    | l => .more ((l.foldl (fun s x => match s.thread? x.1 with | some t => s.parkHeader c t x.2.level x.2.va | none => s) s).stallPack c.pack)

/-! ## GEVAL (R243, R383) -/

/-- GEVAL. -/
def bodyGeval (o : MxOp) : BodyFn := eachThread (fun c s t => !(tilePending s t (bits (srcReg c t o.a) 11 0))) (withPitch (fun c s t g p =>
  let x := srcReg c t o.a
  match p.gram with
  | none => .trap s (gramTrap 0xFFFFFFFF)
  | some cfg =>
    let nv := bits x 16 12 + 1
    let size := fmtBytes cfg.fx (nv * cfg.cols)
    match engineTile s g (bits x 11 0) cfg.fx size false (gramTrap 0xFFFFFFFE) with
    | .error e => .trap s e
    | .ok (tl, v) =>
      let (k, s1) := s.nextOrder
      let e : Eval :=
        { cluster := p.cluster, pitch := p.number, cls := p.cls, order := k, cfg := cfg, asid := s.asidOf t.name, level := t.level
          core := tl.home.core, addr := tl.at_ v, tileBytes := size, credit := some tl.credit, nv := nv, cq := bits x 18 17, push := o.q
          running := false, item := 0, rule := 0, depth := 1, open_ := false, mid := false, sums := [], file := [], rowsWritten := []
          ended := false, fid := none }
      .ok { s1 with engines := { s1.engines with evals := s1.engines.evals ++ [e] } }))

/-! ## The evaluation (R244, R245) -/

/-- Virtual address of an item. -/
def Eval.itemVa (e : Eval) : Nat := (e.cfg.va + 64 + 4 * e.item) % 2 ^ 57

/-- Element (j, c) of the input tile (R243). -/
def State.evalX (s : State) (e : Eval) (j c : Nat) : Nat :=
  let w := fmtBits e.cfg.fx
  let b := (j * e.cfg.cols + c) * w
  s.scratchVal e.core (e.addr + b / 8) ((b % 8 + w + 7) / 8) / 2 ^ (b % 8) % 2 ^ w

/-- The value of one terminal times one element, scaled exactly (R126, R128, R244). -/
def termProduct (cfg : GramCfg) (code x : Nat) : Ex := (elemMul cfg.fw cfg.fx code x).scaled cfg.scl

/-- An empty rule's sums: the identity of exact addition. -/
def Eval.zeros (e : Eval) : List Ex := List.replicate e.nv (.fin true 0 1)

/-- Depth and values of a kept rule. -/
def Eval.kept (e : Eval) (i : Nat) : Nat × List Word32 :=
  match e.file.find? (·.1 == i % 2048) with
  | some (_, d, v) => (d, v)
  | none => (1, [])

/-- What one item comes to. -/
inductive ItemRes where
  | next (s : State) (e : Eval)
  | fault (c : Cause)
  | stop

/-- Values of a rule that ends. -/
def Eval.values (e : Eval) : List Word32 :=
  if e.open_ then e.sums.map (roundAcc e.cfg.gmode) else List.replicate e.nv 0

/-- Write a rule's values to an output row (R244). -/
def State.writeRow (s : State) (e : Eval) (base n : Nat) (v : List Word32) : State :=
  let row := base + e.cfg.gbase + n
  ((List.range v.length).zip v).foldl (fun s (j, x) =>
    let col := 32 * e.cq + j
    let old := s.accGet e.cluster row col
    s.accPut e.cluster row col (if e.cfg.acc then roundAcc e.cfg.gmode ((accVal e.cfg.gmode old.toNat).add .rne (accVal e.cfg.gmode x.toNat)) else x)) s

/-- One item of the procedure of R244. -/
def State.evalItem (s : State) (e : Eval) (base it : Nat) : ItemRes :=
  let step (e : Eval) : Eval := { e with item := e.item + 1 }
  match bits it 31 30 with
  | 0 =>
    let c := bits it 29 8
    let code := bits it 7 0
    if e.cfg.cols ≤ c || (e.cfg.fw == 4 && 64 ≤ code) then .fault .grammarFormat
    else
      let sums := ((List.range e.nv).zip e.sums).map (fun (j, x) => x.add .rne (termProduct e.cfg code (s.evalX e j c)))
      .next s (step { e with sums := sums, open_ := true, mid := true })
  | 1 =>
    let d := bits it 10 0
    if bits it 29 11 != 0 || d == 0 then .fault .grammarFormat
    else if e.rule < d then .fault .grammarWindow
    else
      let (dep, v) := e.kept (e.rule - d)
      if 32 < dep + 1 then .fault .grammarDepth
      else
        let sums := (e.sums.zip v).map (fun (x, y) => x.add .rne (accVal e.cfg.gmode y.toNat))
        .next s (step { e with sums := sums, depth := max e.depth (dep + 1), open_ := true, mid := true })
  | 2 =>
    if e.rule == e.cfg.rules then .fault .grammarFormat
    else
      let v := e.values
      let n := bits it 21 0
      let e1 := { e with file := (e.rule % 2048, e.depth, v) :: e.file.filter (·.1 != e.rule % 2048), rule := e.rule + 1, depth := 1
                         open_ := false, mid := false, sums := e.zeros }
      if bit it 29 then
        if bits it 28 22 != 0 || e.cfg.rows ≤ n then .fault .grammarFormat
        else .next (s.writeRow e base n v) (step { e1 with rowsWritten := e.rowsWritten ++ [base + e.cfg.gbase + n] })
      else if bits it 28 0 != 0 then .fault .grammarFormat
      else .next s (step e1)
  | _ => if bits it 29 0 != 0 || e.open_ || e.rule != e.cfg.rules then .fault .grammarFormat else .stop

/-- The evaluation of a cluster that runs. -/
def State.modEval (s : State) (e : Eval) : State :=
  { s with engines := { s.engines with evals := s.engines.evals.map (fun x => if x.cluster == e.cluster && x.order == e.order then e else x) } }

/-- An evaluation ends in an error (R245). -/
def State.evalFault (s : State) (e : Eval) (cause : Cause) (addr : Nat) : State :=
  (s.pitchError e.cluster e.pitch { trapOf cause e.item with vaddr := BitVec.ofNat 64 addr }).modEval { e with ended := true, mid := false }

/-- An item read as the watchpoints see it (R308). -/
def State.watchItem (s : State) (e : Eval) : State :=
  if s.watchpoints.isEmpty then s else s.engineSeen agentMatrix e.cluster e.asid e.level e.itemVa 4

/-- The chunk that the next item lies in, on a compressed page, as the evaluation reads it (R216). -/
def State.itemChunk (s : State) (e : Eval) : List (Nat × List Byte) :=
  if e.chunks.any (·.1 == e.itemVa / 4096) then e.chunks
  else ((s.pageChunk e.cluster e.asid e.level (e.itemVa / 4096 * 4096)).map (fun b => (e.itemVa / 4096, b))).toList

/-- Run items up to the next rule boundary, at most `fuel` of them. -/
def State.evalRule (s : State) (base : Nat) : Nat → Eval → State
  | 0, e => s.modEval e
  | fuel + 1, e =>
    let e := { e with chunks := s.itemChunk e }
    match s.engineRead e.cluster e.asid e.level e.itemVa 4 e.chunks with
    | .park l va =>
      let (fid, s1) := s.parkFault e.asid 5 l va
      s1.modEval { e with fid := some fid }
    | .err cause a => s.evalFault e cause a
    | .ok b =>
      match (s.watchItem e).evalItem e base (leVal b) with
      | .fault cause => (s.watchItem e).evalFault e cause e.itemVa
      | .stop => (s.watchItem e).modEval { e with ended := true, mid := false }
      | .next s1 e1 => if e1.mid then s1.evalRule base fuel e1 else s1.modEval e1

/-- Items that one event runs at most. -/
def evalFuel : Nat := 4096

/-- May an evaluation start (R234, R243, R245)? -/
def State.evalReady (s : State) (e : Eval) : Bool :=
  let r := s.evalRect e
  !(s.engines.passes.any (fun p => p.cluster == e.cluster && p.quarters.any (fun q => (halfRect q.row 8 q.half).meets r))) &&
  !(s.engines.accOps.any (fun o => o.cluster == e.cluster && o.order < e.order && o.rect.meets r)) &&
  !(match s.pitch? e.cluster e.pitch with | some p => p.queued r | none => false)

/-- The evaluation that is next on a cluster: the one that runs, else the first by class and issue (R243). -/
def State.evalNext (s : State) (cluster : Nat) : Option Eval :=
  let l := s.engines.evals.filter (·.cluster == cluster)
  match l.find? (·.running) with
  | some e => some e
  | none => minBy (fun (a b : Eval) => a.cls < b.cls || (a.cls == b.cls && a.order < b.order)) l

/-- Under a freeze an evaluation runs on within its rule, or to its end when its pitch is being released (R240). -/
def State.evalMay (s : State) (e : Eval) : Bool :=
  !(s.frozen e.cluster) ||
  (e.running && (e.mid || (match s.pitch? e.cluster e.pitch with | some p => p.releasing | none => false)))

/-- GRAMMAR_EVALUATION (R244): an evaluation starts, or runs to its next rule boundary. -/
def execGrammarEvaluation (cluster : Nat) (s : State) : Host.Outcome State Fault Refusal :=
  .next (match s.evalNext cluster with
  | none => s
  | some e =>
    if e.ended || e.fid.isSome then s
    else if e.abort then s.evalFault e .copyError e.itemVa
    else if !(s.evalMay e) then s
    else
      let base := match s.pitch? cluster e.pitch with | some p => p.base | none => 0
      if e.running then s.evalRule base evalFuel e
      else if !(s.evalReady e) || !(s.trailOk cluster (engineWord e.core 0 0 2) (e.cls == 0)) then s
      else
        let s1 := (s.trail cluster (engineWord e.core 0 0 2) e.order).watch agentMatrix (some e.core) e.addr e.tileBytes true false (fun _ => true)
        let e1 := { e with running := true, sums := e.zeros }
        if s1.2.scratchPoisoned e.core e.addr e.tileBytes then (s1.2.modEval e1).evalFault e1 .eccUncorr e.addr
        else (s1.2.modEval e1).evalRule base evalFuel e1)

/-- Sorted without repeats. -/
def ascending (l : List Nat) : List Nat := (sortBy (· < ·) l).dedup

/-- EVALUATION_END (R243): the input tile is credited, the rows to push are owed, and the next evaluation may start. -/
def execEvaluationEnd (cluster : Nat) (s : State) : Host.Outcome State Fault Refusal :=
  .next (match s.engines.evals.find? (fun e => e.cluster == cluster && e.ended) with
  | none => s
  | some e =>
    let s1 := { s with engines := { s.engines with evals := s.engines.evals.filter (fun x => !(x.cluster == cluster && x.order == e.order)) } }
    let s2 := if e.push then s1.modPitch cluster e.pitch (fun p =>
      { p with owed := p.owed ++ (ascending e.rowsWritten).map (fun r => (r, decide (2 ≤ e.cq))) }) else s1
    s2.creditAll e.credit.toList e.tileBytes none)

/-- EVALUATION_ROW_PUSH (R243): the next owed row enters the queue when it has room. -/
def execEvaluationRowPush (cluster pitch : Nat) (s : State) : Host.Outcome State Fault Refusal :=
  .next (match s.pitch? cluster pitch with
  | none => s
  | some p => match p.owed with
    | [] => s
    | x :: rest =>
      if p.queue.length + s.pushesComing cluster pitch < 64 then
        s.modPitch cluster pitch (fun p => { p with queue := p.queue ++ [x], owed := rest })
      else s)

/-- GCFG (R382). -/
def execGcfg (o : MxOp) (s : State) : Host.Outcome State Fault Refusal := .next (runWord (.gcfg o) (bodyGcfg o) s)

/-- GEVAL (R383). -/
def execGeval (o : MxOp) (s : State) : Host.Outcome State Fault Refusal := .next (runWord (.geval o) (bodyGeval o) s)

end Sys2Proof.Machine
end

