-- ==== Sys2Proof/Machine/Turn.lean ====
section
/-! DEFINITION. What a turn does before a word executes: instruction comparators, the fetch and the decoder's answer (R78 rows 1, 4
and 6, R307), and how a pack is cut at an instruction boundary (R105). -/

namespace Sys2Proof.Machine

/-- Cut a pack at an instruction boundary: it leaves its pipe for the resume store, its threads SUSPENDED, and is remembered while a cluster
stop is on its way to the core (R105, R311). -/
def State.cutPack (s : State) (core pipe : Nat) (byStop : Bool) : State :=
  match s.pack? core pipe with
  | none => s
  | some p =>
    let s1 := s.dropPack core pipe
    let s2 := { s1 with work := { s1.work with resumes := s1.work.resumes ++ [{ p with byStop := byStop, cutAt := s.now, stalled := 0, full := 0 }] } }
    (s2.modThreads (fun t => p.threads.contains t.name) (fun t =>
      { t with st := .suspended (if byStop then .stopped else .preempted) })).pastPack p false p.threads

/-- Lowest instruction comparator of a cluster that matches word wi of the clause at ca in an address space, with its IACT
(R307). -/
def State.comparator (s : State) (cluster asid : Nat) (ca : VAddr) (wi : Nat) : Option (Nat × Bool) :=
  (List.range 8).findSome? (fun i =>
    let r := s.dbg cluster (0x100 + 16 * i)
    let a := s.dbg cluster (0x108 + 16 * i)
    if bit r 63 && bits r 56 0 == ca.toNat && bits a 63 48 == asid && (bit r 61 || bits r 60 57 == wi) then some (i, bit r 62)
    else none)

/-- May the pack of a pipe issue: the device runs, no thermal hold stops its class, and no stop holds its core, but for the pack that a
debug step runs (R310, R312, R332). -/
def State.mayIssue (s : State) (p : Pack) : Bool :=
  !s.control.fw.powerOff && (p.cls == 0 || !s.control.fw.thermalHold) &&
  (!(s.stopped p.core) || (match s.stop? (clusterOf p.core) with | some x => x.stepping == some (4 * p.core + p.pipe) | none => true))

/-! ## Samples (R315) -/

/-- Memory level that a global access at a virtual address shows: 1 where the core's L1 answers, else 2 for the L2 home or the memory behind it:
3 LPDDR, 4 CXL, 5 RDMA. Whether the home's L2 has the line is free (DESIGN CHOICE, log 12). -/
def State.homeLevel (s : State) (core asid va : Nat) (priv l2 : Bool) : Nat :=
  match s.translate (.core core) asid va with
  | .found x =>
    let pa := x.pa + (va - x.va)
    if priv && s.lineHeld core pa then 1
    else if l2 then 2
    else if pa < 0x100000000000 then 3
    else if pa < 0x4000000000000 then 4
    else 5
  | _ => 0

/-- TLB level that answers for an address: 0 L1, 1 L2, 2 a walk (R313). -/
def State.tlbLevel (s : State) (core asid va : Nat) : Nat :=
  match s.cached (.core core) asid va with
  | some t => if t.core.isSome then 0 else 1
  | none => 2

/-- Global address that a word's lowest active thread accesses, with its policy, or the core role of its scratch access. -/
def memPlace (c : Ctx) (s : State) (t : Thread) : Option (Nat × Nat) × Option Nat :=
  match c.instr with
  | .ld o | .st o => (some (globalAddr c t o (mrOff o 24), o.pol.toNat), none)
  | .atom o | .red o => (some (globalAddr c t o (mrOff o 20), 3), none)
  | .lds o | .sts o | .atoms o => (none, some (mrRole s t o))
  | .ldw _ => (none, some ((s.groupOf t.name).elim 0 (·.role)))
  | _ => (none, none)

/-- Memory level and TLB codes of a SAMPLE record for a word (R313, R315). -/
def State.sampleCodes (s : State) (c : Ctx) (l2 : Bool) : Nat × Nat :=
  match (c.actives s).head?.bind s.thread? with
  | none => (0, 0)
  | some t =>
    let core := t.name.core
    match memPlace c s t with
    | (some (va, pol), _) => (s.homeLevel core (s.asidOf t.name) va (pol == 0) l2, s.tlbLevel core (s.asidOf t.name) va)
    | (none, some role) => (if some role == (s.groupOf t.name).map (·.role) then 6 else 7, 0)
    | (none, none) => (0, 0)

/-- While SEN is 1 a pipe with no tagged word in flight tags the word it issues, at random: on average one of 2^SINT, where SINT below 8 acts as
8 and above 24 as 24 (R306, R315). The draw is free (DESIGN CHOICE, log 12). -/
def State.tagWord (s : State) (p : Pack) (i : Instr) : State :=
  let r := s.dbg (clusterOf p.core) 0x28
  if !(bit r 63) || s.control.tagged.any (fun x => x.core == p.core && x.pipe == p.pipe) then s
  else
    let (k, s1) := s.fresh
    let v := (Config.sampleTimes k).toNat
    if v % 2 ^ min 24 (max 8 (bits r 62 58)) != 0 then s1
    else
      let (level, tlb) := s1.sampleCodes (ctxOf p i) (bit v 127)
      { s1 with control := { s1.control with tagged := s1.control.tagged ++
        [{ core := p.core, pipe := p.pipe, pc := { ca := p.ca, wi := p.wi }, threads := p.threads, level := level, tlb := tlb }] } }

/-- What a turn of a pipe comes to. -/
inductive TurnRes where
  /-- Nothing to execute; the state after the turn. -/
  | idle (s : State)
  /-- The decoded word executes on the state. -/
  | word (i : Instr) (s : State)

/-- The fetched word of a pack: comparators, then the decoder (R78 rows 1, 4 and 6). A comparator of a stop has no effect under a stop in force
(R310). A fetch that meets a replayable fault holds the pack at the word. -/
def State.fetchTurn (s : State) (p : Pack) : TurnRes :=
  let asid := match p.threads with | n :: _ => s.asidOf n | [] => 0
  let level := s.packLevel p
  let va := wordAddr p.ca p.wi
  let past := p.threads.all (fun n => match s.thread? n with | some t => t.pastComparator | none => true)
  let pfx := opOf (s.peek p.core asid level va) == 1
  let cl := clusterOf p.core
  let hit := if past || pfx then none else s.comparator cl asid p.ca p.wi
  match (if (s.stop? cl).isSome then hit.filter (fun x => !x.2) else hit) with
  | some (i, true) =>
    .idle ((s.triggerStop cl 2 i).cutPack p.core p.pipe true)
  | some (i, false) => .idle (s.trapPack p (s.peek p.core asid level va) (trapOf .bkpt (0x1000 + i)))
  | none =>
    match s.fetch p.core asid level va with
    | .park l => .idle (s.holdPack p (p.threads.map (fun n => (n, { asid := asid, kind := 2, level := l, va := va.toNat }))))
    | .trap info => .idle (s.trapPack p 0 info)
    | .ok w s1 =>
      match decode w with
      | .ok i => .word i ({ s1 with cur := some (p.core, p.pipe) }.tagWord p i)
      | .error .illegalOp => .idle (s1.trapPack p w (trapOf .illegalOp 0))
      | .error _ => .idle (s1.trapPack p w (trapOf .illegalField 0))

/-- The turn of a pipe: a pack that threads hold at its word waits until their faults are answered. -/
def State.issueTurn (s : State) (core pipe : Nat) : TurnRes :=
  match s.pack? core pipe with
  | none => .idle s
  | some p =>
    if !(s.mayIssue p) then .idle s
    else if p.threads.any s.heldBy then .idle (s.stallPack p)
    else (s.unhold p).fetchTurn p

/-! ## A single instruction placed for the next step (DESIGN CHOICE, log 13) -/

/-- The clause class an opcode stands in: VEC for every terminator. -/
def classFor (op : Nat) : Nat :=
  if isTerm op then 0 else ((List.range 7).find? (fun c => classOk c op)).getD 0

/-- Header of a clause with one word, LIT set with a literal of zero, no waits. -/
def headerFor (op : Nat) : Nat := 0xA58FFF00 + 16 * classFor op + b2n (isTerm op) * 2 ^ 7

/-- The launch that the placed thread belongs to. -/
def placedLaunch : Launch :=
  { lid := 1, asid := 0, cls := 1, crm := 1, scrk := 16, hpc := 0x2000, tarea := 0x10000, tsa := 0x20000, fctl := 0, cpl := 0x3000
    args := List.replicate 8 0, cons := List.replicate 8 0, levels := [{ scope := 1, dom := 0, ext := 32 }]
    crews := [{ epc := 0x1000, tag := 0, bud := 127, nth := 1 }]
    clusters := [some { pcl := 0, cores := [some 0, none, none, none] }], outs := [], started := [0], finished := [], plan := none
    errors := 0, firstCause := 0, firstAddr := 0 }

def placedGroup : Workgroup :=
  { core := 0, slot := 0, lid := 1, w := 0, q := 0, group := 0, role := 0, cls := 1, area := 0, entry := none, base := 0, size := 16384
    uniform := List.replicate 32 0, crews := [{ crew := 0, firstSquad := 0, nth := 1, epc := 0x1000 }], exiting := false
    chain := none, srate := 0, startedAt := 0, cancelled := false, endedByHandler := false, restored := false, restoring := none, away := none }

def placedName : ThreadName := { core := 0, slot := 0, wti := 0, ctx := 0 }

/-- The placed pack. -/
def placedPack (h : Word64) : Pack :=
  { core := 0, pipe := 0, slot := 0, crew := 0, cls := 1, threads := [placedName], ca := 0x1000, hdr := h, wi := 0, pa := 0, pb := 0
    xrem := none, xafter := [], byStop := false, cutAt := 0, skid := 0, spawned := [], stalled := 0 }

/-- A supervisor translation of the first 2 MiB of cluster 0 onto themselves. -/
def placedTrans : Trans :=
  { cluster := 0, asid := 0, va := 0, size := 0x200000, pa := 0, leaf := BitVec.ofNat 64 (2 ^ 63 + 2 ^ 8 + 3) }

/-- Put an instruction word and its one-word clause at 0x1000, and its pack on pipe 0 of core 0, to issue next. -/
def State.placeWord (s : State) (w : Nat) : State :=
  let h := headerFor (w / 2 ^ 56)
  { s with
    store := { s.store with mem := (s.store.mem.write 0x1000 (leBytes h 8)).write 0x1008 (leBytes w 8), tlb := [placedTrans], stale := [] }
    work := { s.work with
      launches := [placedLaunch], groups := [placedGroup], nextLid := 2, packs := [placedPack (BitVec.ofNat 64 h)]
      threads := [{ newThread placedName 1 0 1 0x1000 0 s.now with st := .issuing, hdr := some (BitVec.ofNat 64 h) }] }
    agenda := [.issue 0 0], cur := none }

end Sys2Proof.Machine
end

