-- ==== Sys2Proof/Machine/Sched.lean ====
section
/-! DEFINITION. The picker of each pipe, class pre-emption, register spill and refill (R14 to R16, R38, R39, R44 to R49, R96
to R107, R313, R314, R316, R317). -/

namespace Sys2Proof.Machine

/-! ## Threads at clause headers -/

/-- Is a workgroup's issue held by its hold register (R302)? -/
def State.wgHeld (s : State) (core slot : Nat) : Bool := slot < 64 && bit (s.dreg (regHold core slot)) 0

/-- Bound on the DATA clauses passed over at one decision. -/
def enterFuel : Nat := 64

/-- A thread that resumes alone reads the header of its clause again (R298): as at an entry, but its waits are not repeated, it is not held at a
rendezvous, and the word it resumes at must lie in the clause (DEDUCED, log 22). -/
def State.reenter (s : State) (n : ThreadName) : State :=
  match s.thread? n with
  | none => s
  | some t =>
    let asid := s.asidOf n
    let (pa, pb) := match t.solo with | some x => (x.pa, x.pb) | none => (0, 0)
    match s.fetch n.core asid t.level t.pc.ca with
    | .park l => s.holdFetch n asid l t.pc.ca
    | .trap info => s.trapAt n info t.pc 0 pa pb
    | .ok h s1 =>
      if hSig h != 0xA5 then s1.trapAt n (trapOf .illegalOp 0) t.pc h pa pb
      else if t.skip then (s1.modThread n (fun t => t.goto (afterClause t.pc.ca h) s.now)).enter n enterFuel
      else if hCls h == 7 then
        if bits h.toNat 63 32 != 0 || bits h.toNat 23 7 != 0 then s1.trapAt n (trapOf .illegalField 0) t.pc h pa pb
        else (s1.modThread n (fun t => t.past t.pc.ca h s.now)).enter n enterFuel
      else if (!(hLit h) && hLit32 h != 0) || hNi h < t.pc.wi then s1.trapAt n (trapOf .illegalField 0) t.pc h pa pb
      else match s1.tailFault n.core asid t.level t.pc.ca h with
      | some (l, va) => s1.holdFetch n asid l va
      | none => s1.modThread n (fun t => { t with solo := some { hdr := some h, pa := pa, pb := pb } })

/-- Live threads of a thread's squad; a handler context is alone in its own (R16, R295). -/
def State.squad (s : State) (t : Thread) : List Thread :=
  s.work.threads.filter (fun x => x.name.core == t.name.core && x.name.slot == t.name.slot && x.name.ctx == t.name.ctx &&
    x.name.wti / 32 == t.name.wti / 32 && x.st != .exited)

/-- The threads that R16 releases from a squad as one pack: every live thread of the squad is held at a rendezvous clause, these stand at the
lowest, and their waits are met. -/
def State.rdvPack (s : State) (t : Thread) : List Thread :=
  let sq := s.squad t
  let low := (sq.map (·.pc.ca.toNat)).foldl min (2 ^ 57)
  let go := sq.filter (fun x => x.pc.ca.toNat == low)
  if sq.all (fun x => x.st == .blocked .rendezvous) && go.all (fun x => match x.hdr with | some h => s.waitsMet x h | none => false) then go
  else []

/-- The rendezvous packs of a core that R16 releases: their threads are READY, as buckets of their own (R36, R97). -/
def State.meet (s : State) (core : Nat) : State :=
  (s.work.threads.filter (fun t => t.name.core == core && t.st == .blocked .rendezvous &&
    (t.name.ctx != 0 || !(s.wgHeld core t.name.slot)))).foldl (fun s t =>
    let go := (s.rdvPack t).map (·.name)
    s.modThreads (fun x => go.contains x.name) (fun x =>
      { x with st := .ready, released := true, readyAt := s.now, waited := 0, behind := [0, 0, 0, 0], held := 0 })) s

/-- A thread that has yet to read the header of its clause does so. -/
def State.enterThread (s : State) (t : Thread) : State :=
  match t.solo with
  | some x => if x.hdr.isNone then s.reenter t.name else s
  | none => if t.hdr.isNone then s.enter t.name enterFuel else s

/-- READY threads of a core that have yet to read the header of their clause do so, and threads restored to a wait at a header (R369); then
the rendezvous that are complete are released. -/
def State.enterAll (s : State) (core : Nat) : State :=
  let again (t : Thread) : Bool := t.hdr.isNone && (t.st == .blocked .header || t.st == .blocked .rendezvous) && !(s.wgHeld core t.name.slot)
  ((s.work.threads.filter (fun t => t.name.core == core && (t.st == .ready || again t))).foldl (fun s t => s.enterThread t) s).meet core

/-! ## Buckets (R16, R97) -/

inductive BucketKind where
  | plain
  | rendezvous
  /-- A thread that resumes alone (R107). -/
  | alone
deriving DecidableEq, Repr

/-- A bucket: its threads in the order in which a pack takes them (R99). -/
structure Bucket where
  kind : BucketKind
  slot : Nat
  crew : Nat
  cls : Nat
  ca : VAddr
  threads : List Thread

def Bucket.urgency (b : Bucket) : Nat := (b.threads.map (·.progress.toNat)).foldl min (2 ^ 32)
def Bucket.since (b : Bucket) : Nat := (b.threads.map (·.readyAt)).foldl min (2 ^ 64)
def Bucket.wait (b : Bucket) : Nat := (b.threads.map (·.waited)).foldl max 0

/-- Cycles it has waited behind INTERACTIVE issue on a pipe (R39). -/
def Bucket.behind (b : Bucket) (pipe : Nat) : Nat := (b.threads.map (·.behind.getD pipe 0)).foldl max 0

/-- A bucket is yielded when any one of its threads left a clause by YLD or YIELD: the manual does not say any or all (DESIGN CHOICE,
log 56). -/
def Bucket.yielded (b : Bucket) : Bool := b.threads.any (·.yielded)

/-- Oldest first, then the lower workgroup thread index (R99). -/
def olderThread (a b : Thread) : Bool := a.readyAt < b.readyAt || (a.readyAt == b.readyAt && nameLt a.name b.name)

/-- Put a thread into the bucket it belongs to. -/
def intoBucket (same : Bucket → Thread → Bool) (make : Thread → Bucket) (l : List Bucket) (t : Thread) : List Bucket :=
  if l.any (same · t) then l.map (fun b => if same b t then { b with threads := insertBy olderThread t b.threads } else b)
  else l ++ [make t]

/-- Class of a thread's workgroup. -/
def State.clsOf (s : State) (n : ThreadName) : Nat := match s.groupOf n with | some g => g.cls | none => 2

def State.bucketOf (s : State) (k : BucketKind) (t : Thread) : Bucket :=
  { kind := k, slot := t.name.slot, crew := t.crew, cls := s.clsOf t.name, ca := t.pc.ca, threads := [t] }

/-- Threads of a core that the picker may choose. -/
def State.mine (s : State) (core : Nat) : List Thread :=
  s.work.threads.filter (fun t => t.name.core == core && (t.name.ctx != 0 || !(s.wgHeld core t.name.slot)))

/-- The buckets of a core. -/
def State.buckets (s : State) (core : Nat) : List Bucket :=
  let l := s.mine core
  let ready := l.filter (fun t => t.st == .ready)
  let plain := (ready.filter (fun t => t.solo.isNone && t.hdr.isSome && !t.released)).foldl (intoBucket (fun b t =>
    b.slot == t.name.slot && b.crew == t.crew && b.ca == t.pc.ca && b.threads.all (fun x => (x.name.ctx == 0) == (t.name.ctx == 0)))
    (s.bucketOf .plain)) []
  let alone := (ready.filter (fun t => match t.solo with | some x => x.hdr.isSome | none => false)).map (s.bucketOf .alone)
  let rdv := (ready.filter (·.released)).foldl (intoBucket (fun b t =>
    b.slot == t.name.slot && b.threads.all (fun x => x.name.ctx == t.name.ctx && x.name.wti / 32 == t.name.wti / 32)) (s.bucketOf .rendezvous)) []
  let all := plain ++ alone ++ rdv
  if s.control.fw.thermalHold then all.filter (·.cls == 0) else all

/-- The clause-resume records of a core that may resume. -/
def State.records (s : State) (core : Nat) : List Pack :=
  let back (n : ThreadName) : Bool := match s.thread? n with | some t => t.st != .saved | none => true
  s.work.resumes.filter (fun p => p.core == core && (!(s.wgHeld core p.slot) || p.threads.all (·.ctx != 0)) && p.threads.all back && (p.cls == 0 || !s.control.fw.thermalHold))

/-! ## The decision (R98, R100) -/

/-- Why a bucket was chosen. -/
inductive Why where
  | ordinary
  | starved
  | aged
deriving DecidableEq, Repr

inductive Choice where
  | resume (p : Pack)
  | take (b : Bucket) (why : Why)
  | nothing

/-- The order among the buckets of a class. -/
def bucketLt (a b : Bucket) : Bool :=
  let key (x : Bucket) : List Nat := [b2n x.yielded, x.urgency, x.since, x.slot, x.crew, x.ca.toNat]
  (key a < key b)

/-- The oldest record of some. -/
def oldestRecord (l : List Pack) : Option Pack := minBy (fun (a b : Pack) => a.cutAt < b.cutAt) l

/-- The choice among buckets of one class. -/
def chooseBucket (l : List Bucket) (aged : Bool) : Choice :=
  let starved := l.filter (fun b => 1024 ≤ b.wait)
  match minBy (fun (a b : Bucket) => b.wait < a.wait) starved with
  | some b => .take b (if aged then .aged else .starved)
  | none => match minBy bucketLt l with
    | some b => .take b (if aged then .aged else .ordinary)
    | none => .nothing

/-- One decision of one pipe (R98); a pipe's own record that the cluster stop cut comes first, at thaw (R105, R310). -/
def State.decide_ (s : State) (core pipe : Nat) : Choice :=
  let bs := s.buckets core
  let rs := s.records core
  match rs.find? (fun p => p.pipe == pipe && p.byStop) with
  | some p => .resume p
  | none =>
    match (if bs.any (·.cls == 0) then none else rs.find? (·.pipe == pipe)) with
    | some p => .resume p
    | none =>
      let c := (bs.map (·.cls) ++ rs.map (·.cls)).foldl min 3
      let aged := bs.filter (fun b => b.cls == 2 && 65536 ≤ b.behind pipe)
      if c == 1 && !aged.isEmpty then chooseBucket aged true
      else match oldestRecord (rs.filter (·.cls == c)) with
        | some p => .resume p
        | none => chooseBucket (bs.filter (·.cls == c)) false

/-! ## Forming and resuming packs (R15, R99, R105) -/

/-- Threads of a bucket for a pack of at most n (R48, R99). -/
def Bucket.members (b : Bucket) (n : Nat) : List Thread :=
  match b.kind with
  | .rendezvous => b.threads
  | _ =>
    let names := b.threads.map (·.name)
    let kept := b.threads.findSome? (fun t => if !t.kin.isEmpty && t.kin.all names.contains then some t.kin else none)
    let first := match kept with | some k => b.threads.filter (fun t => k.contains t.name) | none => []
    (first ++ b.threads.filter (fun t => !((first.map (·.name)).contains t.name))).take n

/-- The launch id and thread selection of a core's trace register (R314): the earliest-started matching workgroup. -/
def State.tracedGroup (s : State) (core : Nat) : Option Workgroup :=
  let r := s.dbg (clusterOf core) (0x300 + 8 * (core % 4))
  if !(bit r 63) then none
  else minBy (fun (a b : Workgroup) => a.startedAt < b.startedAt)
    (s.work.groups.filter (fun g => g.core == core && g.away.isNone && g.lid == bits r 59 44 && (!(bit r 62) || g.w % 2 ^ 16 == bits r 43 28)))

/-- ISSUE record of a pack that holds a selected thread, at a clause entry and at a resumption, and the count of clauses issued for
SUMMARY records (R313, R314). -/
def State.traceIssue (s : State) (p : Pack) (fresh : Bool) : State :=
  let r := s.dbg (clusterOf p.core) (0x300 + 8 * (p.core % 4))
  if !(bit r 63) then s
  else
    let sel (g : Workgroup) (n : ThreadName) : Bool := n.slot == g.slot && (!(bit r 61) || n.wti / 32 == bits r 27 21)
    let s1 := s.countWords p.core p.slot 0
    let s2 := { s1 with control := { s1.control with counts := s1.control.counts.map (fun x =>
      if x.core == p.core && x.slot == p.slot then { x with clauses := x.clauses + b2n fresh } else x) } }
    match s.tracedGroup p.core with
    | some g =>
      if p.threads.any (sel g) then
        s2.debugRecord (clusterOf p.core) (recBytes (s.recHeader 0x05 (clusterOf p.core) (p.core % 4) p.threads.head? ++
          [p.wi * 2 ^ 60 + p.ca.toNat, (p.threads.length - 1) * 2 ^ 59 + p.pipe * 2 ^ 57 + p.cls * 2 ^ 55, 0, 0]))
      else s2
    | none => s2

/-! ## PICK entries (R316, R317) -/

def State.putPick (s : State) (x : PickRec) : State :=
  { s with control := { s.control with picks := x :: s.control.picks.filter (fun y => !(y.core == x.core && y.pipe == x.pipe)) } }

/-- Word 0 of a PICK entry. -/
def pickWord (p : Pack) (run : Nat) : Nat :=
  trailWord 1 (clusterOf p.core) p.core p.slot ((p.threads.map (·.wti)).headD 0)
    (p.pipe * 2 ^ 32 + p.crew * 2 ^ 30 + (p.threads.length - 1) * 2 ^ 25 + run)

/-- Does a choice extend the pipe's entry? -/
def PickRec.extends (x : PickRec) (p : Pack) : Bool :=
  0 < x.len && x.slot == p.slot && x.crew == p.crew && x.ca == p.ca && x.size == p.threads.length && x.len + 1 < 2 ^ 25

/-- Must the choice wait for room in the trail log (R318)? -/
def State.pickWaits (s : State) (p : Pack) : Bool :=
  let q := clusterOf p.core
  s.logging q && !(s.trailRoom q) && p.cls != 0 && bit (s.dbg q 0x30) 62 &&
  !(match s.pickOf p.core p.pipe with | some x => x.extends p | none => false)

/-- Log a choice. -/
def State.logPick (s : State) (p : Pack) : State :=
  let q := clusterOf p.core
  if !(s.logging q) then s
  else
    let total := s.pickTotal p.core p.pipe + 1
    let old := s.pickOf p.core p.pipe
    let (base, size, _, wp) := s.trailBuf q
    let fresh (s : State) : State :=
      if s.trailRoom q then
        (s.trailRaw q (pickWord p 1) p.ca.toNat).putPick
          { core := p.core, pipe := p.pipe, total := total, slot := p.slot, crew := p.crew, ca := p.ca, size := p.threads.length, len := 1, at_ := wp }
      else s.trailClose q
    match old with
    | some x =>
      if x.extends p then
        (s.setMem (s.store.mem.write (base + x.at_ % size) (leBytes (setBits (leVal (s.store.mem.read (base + x.at_ % size) 8)) 24 0 (x.len + 1)) 8))).putPick
          { x with total := total, len := x.len + 1 }
      else fresh s
    | none => fresh s

/-- Next PICK entry of a pipe from an offset on, among `fuel` entries; none at a HORIZON. -/
def State.nextPick (s : State) (core pipe : Nat) : Nat → Nat → Option Nat
  | 0, _ => none
  | fuel + 1, off =>
    let w0 := (s.trailAt (clusterOf core) off).1
    let (_, size, _, _) := s.trailBuf (clusterOf core)
    if w0 / 2 ^ 60 == 15 || w0 / 2 ^ 60 == 0 then none
    else if w0 / 2 ^ 60 == 1 && bits w0 53 52 == core % 4 && bits w0 33 32 == pipe then some off
    else s.nextPick core pipe fuel ((off + 16) % size)

/-- The logged choice a replaying pipe makes next: entry offset, choices made from it, words of the entry. -/
def State.loggedPick (s : State) (core pipe : Nat) : Option (Nat × Nat × Nat × Nat) :=
  let q := clusterOf core
  let (_, size, rp, _) := s.trailBuf q
  let x := match s.pickOf core pipe with | some x => (x.at_, x.len) | none => ((rp + size - 16) % size, 2 ^ 25)
  let (w0, w1) := s.trailAt q x.1
  if x.2 < bits w0 24 0 then some (x.1, x.2, w0, w1)
  else match s.nextPick core pipe (size / 16) ((x.1 + 16) % size) with
    | some off => let (w0, w1) := s.trailAt q off; some (off, 0, w0, w1)
    | none => none

/-- The bucket and pack size that a replaying pipe takes (R317). -/
def State.replayChoice (s : State) (core pipe : Nat) : Option (Bucket × Nat × PickRec) :=
  match s.loggedPick core pipe with
  | none => none
  | some (off, k, w0, w1) =>
    let n := bits w0 29 25 + 1
    let fits (b : Bucket) : Bool := b.slot == bits w0 51 46 && b.crew == bits w0 31 30 && b.ca.toNat == w1 && n ≤ b.threads.length
    (((s.buckets core).find? fits)).map (fun b =>
      (b, n, { core := core, pipe := pipe, total := s.pickTotal core pipe + 1, slot := b.slot, crew := b.crew, ca := b.ca, size := n, len := k + 1, at_ := off }))

/-! ## A pipe takes a pack -/

/-- The pack of a bucket on a pipe. -/
def Bucket.pack (b : Bucket) (core pipe n : Nat) : Option Pack :=
  let ths := sortBy (fun (a c : Thread) => nameLt a.name c.name) (b.members n)
  match ths with
  | [] => none
  | t :: _ =>
    let (h, pa, pb) : Option Word64 × BitVec 28 × BitVec 28 := match b.kind, t.solo with
      | .alone, some x => (x.hdr, x.pa, x.pb)
      | _, _ => (t.hdr, 0, 0)
    h.map (fun h => { core := core, pipe := pipe, slot := b.slot, crew := b.crew, cls := b.cls, threads := ths.map (·.name), ca := b.ca, hdr := h
                      wi := t.pc.wi, pa := pa, pb := pb, xrem := none, xafter := [], byStop := false, cutAt := 0, skid := 0, spawned := [], stalled := 0 })

/-- A pack begins its clause (`fresh`), or goes on in it, on its pipe. -/
def State.runPack (s : State) (p : Pack) (fresh : Bool) : State :=
  let s1 := { s with work := { s.work with packs := s.work.packs ++ [p] } }
  (s1.modThreads (fun t => p.threads.contains t.name) (fun t => 
    { t with st := .issuing, hdr := some p.hdr, solo := none, yielded := false, released := false, kin := [] })).traceIssue p fresh

/-- The pack of a chosen bucket begins on its pipe. -/
def State.takePack (s : State) (b : Bucket) (p : Pack) : State := s.runPack p (b.kind != .alone)

/-- A suspended pack resumes on a pipe (R105). -/
def State.resumePack (s : State) (p : Pack) (pipe : Nat) : State :=
  let s1 := { s with work := { s.work with resumes := s.work.resumes.filter (· != p) } }
  s1.runPack { p with pipe := pipe, byStop := false, skid := 0 } false

/-- May a core's picker form packs at all (R310, R332)? -/
def State.pickerRuns (s : State) (core : Nat) : Bool := !(s.stopped core) && !s.control.fw.powerOff

/-- May a pipe decide now: its core's decisions in one cycle are made in pipe order (R98)? -/
def State.inPipeOrder (s : State) (core pipe : Nat) : Bool := !(s.work.decided.any (fun x => x.1 == core && x.2.1 == s.now && pipe ≤ x.2.2))

/-- A pipe has decided. -/
def State.decidedBy (s : State) (core pipe : Nat) : State :=
  { s with work := { s.work with decided := (core, s.now, pipe) :: s.work.decided.filter (·.1 != core) } }

/-- The decision of a free pipe, restricted to choices that a test admits. -/
def State.pickIf (s : State) (core pipe : Nat) (ok : Choice → Bool) : State :=
  if !(s.pickerRuns core) || (s.pack? core pipe).isSome || !(s.inPipeOrder core pipe) then s
  else
    let s1 := s.enterAll core
    let q := clusterOf core
    if s1.replaying q then
      match s1.replayChoice core pipe with
      | some (b, n, x) => match b.pack core pipe n with
        | some p => if ok (.take b .ordinary) then (((s1.takePack b p).putPick x).replayMoved q).decidedBy core pipe else s1
        | none => s1
      | none => match s1.decide_ core pipe with
        | .resume p => if ok (.resume p) then (s1.resumePack p pipe).decidedBy core pipe else s1
        | _ => s1
    else
      match s1.decide_ core pipe with
      | .nothing => s1
      | .resume p => if ok (.resume p) then (s1.resumePack p pipe).decidedBy core pipe else s1
      | .take b why =>
        match b.pack core pipe 32 with
        | none => s1
        | some p => if !(ok (.take b why)) || s1.pickWaits p then s1 else ((s1.takePack b p).logPick p).decidedBy core pipe

/-- PICKER_DECISION (R98). -/
def execPickerDecision (core pipe : Nat) (s : State) : Host.Outcome State Fault Refusal := .next (s.pickIf core pipe (fun _ => true))

/-- Is a choice this bucket, for this reason? -/
def Choice.isFor (c : Choice) (slot crew : Nat) (ca : VAddr) (why : Why) : Bool :=
  match c with
  | .take b w => b.slot == slot && b.crew == crew && b.ca == ca && w == why
  | _ => false

/-- The first free pipe of a core whose decision is a bucket for a reason. -/
def State.pipeFor (s : State) (core slot crew : Nat) (ca : VAddr) (why : Why) : Option Nat :=
  (List.range 4).find? (fun p => (s.pack? core p).isNone && s.inPipeOrder core p && ((s.enterAll core).decide_ core p).isFor slot crew ca why)

/-- AGING_PROMOTION (R39): the next decision takes a BACKGROUND bucket that has waited 65,536 cycles behind INTERACTIVE issue. -/
def execAgingPromotion (core slot crew : Nat) (ca : BitVec 57) (s : State) : Host.Outcome State Fault Refusal :=
  .next (match s.pipeFor core slot crew ca .aged with
  | some p => s.pickIf core p (fun c => c.isFor slot crew ca .aged)
  | none => s)

/-- STARVED_BUCKET (R100): the next decision takes a bucket that has waited 1,024 cycles in its class. -/
def execStarvedBucket (core slot crew : Nat) (ca : BitVec 57) (s : State) : Host.Outcome State Fault Refusal :=
  .next (match s.pipeFor core slot crew ca .starved with
  | some p => s.pickIf core p (fun c => c.isFor slot crew ca .starved)
  | none => s)

/-- CLASS_PREEMPTION (R96, R105): STRIP work that is ready cuts a pack of another class at its instruction boundary. A TSPAWN that some
threads have done is no boundary. -/
def execClassPreemption (core pipe : Nat) (s : State) : Host.Outcome State Fault Refusal :=
  .next (
    if !(s.pickerRuns core) then s
    else
      let s1 := s.enterAll core
      match s1.pack? core pipe with
      | some p =>
        if p.cls != 0 && p.spawned.isEmpty && (s1.buckets core).any (·.cls == 0) then s1.cutPack core pipe false else s1
      | none => s1)

/-! ## Spill and refill (R101 to R104) -/

/-- Registers that the current word of a thread's executing pack reads. -/
def State.wordReads (s : State) (n : ThreadName) : List Nat :=
  match s.work.packs.find? (fun p => p.threads.contains n) with
  | none => []
  | some p =>
    let w := s.peek p.core (s.asidOf n) (s.packLevel p) (wordAddr p.ca p.wi)
    match decode w with
    | .ok i => (ctxOf p i).reads
    | .error _ => []

/-- LIVE registers of a thread that the core may spill. -/
def State.spillable (s : State) (t : Thread) : List Nat :=
  let rd := s.wordReads t.name
  t.liveList.filter (fun v => !(rd.contains v))

/-- The registers that a victim spills next: up to eight of them, the least recently used first (R103). -/
def State.victimRegs (s : State) (t : Thread) : List Nat :=
  let l := s.spillable t
  (l.filter (fun v => !(t.used.contains v)) ++ t.used.reverse.filter l.contains).take 8

/-- Excess of a thread's live registers over its crew's budget (R18). -/
def State.excess (s : State) (t : Thread) : Nat :=
  match s.launch? t.lid with
  | some l => (match l.crews[t.crew]? with | some c => t.liveList.length - c.bud | none => 0)
  | none => 0

/-- Is a's spill to come before b's (R103)? -/
def State.spillBefore (s : State) (a b : Thread) : Bool :=
  let issuing (t : Thread) : Bool := s.work.packs.any (fun p => p.threads.contains t.name)
  let strip (t : Thread) : Bool := s.stripMode && s.clsOf t.name == 0
  let key (t : Thread) : List Nat :=
    [b2n (strip t), b2n (issuing t), b2n (s.excess t == 0), 2 ^ 32 - s.excess t, if s.excess t == 0 then t.issuedAt else 0]
  key a < key b

/-- Does a STRIP word of a core stall for registers (R102, R103)? -/
def State.stripStalls (s : State) (core : Nat) : Bool :=
  s.work.packs.any (fun p => p.core == core && p.cls == 0 && 0 < p.stalled &&
    (match p.threads with
      | n :: _ => (match decode (s.peek core (s.asidOf n) (s.packLevel p) (wordAddr p.ca p.wi)) with
        | .ok i => !((ctxOf p i).regRoom s)
        | .error _ => false)
      | [] => false))

/-- Does the core spill now (R103)? -/
def State.spills (s : State) (core : Nat) : Bool :=
  let (_, shared) := s.freeRegs core
  shared < 2048 || (s.work.spilling.contains core && shared < 4096) || s.stripStalls core

/-- Can a thread's next register be spilled: its slot is reached, or its fault is still to be reported? While its spill is parked, or has a
fatal outcome, the core chooses another victim (R104). -/
def State.slotOpen (s : State) (t : Thread) : Bool :=
  match s.victimRegs t with
  | [] => false
  | v :: _ =>
    let va := s.tsaOf t.name + 4 * v
    let asid := s.asidOf t.name
    match s.xlat (.core t.name.core) asid va 1 { write := true, thread := true, bytes := 4 } with
    | .ok _ _ => true
    | .park _ => !(s.store.faults.any (fun f => f.asid == asid && f.kind == 6 && f.va / 4096 == va / 4096))
    | .trap _ => false

/-- Threads of a core that may be victims: they hold a LIVE register of the pool concerned, which is any pool when a STRIP word stalls and the
shared or single pool otherwise; a STRIP thread in strip mode only when no other class holds any (R103). -/
def State.victims (s : State) (core : Nat) : List Thread :=
  let here := s.work.threads.filter (fun t => t.name.core == core && t.name.ctx == 0)
  let concerned (t : Thread) : Bool := s.stripStalls core || t.liveList.any (fun v => !(t.reserve.contains v))
  here.filter (fun t => concerned t && s.slotOpen t &&
    (!(s.stripMode) || s.clsOf t.name != 0 || !(here.any (fun x => s.clsOf x.name != 0 && !(x.liveList.isEmpty)))))

/-- REGISTER_SPILL (R103): the next victim spills the least recently used of its LIVE registers, up to eight. -/
def execRegisterSpill (n : ThreadName) (regs : List Nat) (s : State) : Host.Outcome State Fault Refusal :=
  .next (match s.thread? n with
  | none => s
  | some t =>
    let l := s.victims n.core
    if !(s.spills n.core) || regs != s.victimRegs t || !(l.any (·.name == n)) || l.any (fun x => s.spillBefore x t) then s
    else
      let s0 := regs.foldl (fun s v => s.spill n v) s
      let s1 := if s.midWord n then s0 else s0.takeDue n
      let (_, shared) := s1.freeRegs n.core
      let rest := s1.work.spilling.filter (· != n.core)
      { s1 with work := { s1.work with spilling := if shared < 4096 then n.core :: rest else rest } })

/-- Does a thread wait for a SPILLED register, or the word of its pack read it (R104)? -/
def State.wants (s : State) (t : Thread) (r : Nat) : Bool :=
  t.reg? r == some .spilled && (t.st == .blocked (.operand r) || (s.wordReads t.name).contains r)

/-- REGISTER_REFILL (R101, R104): a register that the thread's present word reads comes back from its spill slot, or its access parks and
the thread is BLOCKED, or the thread traps at the word. A watchpoint that the refill fires is taken after the word. -/
def execRegisterRefill (n : ThreadName) (r : Nat) (s : State) : Host.Outcome State Fault Refusal :=
  .next (match s.thread? n, s.work.packs.find? (fun p => p.threads.contains n) with
  | some t, some p =>
    if !(s.wants t r) then s
    else
      let pc : Pc := { ca := p.ca, wi := p.wi }
      let word := s.peek p.core (s.asidOf n) (s.packLevel p) (wordAddr p.ca p.wi)
      let va := s.tsaOf n + 4 * r
      match s.xlat (.core n.core) (s.asidOf n) va 1 { write := false, thread := true, bytes := 4 } with
      | .park l => (s.parkFault (s.asidOf n) 6 l va).2.modThread n (fun t => { t with st := .blocked (.operand r) })
      | .trap info => s.trapAt n { info with oreg := r } pc word p.pa p.pb
      | .ok pa _ =>
        if s.poisoned pa 4 then s.trapAt n { trapOf .eccUncorr 0 with paddr := pa, oreg := r, vaddr := BitVec.ofNat 64 va } pc word p.pa p.pb
        else
          let (b, s1) := (s.walkSeen (.core n.core) (s.asidOf n) va).homeRead n.core pa 4
          let (fired, s2) := s1.watch (agentThread n) none pa 4 true false (fun _ => true)
          let s3 := s2.modThread n (fun t => { t with regs := putReg t.regs r (.live (BitVec.ofNat 32 (leVal b))) })
          (watchCause fired).foldl (fun s info => s.owe n info pc word) (s3.allocRegs s n [r])
  | _, _ => s)

end Sys2Proof.Machine
end

