-- ==== Sys2Proof/Machine/Clock.lean ====
section
/-! DEFINITION. The tick of the clock: time and the counters of waits (R39, R97, R112, R179, R232, R234, R247, R429). -/

namespace Sys2Proof.Machine

/-! ## The tick (R247, R97, R39) -/

/-- INC of R247, in units of 2^-72 ns. -/
def Clock.inc (c : Clock) : Nat := (((2 ^ 74 : Nat) + c.adj.toInt * (2 ^ 34 : Nat)) / 5).toNat

/-- Highest class that a pipe of a core could choose: of its buckets and its suspended packs (R97). -/
def State.topClass (s : State) (core : Nat) : Nat := ((s.buckets core).map (·.cls) ++ (s.records core).map (·.cls)).foldl min 3

/-- Cycles that a BACKGROUND thread has been READY behind INTERACTIVE issue, for each pipe (R39). -/
def State.tickBehind (s : State) (t : Thread) : List Nat :=
  (List.range 4).map (fun i => t.behind.getD i 0 + b2n (s.work.packs.any (fun p => p.core == t.name.core && p.pipe == i && p.cls == 1)))

/-- A thread's counters at a cycle. -/
def State.tickThread (s : State) (t : Thread) : Thread :=
  match t.st with
  | .ready =>
    let cls := s.clsOf t.name
    { t with waited := t.waited + b2n (cls ≤ s.topClass t.name.core), behind := if cls == 2 then s.tickBehind t else t.behind }
  | .blocked (.stall _ _ _ _ _) => if (s.stop? (clusterOf t.name.core)).isSome then t else { t with held := t.held + 1 }
  | .blocked _ => { t with held := t.held + 1 }
  | _ => t

/-- A pending unit's waits: cycles with no unit of a higher class pending, and cycles in which its next quarter lacks room in the row
queue (R232, R234). -/
def State.tickUnit (s : State) (u : MatUnit) : MatUnit :=
  if u.left.isEmpty then u
  else
    let below := s.engines.units.any (fun x => x.cluster == u.cluster && x.cls < u.cls && !x.left.isEmpty)
    { u with waited := u.waited + b2n (!below), queueWait := if u.push && !(s.pushRoom u 0) then u.queueWait + 1 else 0 }

/-- Cycles of the detection stall of an access that waits after its word (R161, R179). -/
def State.tickAccess (s : State) (o : Outstanding) : Outstanding :=
  if o.stall.isNone || (s.stop? (clusterOf o.thread.core)).isSome then o else { o with held := o.held + 1 }

/-- ONE CYCLE (R247, R429): the counters of time, of the waits and of the trace advance. -/
def State.tick (s : State) : State :=
  if s.control.fw.powerOff then s else
  let s := s.barRetry
  let clock := { s.clock with dtc := s.clock.dtc + BitVec.ofNat 136 s.clock.inc, clk := s.clock.clk + 1 }
  let blocked (core slot : Nat) : Nat := (s.work.threads.filter (fun t => t.name.core == core && t.name.slot == slot &&
    (match t.st with | .blocked _ => true | _ => false))).length
  { s with
    clock := clock
    store := { s.store with outst := s.store.outst.map s.tickAccess }
    work := { s.work with threads := s.work.threads.map s.tickThread
                          packs := s.work.packs.map (fun p => if p.stalled == 0 then p else
                            { p with stalled := p.stalled + 1, full := if p.full == 0 then 0 else p.full + 1 }) }
    engines := { s.engines with units := s.engines.units.map s.tickUnit }
    control := { s.control with counts := s.control.counts.map (fun x => { x with blocked := min (2 ^ 64 - 1) (x.blocked + blocked x.core x.slot) }) } }

/-- DTC_TICK (R247): one cycle passes. -/
def execDtcTick (s : State) : Host.Outcome State Fault Refusal := .next s.tick

end Sys2Proof.Machine
end

