-- ==== Sys2Proof/Machine/Cross.lean ====
section
/-! DEFINITION. The meanings of the cross-lane words: every source is read before any destination is written (R139, R346, R347,
R400, R410, R421, R437). -/

namespace Sys2Proof.Machine

/-- SQIX of a thread (R14). -/
def sqix (n : ThreadName) : Nat := n.wti % 32

/-- What a cross-lane word sees: the operands of each active logical lane of the squad (R16). -/
abbrev Lanes := List (Option VIn)

/-- The lanes of a rendezvous pack. -/
def lanesOf (c : Ctx) (o : VOp) (sp : VSpec) (s : State) : Lanes :=
  let act := c.actives s
  (List.range 32).map (fun j =>
    match act.find? (fun n => sqix n == j) with
    | some n => (s.thread? n).map (vecIn c o sp)
    | none => none)

/-- Operands of lane j; none for an inactive lane. -/
def lane (l : Lanes) (j : Nat) : Option VIn := l.getD j none

/-- A cross-lane word: each active thread's result from all lanes, its own index and its fill value. -/
def crossBody (f : Lanes → Nat → VIn → Option Nat → VOut) : BodyFn := fun c s =>
  match vecSpec c.instr with
  | none => .stall
  | some (o, sp) =>
    let l := lanesOf c o sp s
    eachThread noNeed (fun c s t =>
        let fill := if pfV c.half && pfF4v c.half then
            some (srcField (hLit32 c.pack.hdr) t o.ty (.s (dstCount sp)) (pfFourth c.half)) else none
        vecWrite o sp s t (f l (sqix t.name) (vecIn c o sp t) fill)) (vecOff o sp) c s

/-- The value of lane L, or the fill value, or 0 (R347, R410). -/
def laneOr (l : Lanes) (k : Option Nat) (fill : Option Nat) : Nat :=
  match k with
  | none => fill.getD 0
  | some j => match lane l j with | some y => y.a | none => fill.getD 0

/-- PERM (R410). -/
def fnPerm (l : Lanes) (j : Nat) (x : VIn) (fill : Option Nat) : VOut :=
  let k := bits x.b 4 0
  let from_ : Option Nat := match x.sub with
    | 0 => some k
    | 1 => some (j ^^^ k)
    | 2 => if k ≤ j then some (j - k) else none
    | _ => if j + k ≤ 31 then some (j + k) else none
  { val := laneOr l from_ fill }

/-- BCST (R347). -/
def fnBcst (l : Lanes) (_ : Nat) (_ : VIn) (fill : Option Nat) : VOut :=
  { val := laneOr l ((l.findSome? id).map (fun y => bits y.b 4 0)) fill }

/-- VOTE (R437). -/
def fnVote (l : Lanes) (_ : Nat) (x : VIn) (_ : Option Nat) : VOut :=
  let votes := l.map (fun y => y.map (fun y => y.t.pred x.fa))
  let all := votes.all (fun v => v != some false)
  let any := votes.any (fun v => v == some true)
  match x.sub with
  | 0 => { preds := [(x.d, all)] }
  | 1 => { preds := [(x.d, any)] }
  | 2 => { preds := [(x.d, all || !any)] }
  | _ => { val := ((List.range 32).map (fun j => if votes.getD j none == some true then 2 ^ j else 0)).sum }

/-- MATCH (R400). -/
def fnMatch (l : Lanes) (_ : Nat) (x : VIn) (_ : Option Nat) : VOut :=
  let same := (List.range 32).filter (fun j => match lane l j with | some y => y.a == x.a | none => false)
  { val := if x.sub == 0 then (same.map (2 ^ ·)).sum else same.headD 0 }

/-! ## Reductions (R139, R421) -/

/-- Adjacent pairs combined, with the flags raised. -/
def pairUp (op : Nat → Nat → Flagged Nat) : List Nat → List Nat × Flags
  | a :: b :: r =>
    let (v, f) := op a b
    let (l, g) := pairUp op r
    (v :: l, f ||| g)
  | l => (l, 0)

/-- The tree of R139: the levels v[0] to v[k], and the flags of its applications. -/
def treeLevels (op : Nat → Nat → Flagged Nat) : Nat → List Nat → List (List Nat) × Flags
  | 0, l => ([l], 0)
  | k + 1, l =>
    let (m, f) := pairUp op l
    let (rest, g) := treeLevels op k m
    (l :: rest, f ||| g)

/-- The scan's combining steps for n lanes from `base`, widest block first (R139). -/
def scanCover (op : Nat → Nat → Flagged Nat) (v : List (List Nat)) : Nat → Nat → Nat → Option Nat → Flags → Nat × Flags
  | 0, _, _, acc, fl => (acc.getD 0, fl)
  | s + 1, n, base, acc, fl =>
    if 2 ^ s ≤ n then
      let blk := (v.getD s []).getD (base / 2 ^ s) 0
      let (r, f) := match acc with | none => (blk, 0) | some a => op a blk
      scanCover op v s (n - 2 ^ s) (base + 2 ^ s) (some r) (fl ||| f)
    else scanCover op v s n base acc fl

/-- Scan result of lane i. -/
def scanLane (op : Nat → Nat → Flagged Nat) (v : List (List Nat)) (i : Nat) : Nat × Flags := scanCover op v 6 (i + 1) 0 none 0

/-- One application of a reduction operation on patterns. -/
def redOp (ty sub : Nat) (c : FpCtl) (a b : Nat) : Flagged Nat :=
  if ty < 4 then
    let n := elemBits ty
    let x := readInt (tySigned ty) n a
    let y := readInt (tySigned ty) n b
    (match sub with
     | 0 => (a + b) % 2 ^ n
     | 1 => if y < x then b else a
     | 2 => if x < y then b else a
     | 3 => a &&& b
     | _ => a ||| b, 0)
  else
    let f := fmtOf ty
    let c' : FpCtl := { c with sat := false }
    let noFlush : FpCtl := { c' with ftz := false }
    match sub with
    | 0 =>
      let (x, fx) := srcFp f noFlush a
      let (y, fy) := srcFp f noFlush b
      if x.isNan || y.isNan then (f.nan, fx ||| fy)
      else
        let r := x.add c.mode y
        if r.isNan then (f.nan, fx ||| fy ||| flagIV)
        else let (v, fr) := roundEx f c' r; (v, fx ||| fy ||| fr)
    | 1 => fpPick f noFlush false true a b
    | _ => fpPick f noFlush true true a b

/-- The identity that an inactive lane contributes (R139). -/
def redIdentity (ty sub : Nat) : Nat :=
  let n := elemBits ty
  if ty < 4 then
    match sub with
    | 0 => 0
    | 1 => if tySigned ty then 2 ^ (n - 1) - 1 else 2 ^ n - 1
    | 2 => if tySigned ty then 2 ^ (n - 1) else 0
    | 3 => 2 ^ n - 1
    | _ => 0
  else
    let f := fmtOf ty
    match sub with
    | 0 => f.zero true
    | 1 => f.inf false
    | _ => f.inf true

/-- Inputs of the tree and the flags of their flushes. -/
def redInputs (l : Lanes) (ty sub : Nat) : List Nat × Flags :=
  let one (y : Option VIn) : Flagged Nat := match y with
    | none => (redIdentity ty sub, 0)
    | some y =>
      if ty < 4 then (y.a, 0)
      else (flushed (fmtOf ty) y.ctl y.a, flagIf (y.ctl.ftz && (fmtOf ty).subnormal y.a) flagDN)
  let r := l.map one
  (r.map (·.1), r.foldl (fun f x => f ||| x.2) 0)

/-- The setting of the lowest active thread (R421). -/
def redCtl (l : Lanes) : FpCtl := match l.findSome? id with | some y => y.ctl | none => ctlRn

/-- REDX (R421). -/
def fnRedx (l : Lanes) (_ : Nat) (x : VIn) (_ : Option Nat) : VOut :=
  let (ins, f0) := redInputs l x.ty x.sub
  let (v, f1) := treeLevels (redOp x.ty x.sub (redCtl l)) 5 ins
  { val := (v.getD 5 []).headD 0, flags := f0 ||| f1 }

/-- A result of a type: a NaN is the canonical one (R123). -/
def canonical (ty r : Nat) : Nat := if 4 ≤ ty && ((fmtOf ty).val r).isNan then (fmtOf ty).nan else r

/-- SCANX (R421): the flags are those of the whole operation, every lane's combining steps among them. -/
def fnScanx (l : Lanes) (j : Nat) (x : VIn) (_ : Option Nat) : VOut :=
  let op := redOp x.ty x.sub (redCtl l)
  let (ins, f0) := redInputs l x.ty x.sub
  let (v, f1) := treeLevels op 5 ins
  let f2 := (List.range 32).foldl (fun f i => f ||| (scanLane op v i).2) (0 : Flags)
  { val := canonical x.ty (scanLane op v j).1, flags := f0 ||| f1 ||| f2 }

def bodyPerm (_ : VOp) : BodyFn := crossBody fnPerm
def bodyBcst (_ : VOp) : BodyFn := crossBody fnBcst
def bodyVote (_ : VOp) : BodyFn := crossBody fnVote
def bodyRedx (_ : VOp) : BodyFn := crossBody fnRedx
def bodyScanx (_ : VOp) : BodyFn := crossBody fnScanx
def bodyMatch (_ : VOp) : BodyFn := crossBody fnMatch

/-- PERM (R410). -/
def execPerm (o : VOp) (s : State) : Host.Outcome State Fault Refusal := .next (runWord (.perm o) (bodyPerm o) s)

/-- BCST (R346). -/
def execBcst (o : VOp) (s : State) : Host.Outcome State Fault Refusal := .next (runWord (.bcst o) (bodyBcst o) s)

/-- VOTE (R437). -/
def execVote (o : VOp) (s : State) : Host.Outcome State Fault Refusal := .next (runWord (.vote o) (bodyVote o) s)

/-- REDX (R421). -/
def execRedx (o : VOp) (s : State) : Host.Outcome State Fault Refusal := .next (runWord (.redx o) (bodyRedx o) s)

/-- SCANX (R421). -/
def execScanx (o : VOp) (s : State) : Host.Outcome State Fault Refusal := .next (runWord (.scanx o) (bodyScanx o) s)

/-- MATCH (R400). -/
def execMatch (o : VOp) (s : State) : Host.Outcome State Fault Refusal := .next (runWord (.match o) (bodyMatch o) s)

end Sys2Proof.Machine
end

