-- ==== Sys2Proof/Machine/Queue.lean ====
section
/-! DEFINITION. Hardware queues: descriptors, spill, blocked threads, deadlock, amplifying pushes and the queue words (R117 to R120,
R275 to R277, R415 to R417). -/

namespace Sys2Proof.Machine

/-! ## Descriptors (R117) -/

/-- The content of a queue descriptor. -/
structure Queue where
  cap : Nat
  esz : Nat
  npr : Nat
  nco : Nat
  base : Nat
  sv : Bool
  spa : Nat
  scap : Nat
  scnt : Nat
  tail : Nat
  head : Nat
  blkp : Nat
  blkc : Nat
  pex : Nat
  clsd : Bool
  spl : Bool
  dl : Bool
deriving DecidableEq, Repr

/-- The descriptor that words 0 to 5 hold. -/
def queueOfWords (w0 w1 w2 w3 w4 w5 : Nat) : Queue :=
  { cap := bits w0 63 52, esz := bits w0 48 46, npr := bits w0 45 40, nco := bits w0 39 34, base := bits w0 19 0
    sv := bit w1 63, spa := bits w1 56 0, scap := bits w2 63 32, scnt := bits w2 31 0, tail := bits w3 63 32, head := bits w3 31 0
    blkp := bits w4 63 32, blkc := bits w4 31 0, pex := bits w5 15 10, clsd := bit w5 9, spl := bit w5 1, dl := bit w5 0 }

def State.readQueue (s : State) (core a : Nat) : Queue :=
  let w (i : Nat) : Nat := s.scratchVal core (a + 8 * i) 8
  queueOfWords (w 0) (w 1) (w 2) (w 3) (w 4) (w 5)

/-- The 64 bytes of a descriptor. -/
def Queue.bytes (q : Queue) : List Byte :=
  recBytes [q.cap * 2 ^ 52 + q.esz * 2 ^ 46 + q.npr * 2 ^ 40 + q.nco * 2 ^ 34 + q.base, b2n q.sv * 2 ^ 63 + q.spa,
    q.scap * 2 ^ 32 + q.scnt, q.tail % 2 ^ 32 * 2 ^ 32 + q.head % 2 ^ 32, q.blkp * 2 ^ 32 + q.blkc,
    q.pex * 2 ^ 10 + b2n q.clsd * 2 ^ 9 + b2n q.spl * 2 + b2n q.dl, 0, 0]

/-- Write a descriptor in one step at the scratchpad. -/
def State.writeQueue (s : State) (core a : Nat) (q : Queue) : State :=
  ((s.scratchStore ((s.groupAt core a).elim 0 (·.lid)) core a q.bytes).watch agentDevice (some core) a 64 true true (fun _ => true)).2

/-- Bytes of an entry. -/
def Queue.size (q : Queue) : Nat := 8 * (q.esz + 1)

/-- Entries in the queue, and in its entry array. -/
def Queue.count (q : Queue) : Nat := (q.tail + 2 ^ 32 - q.head) % 2 ^ 32
def Queue.inArray (q : Queue) : Nat := q.count - q.scnt

/-- Place of entry number n in the entry array, from the allocation's base, and in the spill region (DEDUCED, log 27). -/
def Queue.slot (q : Queue) (n : Nat) : Nat := q.base + n % 2 ^ 32 % q.cap * q.size
def Queue.spillSlot (q : Queue) (n : Nat) : Nat := q.spa + n % 2 ^ 32 % q.scap * q.size

/-! ## Entries -/

/-- A queue in use: workgroup, descriptor address. -/
structure QRef where
  g : Workgroup
  a : Nat

/-- Write an entry at the array's tail. -/
def State.appendArray (s : State) (r : QRef) (b : List Byte) : State :=
  let q := s.readQueue r.g.core r.a
  let at_ := r.g.base + q.slot q.tail
  let s1 := ((s.scratchStore r.g.lid r.g.core at_ b).watch agentDevice (some r.g.core) at_ b.length false true (fun _ => true)).2
  s1.writeQueue r.g.core r.a { q with tail := (q.tail + 1) % 2 ^ 32 }

/-- Outcome of an access to the spill region: done, parked on a replayable fault, or fatal (R118, R161; the record's kind is that of a spill,
DEDUCED, log 50). -/
inductive SpillRes (α : Type) where
  | ok (x : α)
  | park (level va : Nat)
  | trap (t : TrapInfo)

/-- Address space of a queue's workgroup. -/
def State.queueAsid (s : State) (r : QRef) : Nat := (s.launch? r.g.lid).elim 0 (·.asid)

/-- Physical addresses of the 8-byte words of an entry of the spill region; an address whose fault still awaits its answer stays parked. -/
def State.spillWords (s : State) (r : QRef) (va : Nat) (write : Bool) : Nat → SpillRes (List Nat)
  | 0 => .ok []
  | k + 1 =>
    let asid := s.queueAsid r
    if s.store.faults.any (fun f => f.asid == asid && f.kind == 6 && f.va / 4096 == va / 4096) then .park 0 va
    else match s.xlat (.unit (clusterOf r.g.core)) asid va 1 { write := write, bytes := 8 } with
      | .park l => .park l va
      | .trap t => .trap t
      | .ok pa _ =>
        if !write && s.poisoned pa 8 then .trap { trapOf .eccUncorr 0 with vaddr := BitVec.ofNat 64 va, paddr := pa }
        else match s.spillWords r (va + 8) write k with
          | .ok l => .ok (pa :: l)
          | x => x

/-- Write an entry at the spill region's tail. -/
def State.appendSpill (s : State) (r : QRef) (b : List Byte) : SpillRes State :=
  let q := s.readQueue r.g.core r.a
  match s.spillWords r (q.spillSlot q.tail) true (b.length / 8) with
  | .park l va => .park l va
  | .trap t => .trap t
  | .ok l =>
    let s1 := ((List.range l.length).zip l).foldl (fun s x =>
      ((s.memWrite r.g.lid x.2 ((b.drop (8 * x.1)).take 8)).watch agentDevice none x.2 8 false true (fun _ => true)).2) s
    .ok (s1.writeQueue r.g.core r.a { q with tail := (q.tail + 1) % 2 ^ 32, scnt := q.scnt + 1, spl := true })

/-- Move the entry at the head of the spill region into the array. -/
def State.refillOne (s : State) (r : QRef) : SpillRes State :=
  let q := s.readQueue r.g.core r.a
  let n := (q.tail + 2 ^ 32 - q.scnt) % 2 ^ 32
  match s.spillWords r (q.spillSlot n) false (q.size / 8) with
  | .park l va => .park l va
  | .trap t => .trap t
  | .ok l =>
    let at_ := r.g.base + q.slot n
    let s1 := l.foldl (fun s pa => (s.watch agentDevice none pa 8 true false (fun _ => true)).2) s
    let s2 := ((s1.scratchStore r.g.lid r.g.core at_ (l.flatMap (fun pa => s.store.mem.read pa 8))).watch agentDevice (some r.g.core) at_ q.size
      false true (fun _ => true)).2
    .ok (s2.writeQueue r.g.core r.a { q with scnt := q.scnt - 1 })

/-- An access to the spill region parks: the device writes the fault record (R161). -/
def State.spillPark (s : State) (r : QRef) (level va : Nat) : State := (s.parkFault (s.queueAsid r) 6 level va).2

/-- Move entries from the head of the spill region into the array while a place is free, at most `fuel`, or until one parks or fails
(R118). -/
def State.refill (s : State) (r : QRef) : Nat → State
  | 0 => s
  | fuel + 1 =>
    let q := s.readQueue r.g.core r.a
    if q.scnt == 0 || q.cap ≤ q.inArray then s
    else match s.refillOne r with
      | .ok s1 => s1.refill r fuel
      | .park l va => s.spillPark r l va
      | .trap _ => s

/-- Take the head entry into a thread's scratch (R417). -/
def State.popTo (s : State) (r : QRef) (dst : Nat) : State :=
  let q := s.readQueue r.g.core r.a
  let b := s.scratchRead r.g.core (r.g.base + q.slot q.head) q.size
  let s1 := (s.watch agentDevice (some r.g.core) (r.g.base + q.slot q.head) q.size true false (fun _ => true)).2
  let s2 := ((s1.scratchStore r.g.lid r.g.core (r.g.base + dst) b).watch agentDevice (some r.g.core) (r.g.base + dst) b.length false true
    (fun _ => true)).2
  (s2.writeQueue r.g.core r.a { q with head := (q.head + 1) % 2 ^ 32 }).refill r q.cap

/-! ## Blocked threads (R119, R120) -/

/-- The threads blocked in pushes of a queue, in the order they blocked: name, consumer form, entry. -/
def State.pushers (s : State) (r : QRef) : List (ThreadName × Bool × List Byte) :=
  let l := s.work.threads.filterMap (fun t => match t.st with
    | .blocked (.push q c src o) =>
      if t.name.core == r.g.core && t.name.slot == r.g.slot && r.g.base + q == r.a then some (o, t.name, c, src) else none
    | _ => none)
  (sortBy (fun a b => a.1 < b.1) l).map (·.2)

/-- The threads blocked in pops: name, destination, predicate. -/
def State.poppers (s : State) (r : QRef) : List (ThreadName × Nat × Option Nat) :=
  let l := s.work.threads.filterMap (fun t => match t.st with
    | .blocked (.pop q d p o) =>
      if t.name.core == r.g.core && t.name.slot == r.g.slot && r.g.base + q == r.a then some (o, t.name, d, p) else none
    | _ => none)
  (sortBy (fun a b => a.1 < b.1) l).map (·.2)

/-- Keep BLKP and BLKC (R117). -/
def State.countBlocked (s : State) (r : QRef) : State :=
  let q := s.readQueue r.g.core r.a
  let p := (s.pushers r).length
  let c := (s.poppers r).length
  if q.blkp == p && q.blkc == c then s else s.writeQueue r.g.core r.a { q with blkp := p, blkc := c }

/-- Set the predicate of a QPOP.E (R416). -/
def State.popPred (s : State) (n : ThreadName) (p : Option Nat) (v : Bool) : State :=
  match p with | some p => s.modThread n (·.setPred p v) | none => s

/-- The trap that a poisoned entry at the head of the array gives a popper (R304). -/
def State.headBad (s : State) (r : QRef) : Option TrapInfo :=
  let q := s.readQueue r.g.core r.a
  let a := r.g.base + q.slot q.head
  if s.scratchPoisoned r.g.core a q.size then some { trapOf .eccUncorr 0 with paddr := a } else none

/-- The service that is due to the first blocked popper: an entry, the end of a closed queue, or the trap of the entry it needs. -/
def State.popperDue (s : State) (r : QRef) (n : ThreadName) (d : Nat) (p : Option Nat) : Option State :=
  let q := s.readQueue r.g.core r.a
  if 0 < q.inArray then
    match s.headBad r with
    | some info => some (s.wakeTrap n info)
    | none => some (((s.popTo r d).popPred n p true).wake n .next [])
  else if q.scnt != 0 then (match s.refillOne r with | .trap t => some (s.wakeTrap n t) | _ => none)
  else if q.clsd then some ((s.popPred n p false).wake n .next [])
  else none

/-- The service that is due to the first blocked pusher, and whether the queue goes on being served. A push that is BLOCKED when the queue
becomes closed takes PROT reason 20 at once, as a push of any form on a closed queue does (DESIGN CHOICE, log 51). -/
def State.pusherDue (s : State) (r : QRef) (l : List (ThreadName × Bool × List Byte)) : State × Bool :=
  let q := s.readQueue r.g.core r.a
  let full := q.cap ≤ q.inArray
  match l with
  | [] => (s, false)
  | (n, _, b) :: _ =>
    if q.clsd then (s.wakeTrap n (protOf 20), true)
    else if !full && q.scnt == 0 then ((s.appendArray r b).wake n .next [], true)
    else
      let spill := q.sv && q.scnt < q.scap
      let dead := full && q.nco ≤ (l.filter (·.2.1)).length
      if spill && (q.scnt != 0 || dead) then
        match s.appendSpill r b with
        | .ok s1 => (s1.wake n .next [], true)
        | .park lv va => (s.spillPark r lv va, false)
        | .trap e => (s.wakeTrap n e, true)
      else if dead then
        let s1 := l.foldl (fun s x => s.wakeTrap x.1 (trapOf .qdeadlock (r.a - r.g.base))) s
        (s1.writeQueue r.g.core r.a { s1.readQueue r.g.core r.a with dl := true }, true)
      else (s, false)

/-- One service that is due at a queue (R118 to R120), and whether there was one: entries move out of the spill region, poppers are served
before pushers. Nothing is served at a poisoned descriptor (R304). -/
def State.queueDue (s : State) (r : QRef) : State × Bool :=
  if s.scratchPoisoned r.g.core r.a 64 then (s, false)
  else
    let s := s.refill r (s.readQueue r.g.core r.a).cap
    match (s.poppers r).head?.bind (fun (n, d, p) => s.popperDue r n d p) with
    | some s1 => (s1, true)
    | none => s.pusherDue r (s.pushers r)

/-- Every service that is due at a queue, at most `fuel`; none under a cluster stop of its core (R36). -/
def State.serveQueue (s : State) (r : QRef) : Nat → State
  | 0 => s.countBlocked r
  | fuel + 1 =>
    if s.stopped r.g.core then (s.deferTo (clusterOf r.g.core) (.queues r.g.core)).countBlocked r
    else match s.queueDue r with
      | (s1, true) => s1.serveQueue r fuel
      | (s1, false) => s1.countBlocked r

/-- Serve every queue of a core. -/
def State.serveCore (s : State) (core : Nat) : State :=
  (s.engines.marks.filter (fun m => m.core == core && m.queue)).foldl (fun s m =>
    match s.groupAt core m.addr with
    | some g => let r : QRef := { g := g, a := m.addr }; s.serveQueue r ((s.pushers r).length + (s.poppers r).length + 1)
    | none => s) s

/-- A queue word, and then what it lets blocked threads do. -/
def queueWord (i : Instr) (body : BodyFn) (s : State) : State :=
  match s.issuing with
  | some p => (runWord i body s).serveCore p.core
  | none => runWord i body s

/-! ## Checks (R415, R417) -/

/-- Checks 1 to 3 of R417 on the descriptor a thread names. -/
def queueAt (s : State) (t : Thread) (off : Nat) (made : Bool) : Except TrapInfo QRef :=
  match s.groupOf t.name with
  | none => .error (protOf 4)
  | some g =>
    let at_ : Word64 := BitVec.ofNat 64 (off + g.role * 2 ^ 32)
    if off % 64 != 0 then .error { trapOf .misalign off with vaddr := at_ }
    else if g.size < off + 64 then .error { protOf 4 with vaddr := at_ }
    else if made && (s.mark? g.core (g.base + off) true).isNone then .error { protOf 18 with vaddr := at_ }
    else if made && s.scratchPoisoned g.core (g.base + off) 64 then .error { trapOf .eccUncorr 0 with vaddr := at_, paddr := g.base + off }
    else .ok { g := g, a := g.base + off }

/-- Are bytes of an address space in one pinned carve-out, page by page (R150, R275)? -/
def State.inCarveout (s : State) (core asid va n : Nat) : Bool :=
  let parts := (List.range ((va + n + 4095) / 4096 - va / 4096)).map (fun i => max va (4096 * (va / 4096 + i)))
  s.store.carveouts.any (fun c => parts.all (fun a =>
    match s.xlat (.core core) asid a 1 { write := true, bytes := 8 } with
    | .ok pa _ => c.1 ≤ pa && pa + (min (va + n) (a / 4096 * 4096 + 4096) - a) ≤ c.1 + c.2
    | _ => false))

/-- Registers of a push entry. -/
def entryRegs (d : RegF) (q : Queue) : List Nat := (List.range (2 * (q.esz + 1))).map (d.toNat + ·)

/-- Checks 4, 6 and 7 of R417 for a push; its entry bytes when they pass. -/
def pushCheck (s : State) (t : Thread) (r : QRef) (d : RegF) (amp : Bool) : Except TrapInfo (List Byte) :=
  let q := s.readQueue r.g.core r.a
  let n := 2 * (q.esz + 1)
  let off := r.a - r.g.base
  if d.toNat % 2 == 1 || 126 < d.toNat + n - 1 then .error (trapOf .illegalField off)
  else if amp && r.g.cls == 0 && q.sv && !(s.inCarveout r.g.core (s.asidOf t.name) q.spa (q.scap * q.size)) then .error (protOf 14)
  else if q.clsd then .error (protOf 20)
  else .ok (leBytes (t.regsVal d.toNat n) (4 * n))

/-- Must a queue word wait: earlier accesses, operand registers that its descriptor adds (R47, R104, R165)? -/
def queueNeed (o : AgOp) (push : Bool) : Ctx → State → Thread → Bool := fun c s t =>
  s.drained t.name &&
  (!push || (match queueAt s t (srcReg c t o.a) true with
    | .ok r => (entryRegs o.d (s.readQueue r.g.core r.a)).all (fun v => !((s.busyRegs t).contains v) && t.reg? v != some .spilled)
    | .error _ => true))

/-- Word 0 of the SCRATCH entry of a queue operation (R316). -/
def queueWord0 (t : Thread) : Nat := trailWord 3 (clusterOf t.name.core) t.name.core t.name.slot t.name.wti (2 * 2 ^ 30)

/-- The SCRATCH entry of a queue word whose descriptor offset is in A (R316). -/
def queueEntry (o : AgOp) (c : Ctx) (s : State) (t : Thread) : Option Entry :=
  match queueAt s t (srcReg c t o.a) true with
  | .ok r => some (clusterOf t.name.core, queueWord0 t, some r.a)
  | .error _ => none

/-- Release at CORE scope, the region closed, and the SCRATCH entry of a queue operation (R119, R165, R316). -/
def State.queueOp (s : State) (t : Thread) (r : QRef) : State :=
  let p := clusterOf t.name.core
  ((s.release t.name.core 1).closeRegion t.name).trail p (queueWord0 t) r.a

/-- Kill the entry registers above the first, which the word's own kill takes (R416). -/
def State.killEntry (s : State) (o : AgOp) (n : ThreadName) (q : Queue) : State :=
  if o.kd then (entryRegs o.d q).tail.foldl (fun s v => s.spill n v) s else s

/-- The workgroup and squad that full-detail trace records are selected for on a core (R314). -/
def State.traceGroup (s : State) (core : Nat) : Option (Workgroup × Option Nat) :=
  let r := s.dbg (clusterOf core) (0x300 + 8 * (core % 4))
  if !(bit r 63) then none
  else
    let fit (g : Workgroup) : Bool := g.core == core && g.away.isNone && g.lid == bits r 59 44 && (!(bit r 62) || g.w % 2 ^ 16 == bits r 43 28)
    (minBy (fun (a b : Workgroup) => a.startedAt < b.startedAt) (s.work.groups.filter fit)).map (fun g =>
      (g, if bit r 61 then some (bits r 27 21) else none))

/-- The QUEUE record of a word, when it is selected (R313, R314): operation, threads that completed and the others. -/
def State.queueRecord (s : State) (core : Nat) (a op done other : Nat) (n : Option ThreadName) : State :=
  let p := clusterOf core
  let r := s.dbg p (0x300 + 8 * (core % 4))
  match s.traceGroup core with
  | some (g, _) =>
    if bit r 60 && a == g.base + bits r 20 7 * 64 then
      let q := s.readQueue core a
      s.debugRecord p (recBytes (s.recHeader 0x06 p (core % 4) n ++
        [a - g.base, op * 2 ^ 62 + done % 64 * 2 ^ 56 + other % 64 * 2 ^ 50, q.tail * 2 ^ 32 + q.head, 0]))
    else s
  | none => s

/-- A push or pop body with its trace record, where the core's records are selected at all. -/
def recordedBody (o : AgOp) (op : Nat) (body : BodyFn) : BodyFn := fun c s =>
  match gated (queueEntry o) body c s, s.traceGroup c.pack.core with
  | .done s1 outs, some _ =>
    let act := c.actives s
    let refs := act.filterMap (fun n => match s.thread? n with
      | some t => (match queueAt s t (srcReg c t o.a) true with | .ok r => some (n, r.a) | .error _ => none)
      | none => none)
    let addrs := (refs.map (·.2)).eraseDups
    .done (addrs.foldl (fun s2 a =>
      let q0 := s.readQueue c.pack.core a
      let q1 := s1.readQueue c.pack.core a
      let mine := refs.filter (·.2 == a)
      let n := mine.filter (fun x => outs.any (·.name == x.1))
      let done := if op == 1 then (q1.head + 2 ^ 32 - q0.head) % 2 ^ 32 else (q1.tail + 2 ^ 32 - q0.tail) % 2 ^ 32
      s2.queueRecord c.pack.core a op done (n.length - done) (mine.head?.map (·.1))) s1) outs
  | r, _ => r

/-! ## The words -/

/-- QINIT (R415). -/
def bodyQinit (o : AgOp) : BodyFn := asBody noNeed (fun c s t =>
  let off := srcReg c t o.a
  let w0 := t.regsVal o.d.toNat 2
  let w1 := t.regsVal (o.d.toNat + 2) 2
  let scap := srcReg c t o.b
  match queueAt s t off false with
  | .error info => .trap s info
  | .ok r =>
    let q := queueOfWords w0 w1 (scap * 2 ^ 32) 0 0 0
    -- R117 names ILLEGAL_FIELD for an array that does not fit; the word's own entry, R415, gives PROT before its field checks (DEDUCED, log 52)
    if r.g.size < q.base + q.cap * q.size then .trap s (protOf 4)
    else if bits w0 51 49 != 0 || bits w0 33 20 != 0 || bits w1 62 57 != 0 || q.cap == 0 || q.npr == 0 || q.nco == 0 || q.base % 8 != 0 ||
        (q.sv && q.spa % 64 != 0) || (!q.sv && (q.spa != 0 || scap != 0)) then .trap s (trapOf .illegalField off)
    else if (s.mark? r.g.core r.a true).isSome &&
        (!(s.pushers r).isEmpty || !(s.poppers r).isEmpty || (s.readQueue r.g.core r.a).scnt != 0) then .trap s (protOf 19)
    else .ok ((s.putMark r.g.core r.a true).writeQueue r.g.core r.a q))

/-- A push of the producer or the consumer form (R119, R120, R416). -/
def pushBody (o : AgOp) (consumer : Bool) : BodyFn := recordedBody o 0 (asBody (queueNeed o true) (fun c s t =>
  match queueAt s t (srcReg c t o.a) true with
  | .error info => .trap s info
  | .ok r => match pushCheck s t r o.d false with
    | .error info => .trap s info
    | .ok b =>
      let q := s.readQueue r.g.core r.a
      let s1 := s.queueOp t r
      if (s.pushers r).isEmpty && q.inArray < q.cap && q.scnt == 0 then .ok ((s1.appendArray r b).killEntry o t.name q)
      else if (s.pushers r).isEmpty && q.scnt != 0 && q.sv && q.scnt < q.scap then
        match s1.appendSpill r b with
        | .ok s2 => .ok (s2.killEntry o t.name q)
        | .park l va => .park (s.queueAsid r) 6 l va
        | .trap e => .trap s e
      else
        let (k, s2) := s1.nextOrder
        .ok (s2.killEntry o t.name q) (.wait (.push (r.a - r.g.base) consumer b k))))

/-- QPUSH (R416). -/
def bodyQpush (o : AgOp) : BodyFn := pushBody o false

/-- QPUSH.C (R416). -/
def bodyQpushC (o : AgOp) : BodyFn := pushBody o true

/-- QPUSH.CLOSE (R120). -/
def bodyQpushClose (o : AgOp) : BodyFn := gated (queueEntry o) (asBody (queueNeed o false) fun c s t =>
  match queueAt s t (srcReg c t o.a) true with
  | .error info => .trap s info
  | .ok r =>
    let q := s.readQueue r.g.core r.a
    if q.clsd || q.pex == q.npr then .trap s (protOf 20)
    else .ok ((s.queueOp t r).writeQueue r.g.core r.a { q with pex := q.pex + 1, clsd := q.pex + 1 == q.npr }))

/-- A pop (R119, R417). -/
def popBody (o : AgOp) (pred : Option Nat) : BodyFn := recordedBody o 1 (asBody (queueNeed o false) (fun c s t =>
  let dst := srcReg c t o.b
  let off := srcReg c t o.a
  match s.groupOf t.name with
  | none => .trap s (protOf 4)
  | some g =>
    let atD : Word64 := BitVec.ofNat 64 (dst + g.role * 2 ^ 32)
    if off % 64 == 0 && dst % 8 != 0 then .trap s { trapOf .misalign dst with vaddr := atD }
    else match queueAt s t off false with
    | .error info => .trap s info
    | .ok r =>
      let q := s.readQueue r.g.core r.a
      let made := (s.mark? r.g.core r.a true).isSome
      if made && g.size < dst + q.size || g.size ≤ dst then .trap s { protOf 4 with vaddr := atD }
      else if !made then .trap s { protOf 18 with vaddr := BitVec.ofNat 64 (off + g.role * 2 ^ 32) }
      else if s.scratchPoisoned r.g.core r.a 64 then
        .trap s { trapOf .eccUncorr 0 with vaddr := BitVec.ofNat 64 (off + g.role * 2 ^ 32), paddr := r.a }
      else match s.ownerCheck g.core (g.base + dst) q.size true with
      | some info => .trap s { info with vaddr := atD }
      | none =>
        let s1 := s.queueOp t r
        if (s.poppers r).isEmpty && 0 < q.inArray then
          match s.headBad r with
          | some info => .trap s info
          | none => .ok (((s1.popTo r dst).popPred t.name pred true).acquire t.name.core 1)
        else if q.clsd && q.count == 0 then .ok (s1.popPred t.name pred false)
        else
          let (k, s2) := s1.nextOrder
          .ok s2 (.wait (.pop off dst pred k))))

/-- QPOP (R416). -/
def bodyQpop (o : AgOp) : BodyFn := popBody o none

/-- QPOP.E (R416). -/
def bodyQpopE (o : AgOp) : BodyFn := popBody o (some o.d.toNat)

/-- One drop of an amplifying push (R277): the chain's status entry, or the launch's error log, and the trace record. The entry's flag and count
change in one HOME step. -/
def State.ampDrop (s : State) (t : Thread) (r : QRef) : State :=
  let off := r.a - r.g.base
  let s1 := match r.g.chain.bind (fun (i, n) => (s.planSlot? i).map (fun p => (p.plan, n))) with
    | some (p, n) =>
      let w2 := s.statusWord p n 16
      s.writeStatus p n 0 (recBytes [setBits (s.statusWord p n 0) 17 17 1, s.statusWord p n 8,
        setBits w2 31 0 (min (w2 % 2 ^ 32 + 1) (2 ^ 32 - 1))])
    | none => s.logError t.lid 0 off
  s1.eventRecord (clusterOf r.g.core) (r.g.core % 4) (some t.name) 2 off 0

/-- QPUSH.AMP (R275, R276): one operation at the scratchpad for the whole word. `lost` becomes true at the word's first drop for want
of room. -/
def bodyQpushAmp (o : AgOp) : BodyFn := recordedBody o 2 (fun c s =>
  let act := c.actives s
  if act.any (fun n => match s.thread? n with | some t => !(queueNeed o true c s t) | none => false) then .stall
  else
    let (s1, outs, _) := c.pack.threads.foldl (fun (acc : State × List Out × Bool) n =>
      match acc.1.thread? n with
      | none => acc
      | some t =>
        if !(c.active t) then (acc.1, acc.2.1 ++ [{ name := n, fate := .next, after := [] }], acc.2.2)
        else
          let s := acc.1
          let fail (info : TrapInfo) : State × List Out × Bool := let x := c.take (s, acc.2.1) n (.trap s info); (x.1, x.2, acc.2.2)
          match queueAt s t (srcReg c t o.a) true with
          | .error info => fail info
          | .ok r => match pushCheck s t r o.d true with
            | .error info => fail info
            | .ok b =>
              let q := s.readQueue r.g.core r.a
              let s0 := (s.queueOp t r).killEntry o n q
              let keep (s : State) (lost : Bool) : State × List Out × Bool := let x := c.take (s, acc.2.1) n (.ok s); (x.1, x.2, lost)
              if o.imm.toNat ≤ srcReg c t o.b then keep (s0.ampDrop t r) acc.2.2
              else if acc.2.2 then keep (s0.ampDrop t r) true
              else if q.inArray < q.cap && q.scnt == 0 then keep (s0.appendArray r b) false
              else if q.sv && q.scnt < q.scap then
                match s0.appendSpill r b with
                | .ok s2 => keep s2 false
                | .park l va => let x := c.take (s, acc.2.1) n (.park (s.queueAsid r) 6 l va); (x.1, x.2, acc.2.2)
                | .trap e => fail e
              else keep (s0.ampDrop t r) true) (s, [], false)
    settle s1 outs)

/-- QINIT (R415). -/
def execQinit (o : AgOp) (s : State) : Host.Outcome State Fault Refusal := .next (runWord (.qinit o) (bodyQinit o) s)

/-- QPUSH (R416). -/
def execQpush (o : AgOp) (s : State) : Host.Outcome State Fault Refusal := .next (queueWord (.qpush o) (bodyQpush o) s)

/-- QPUSH_C (R416). -/
def execQpushC (o : AgOp) (s : State) : Host.Outcome State Fault Refusal := .next (queueWord (.qpushC o) (bodyQpushC o) s)

/-- QPUSH_AMP (R276). -/
def execQpushAmp (o : AgOp) (s : State) : Host.Outcome State Fault Refusal := .next (queueWord (.qpushAmp o) (bodyQpushAmp o) s)

/-- QPUSH_CLOSE (R120). -/
def execQpushClose (o : AgOp) (s : State) : Host.Outcome State Fault Refusal := .next (queueWord (.qpushClose o) (bodyQpushClose o) s)

/-- QPOP (R416). -/
def execQpop (o : AgOp) (s : State) : Host.Outcome State Fault Refusal := .next (queueWord (.qpop o) (bodyQpop o) s)

/-- QPOP_E (R416). -/
def execQpopE (o : AgOp) (s : State) : Host.Outcome State Fault Refusal := .next (queueWord (.qpopE o) (bodyQpopE o) s)

end Sys2Proof.Machine
end

