-- ==== Sys2Proof/Machine/Task.lean ====
section
/-! DEFINITION. Task records, the dependence table, TSPAWN and the dispatch of tasks (R108 to R116, R251, R436). -/

namespace Sys2Proof.Machine

/-! ## Records (R108, R109) -/

/-- A task record from its 128 bytes, and whether a reserved field or an alignment is broken. -/
def taskBytes (b : List Byte) : TaskRec × Bool :=
  let v (o n : Nat) : Nat := leVal ((b.drop o).take n)
  let w := v 8 8
  let hs (o n : Nat) : List Nat := (List.range n).map (fun i => v (o + 2 * i) 2)
  let nrd := bits w 34 32
  let nwr := bits w 31 29
  let rd := hs 0x30 (min nrd 4)
  let wr := hs 0x38 (min nwr 4)
  ({ pc := BitVec.ofNat 57 (v 0 8), chainId := bits w 63 48, oci := bits w 47 36, ocv := bit w 35, cmk := bits w 28 25, crm := bits w 24 21
     kind := bits w 20 17, args := (List.range 8).map (fun i => BitVec.ofNat 32 (v (0x10 + 4 * i) 4)), reads := rd, writes := wr
     done := BitVec.ofNat 57 (v 0x40 8) },
   2 ^ 57 ≤ v 0 8 || v 0 8 % 8 != 0 || bits w 16 0 != 0 || 4 < nrd || 4 < nwr || (rd ++ wr).any (4096 ≤ ·) || 2 ^ 57 ≤ v 0x40 8 ||
   v 0x40 8 % 8 != 0 || (b.drop 0x48).any (· != 0))

/-- The refusals of R109 against a launch; `cluster` is none where the tile table is not judged. -/
def State.taskBad (s : State) (l : Launch) (cluster : Option Nat) (b : List Byte) : Bool :=
  let (t, bad) := taskBytes b
  bad || t.cmk == 0 || 2 ^ l.crews.length ≤ t.cmk || (List.range 4).any (fun r => bit t.crm r && !(bit l.crm r)) ||
  (match cluster with
    | some p => (t.reads ++ t.writes).any (fun h =>
        let w := s.dreg (regTile p h)
        !(bit w 63) || bits w 47 32 != l.asid)
    | none => false)

/-! ## The table (R111 to R114) -/

/-- Tasks of a cluster in spawn order. -/
def State.table (s : State) (p : Nat) : List Task := sortBy (fun a b => a.order < b.order) (s.work.tasks.filter (·.cluster == p))

/-- Does another task name the same tile instances? -/
def Task.sameInst (a b : Task) : Bool := a.lid == b.lid && a.q == b.q && a.group == b.group

/-- A free entry, when the class may take one (R112, R251): the lowest, as the manual does not say which (DESIGN CHOICE, log 48). -/
def State.freeEntry (s : State) (p cls : Nat) : Option Nat :=
  let on := s.work.tasks.filter (·.cluster == p)
  let strip := (on.filter (·.cls == 0)).length
  if reserveOk s.stripMode (cls == 0) 256 64 strip (on.length - strip) 1 then
    (List.range 256).find? (fun e => on.all (·.entry != e))
  else none

/-- Version buffers of a handle. -/
def State.handleNvb (s : State) (p h : Nat) : Nat := bits (s.dreg (regTile p h)) 60 59 + 1

/-- What a read of a handle resolves to at spawn (R113). -/
def State.resolveRead (s : State) (p lid q group h : Nat) : Nat :=
  match ((s.table p).reverse).findSome? (fun t =>
    if t.lid == lid && t.q == q && t.group == group then (t.writeVer.find? (·.1 == h)).map (·.2) else none) with
  | some v => v
  | none => (s.inst lid q group h 0).current % s.handleNvb p h

/-- Enter a task into a free entry (R111, R113). -/
def State.spawnTask (s : State) (p entry lid q group w cls : Nat) (r : TaskRec) (chain : Option (Nat × Nat)) : State :=
  let (order, s1) := s.nextOrder
  let rd (h : Nat) : Nat := s.resolveRead p lid q group h
  let t : Task := { cluster := p, entry := entry, order := order, lid := lid, q := q, group := group, w := w, cls := cls, task := r
                    readVer := r.reads.map (fun h => (h, rd h)), writeVer := r.writes.map (fun h => (h, (rd h + 1) % s.handleNvb p h))
                    started := none, chain := chain }
  { s1 with work := { s1.work with tasks := s1.work.tasks ++ [t] } }

/-- Is a task released (R114)? -/
def State.taskReleased (s : State) (t : Task) : Bool :=
  ((s.table t.cluster).filter (fun y => y.order < t.order && y.sameInst t)).all (fun y =>
    y.writeVer.all (fun w => t.readVer.all (fun r => r.1 != w.1)) &&
    (y.readVer ++ y.writeVer).all (fun x => !(t.writeVer.contains x)))

/-! ## TSPAWN (R436) -/

/-- The record a thread names, or its trap. -/
def tspawnRec (s : State) (t : Thread) (off : Nat) : Except TrapInfo (Workgroup × Launch × TaskRec) :=
  match s.groupOf t.name with
  | none => .error (protOf 4)
  | some g => match s.launch? g.lid with
    | none => .error (protOf 4)
    | some l =>
      let at_ : Word64 := BitVec.ofNat 64 (off + g.role * 2 ^ 32)
      if off % 128 != 0 then .error { trapOf .misalign off with vaddr := at_ }
      else if g.size < off + 128 then .error { protOf 4 with vaddr := at_ }
      else
        let b := s.scratchRead g.core (g.base + off) 128
        if s.scratchPoisoned g.core (g.base + off) 128 then .error { trapOf .eccUncorr 0 with vaddr := at_, paddr := g.base + off }
        else if s.taskBad l (some (clusterOf g.core)) b then .error (trapOf .illegalField off) else .ok (g, l, (taskBytes b).1)

/-- Threads of the pack that have not done their part of the word yet, in turn: each spawns, traps, or waits, and then whether for a free
entry. -/
def tspawnGo (c : Ctx) (o : AgOp) : State → List ThreadName → State × List ThreadName × Bool
  | s, [] => (s, [], false)
  | s, n :: rest =>
    match s.thread? n with
    | none => tspawnGo c o s rest
    | some t =>
      if !(s.drained n) then (s, n :: rest, false)
      else match tspawnRec s t (srcReg c t o.a) with
      | .error info => tspawnGo c o (c.trapAt s n info) rest
      | .ok (g, _, r) =>
        let p := clusterOf g.core
        match s.freeEntry p g.cls with
        | none => (s, n :: rest, true)
        | some e =>
          let s1 := ((s.release n.core 2).closeRegion n).watch agentDevice (some g.core) (g.base + srcReg c t o.a) 128 true false (fun _ => true)
          let s2 := s1.2.spawnTask p e g.lid g.q g.group g.w g.cls r none
          tspawnGo c o (s2.kill n c.instr) rest

/-- TSPAWN (R436): the tasks of the pack enter in spawn order; while the table is full the word stalls in place (R112). -/
def bodyTspawn (o : AgOp) : BodyFn := fun c s =>
  let todo := (c.actives s).filter (fun n => !(c.pack.spawned.contains n))
  let (s1, left, full) := tspawnGo c o s todo
  match left with
  | [] => .done s1 ((c.pack.threads.filter (fun n => match s1.thread? n with
      | some t => t.st == .issuing
      | none => false)).map (fun n => { name := n, fate := .next, after := [] }))
  | _ =>
    let done := todo.filter (fun n => !(left.contains n))
    .more (s1.modPack c.pack.core c.pack.pipe (fun p => { p with spawned := p.spawned ++ done, stalled := max p.stalled 1
                                                                 full := if full then max p.full 1 else 0 }))

/-- TSPAWN (R436). -/
def execTspawn (o : AgOp) (s : State) : Host.Outcome State Fault Refusal := .next (runWord (.tspawn o) (bodyTspawn o) s)

/-- TSPAWN_TIMEOUT (R112): a stall of 2^20 cycles for want of an entry at a TSPAWN ends in QDEADLOCK for the threads that have not spawned. -/
def execTspawnTimeout (core pipe : Nat) (s : State) : Host.Outcome State Fault Refusal :=
  .next (match s.pack? core pipe with
  | none => s
  | some p =>
    let asid := match p.threads with | n :: _ => s.asidOf n | [] => 0
    let w := s.peek core asid (s.packLevel p) (wordAddr p.ca p.wi)
    match decode w with
    | .ok (.tspawn o) =>
      if p.full < 2 ^ 20 then s
      else
        let c := ctxOf p (.tspawn o)
        let left := (c.actives s).filter (fun n => !(p.spawned.contains n))
        let s1 := left.foldl (fun s n => c.trapAt s n (trapOf .qdeadlock 1)) s
        match s1.pack? core pipe with
        | none => s1
        | some q => s1.retire { c with pack := q } (q.threads.map (fun n => { name := n, fate := .next, after := [] })) q.pb 0
    | _ => s)

/-! ## Dispatch (R110, R111, R114) -/

/-- Core of a core role in a launch's cluster role. -/
def Launch.coreOf (l : Launch) (q role : Nat) : Option Nat :=
  match l.clusters.getD q none with
  | some c => (c.cores.getD role none).map (fun k => 4 * c.pcl + k)
  | none => none

/-- Core roles a task may run on. -/
def Task.roles (t : Task) (l : Launch) : List Nat := l.roles.filter (fun r => t.task.crm == 0 || bit t.task.crm r)

/-- Crews of a task's gang with their places (R110). -/
def Task.crews (t : Task) (l : Launch) : List CrewRun :=
  crewRuns (((List.range l.crews.length).zip l.crews).filter (fun x => bit t.task.cmk x.1)) 0 (some t.task.pc)

/-- A core, slot and allocation for a task on a core role. -/
def State.taskRoom (s : State) (l : Launch) (t : Task) (role : Nat) : Option (Nat × Nat × Nat) :=
  match l.coreOf t.q role with
  | none => none
  | some core =>
    let n := (t.crews l).foldl (fun a c => a + c.nth) 0
    if s.stopped core then none else (s.room core t.cls n (l.scrk * 1024)).map (fun x => (core, x.1, x.2))

/-- Is an occlusion counter zero (R114, R284)? -/
def State.occlusion (s : State) (p i : Nat) : Nat :=
  let w := s.dreg (regOccl p + 4 * (i / 2 * 2))
  if i % 2 == 0 then w % 2 ^ 32 else w / 2 ^ 32

/-- May a task start, or be skipped, now? A task whose counter is zero completes as SKIPPED even where no core has room for it (DESIGN
CHOICE, log 49). -/
def State.taskStartable (s : State) (t : Task) : Bool :=
  t.started.isNone && s.taskReleased t &&
  (match s.launch? t.lid with
    | none => false
    | some l => (t.task.ocv && s.occlusion t.cluster t.task.oci == 0) || (t.roles l).any (fun r => (s.taskRoom l t r).isSome))

/-- TASK_DISPATCH (R114): the first released task that finds room, STRIP before others and then in spawn order, starts on a core role,
or completes as SKIPPED. Its start is an acquire at CLUSTER scope on its core: what its predecessors stored is visible to it (R115, R171). -/
def execTaskDispatch (cluster entry coreRole : Nat) (s : State) : Host.Outcome State Fault Refusal :=
  .next (
    let l := s.table cluster
    let order := l.filter (·.cls == 0) ++ l.filter (·.cls != 0)
    match order.find? s.taskStartable with
    | none => s
    | some t =>
      if t.entry != entry then s
      else match s.launch? t.lid with
      | none => s
      | some l =>
        let w0 := trailWord 5 cluster 0 0 0 (5 * 2 ^ 30)
        if t.task.ocv && !(s.trailOk cluster w0 (t.cls == 0)) then s
        else
        let s0 := if t.task.ocv then s.trail cluster w0 t.task.oci else s
        if t.task.ocv && s.occlusion cluster t.task.oci == 0 then s0.taskDone t 1
        else if !((t.roles l).contains coreRole) then s
        else match s.taskRoom l t coreRole with
        | none => s
        | some (core, slot, base) =>
          let chain := t.chain.bind (fun (i, n) => ((s.planSlot? i).bind (fun p => p.chains.find? (·.n == n))).map (fun c => (i, n, c.clevel)))
          let g : Workgroup :=
            { core := core, slot := slot, lid := t.lid, w := t.w, q := t.q, group := t.group, role := coreRole, cls := t.cls
              area := l.count + 256 * t.q + t.entry, entry := some t.entry, base := base, size := l.scrk * 1024
              uniform := t.task.args ++ l.cons ++ List.replicate 16 0, crews := t.crews l, exiting := false
              chain := chain.map (fun x => (x.1, x.2.1)), srate := (chain.map (fun x => x.2.2)).getD 0, startedAt := s.now
              cancelled := false, endedByHandler := false, restored := false, restoring := none, away := none }
          let s1 := { s0 with work := { s0.work with tasks := s0.work.tasks.map (fun (x : Task) =>
            if x.cluster == cluster && x.entry == entry then { x with started := some s.time.toNat } else x) } }
          (s1.evict core (fun _ => true)).startGang l g)

end Sys2Proof.Machine
end

