-- ==== Sys2Proof/Machine/Gfx.lean ====
section
/-! DEFINITION. The graphics words: bins, rasterisation, occlusion counters and texture sampling (R270 to R290, R350, R408, R418, R425,
R426). -/

namespace Sys2Proof.Machine

/-! ## Bins (R272 to R274, R350) -/

/-- A bin set of a launch. -/
structure BinSet where
  base : Nat
  bins : Nat
  cap : Nat
deriving DecidableEq, Repr

def BinSet.stride (b : BinSet) : Nat := 64 * ((16 + 4 * b.cap + 63) / 64)

/-- The set that an address space may use. -/
def State.binSet (s : State) (k asid : Nat) : Option BinSet :=
  let w0 := s.dreg (regBin k)
  let w1 := s.dreg (regBin k + 8)
  if bit w0 63 && bits w1 63 48 == asid then some { base := bits w0 56 0, bins := bits w1 36 26 + 1, cap := bits w1 15 0 } else none

/-- What translating a range of bins comes to. -/
inductive BinRange where
  | ok
  | outside
  | park (level va : Nat)
  | trap (t : TrapInfo)

/-- Is a range of bins wholly inside one pinned carve-out (R150, R273), and may the thread write all of it? Where a page does not translate, that
outcome comes after the carve-out check of the pages that do. -/
def State.binRange (s : State) (t : Thread) (va n : Nat) : BinRange :=
  let asid := s.asidOf t.name
  let m : Mmu := .core t.name.core
  -- the bytes of each page: address and count
  let parts := (List.range ((va + n - 1) / 4096 - va / 4096 + 1)).map (fun k =>
    let a := max va ((va / 4096 + k) * 4096)
    (a, min (va + n) ((va / 4096 + k + 1) * 4096) - a))
  let placed := parts.filterMap (fun (a, len) => match s.translate m asid a with
    | .found x => some (x.pa + (a - x.va), len)
    | _ => none)
  if !(s.store.carveouts.any (fun c => placed.all (fun (pa, len) => c.1 ≤ pa && pa + len ≤ c.1 + c.2))) then .outside
  else (parts.findSome? (fun x => match s.xlat m asid x.1 t.level { write := true, thread := true, bytes := 4 } with
    | .park l => some (.park l x.1)
    | .trap e => some (.trap e)
    | .ok _ _ => none)).getD .ok

/-- Physical address of a bin byte that has been checked. -/
def State.binPa (s : State) (t : Thread) (va : Nat) : Nat :=
  match s.xlat (.core t.name.core) (s.asidOf t.name) va t.level { write := true, thread := true, bytes := 4 } with | .ok pa _ => pa | _ => 0

/-- One step at the home of a bin: an append of an id, or a clear (R273). -/
def State.binStep (s : State) (t : Thread) (k : Nat) (b : BinSet) (i : Nat) (id : Option Nat) : State × List Nat :=
  let va := b.base + i * b.stride
  let pa := s.binPa t va
  let core := t.name.core
  let s1 := (s.walkSeen (.core core) (s.asidOf t.name) va).trail (homeCluster pa) (homeWord t.name 3) (pa / 16 * 16)
  let (h, s2) := s1.homeRead core pa 8
  let count := leVal (h.take 4)
  let drop := leVal (h.drop 4)
  let seen (x : State) (a n : Nat) (rd : Bool) : List Nat × State := x.watch (agentThread t.name) none a n rd true (fun _ => true)
  match id with
  | none =>
    let (f, s3) := seen (s2.homeWrite core pa (List.replicate 8 0) t.lid) pa 8 false
    (s3, f)
  | some v =>
    if count < b.cap then
      let pe := s2.binPa t (va + 16 + 4 * count)
      let (f1, s3) := seen (s2.homeWrite core pe (leBytes v 4) t.lid) pe 4 false
      let (f2, s4) := seen (s3.homeWrite core pa (leBytes (count + 1) 4) t.lid) pa 8 true
      (s4, f1 ++ f2)
    else
      let (f, s3) := seen (s2.homeWrite core (pa + 4) (leBytes (min (drop + 1) (2 ^ 32 - 1)) 4) t.lid) pa 8 true
      (s3.setDreg (regBin k) (setBits (s3.dreg (regBin k)) 62 62 1), f)

/-- A word that waits until the thread's own accesses are performed, and its turn in the trail. -/
def binNeed : Ctx → State → Thread → Bool := fun _ s t => s.drained t.name

/-- The HOME entry of a thread's first step on a bin (R274, R316). -/
def binEntry (o : AgOp) : Ctx → State → Thread → Option Entry := fun c s t =>
  (s.binSet (o.imm.toNat % 16) (s.asidOf t.name)).map (fun b =>
    let pa := s.binPa t (b.base + bits (srcReg c t o.a) 10 0 * b.stride)
    (homeCluster pa, homeWord t.name 3, some (pa / 16 * 16)))

/-- BINA and BINA.CLR (R273, R350). -/
def binaBody (o : AgOp) (clear : Bool) : BodyFn := gated (binEntry o) (eachThread binNeed fun c s t =>
  let k := o.imm.toNat % 16
  let x := srcReg c t o.a
  let first := bits x 10 0
  let last := bits x 26 16
  match s.binSet k (s.asidOf t.name) with
  | none => .trap s (protOf 13)
  | some b =>
    if last < first || b.bins ≤ last then .trap s (trapOf .bounds 14)
    else
      let va := b.base + first * b.stride
      match s.binRange t va ((last - first + 1) * b.stride) with
      | .outside => .trap s { protOf 13 with vaddr := BitVec.ofNat 64 va }
      | .trap e => .trap s e
      | .park l a => .park (s.asidOf t.name) 1 l a
      | .ok =>
        let all := (List.range (last - first + 1)).map (first + ·)
        match all.find? (fun i => s.poisoned (s.binPa t (b.base + i * b.stride)) 8) with
        | some i => .trap s { trapOf .eccUncorr 0 with vaddr := BitVec.ofNat 64 (b.base + i * b.stride), paddr := s.binPa t (b.base + i * b.stride) }
        | none =>
          let id := if clear then none else some (srcReg c t o.b)
          let (s1, fired) := all.foldl (fun (acc : State × List Nat) i =>
            let (s2, f) := acc.1.binStep t k b i id
            (s2, acc.2 ++ f)) (s, [])
          .ok s1 .next (watchCause fired))

/-- BINA (R350). -/
def bodyBina (o : AgOp) : BodyFn := binaBody o false

/-- BINA.CLR (R273, R350). -/
def bodyBinaClr (o : AgOp) : BodyFn := binaBody o true

/-! ## Occlusion counters (R284 to R286, R408) -/

def State.setOcclusion (s : State) (p i v : Nat) : State :=
  let a := regOccl p + 4 * (i / 2 * 2)
  s.setDreg a (if i % 2 == 0 then setBits (s.dreg a) 31 0 v else setBits (s.dreg a) 63 32 v)

/-- One OCCR of a pack: an entry of the trail for each thread's step. -/
def occrBody (o : AgOp) (clear : Bool) : BodyFn := gated
  (fun _ _ t => some (clusterOf t.name.core, engineWord t.name.core t.name.slot t.name.wti 5, none))
  (eachThread noNeed fun c s t =>
    let p := clusterOf t.name.core
    let i := srcReg c t o.a % 4096
    let v := s.occlusion p i
    let s1 := s.trail p (engineWord t.name.core t.name.slot t.name.wti 5) i
    let s2 := if clear then s1.setOcclusion p i 0 else s1
    .ok (s2.modThread t.name (·.setReg o.d.toNat (BitVec.ofNat 32 v))))

/-- OCCR (R408). -/
def bodyOccr (o : AgOp) : BodyFn := occrBody o false

/-- OCCR.CLR (R408). -/
def bodyOccrClr (o : AgOp) : BodyFn := occrBody o true

/-! ## Rasterisation (R278 to R283, R418) -/

/-- An FP32 number in units of 2^-149; none when it is not finite. -/
def units149 (b : Nat) : Option Int :=
  let e := bits b 30 23
  if e == 255 then none
  else
    let m := if e == 0 then bits b 22 0 else 2 ^ 23 + bits b 22 0
    let v : Int := (m * 2 ^ (e - 1) : Nat)
    some (if bit b 31 then -v else v)

/-- A primitive prepared for its samples: vertices, edge orientation and area (R280). -/
structure Setup where
  x : List Int
  y : List Int
  z : List Int
  sigma : Int
  area : Int

/-- Prepare a primitive; none when it covers nothing. -/
def Prim.setup (p : Prim) : Option Setup :=
  match p.xs.mapM (fun w => units149 w.toNat) with
  | some [x0, y0, x1, y1, x2, y2, z0, z1, z2] =>
    let a := (x1 - x0) * (y2 - y0) - (x2 - x0) * (y1 - y0)
    if a == 0 || (a < 0 && bit p.cull 0) || (0 < a && bit p.cull 1) then none
    else some { x := [x0, x1, x2], y := [y0, y1, y2], z := [z0, z1, z2], sigma := if a < 0 then -1 else 1, area := a }
  | _ => none

/-- E_i of a sample, and whether it counts as inside that edge. -/
def Setup.edge (q : Setup) (i : Nat) (px py : Int) : Int × Bool :=
  let xi := q.x.getD i 0
  let yi := q.y.getD i 0
  let dx := q.x.getD ((i + 1) % 3) 0 - xi
  let dy := q.y.getD ((i + 1) % 3) 0 - yi
  let e := q.sigma * (dx * (py - yi) - dy * (px - xi))
  (e, 0 < e || (e == 0 && (q.sigma * dy < 0 || (dy == 0 && 0 < q.sigma * dx))))

/-- The depth of a covered sample of pixel (px, py) as an FP32 pattern; none when the sample is not covered (R280, R281). -/
def Setup.sample (q : Setup) (px py : Nat) : Option Nat :=
  let sx : Int := ((2 * px + 1) * 2 ^ 148 : Nat)
  let sy : Int := ((2 * py + 1) * 2 ^ 148 : Nat)
  let (e0, i0) := q.edge 0 sx sy
  let (e1, i1) := q.edge 1 sx sy
  let (e2, i2) := q.edge 2 sx sy
  if !(i0 && i1 && i2) then none
  else
    let num := e1 * q.z.getD 0 0 + e2 * q.z.getD 1 0 + e0 * q.z.getD 2 0
    let z := (roundEx fp32 ctlRn (.ratio num ((q.sigma * q.area).toNat * 2 ^ 149))).1
    if (fp32.val z).cmp (.int 0) < 0 || 0 < (fp32.val z).cmp (.int 1) then none else some z

/-- A primitive record of 48 bytes. -/
def primOf (b : List Byte) : Prim :=
  let w (o : Nat) : Word32 := BitVec.ofNat 32 (leVal ((b.drop o).take 4))
  { xs := (List.range 9).map (fun i => w (4 * i)), visw := w 0x24, cull := (w 0x28).toNat }

/-- The checks of R282 for one thread, and the operation they yield. -/
def rastCheck (s : State) (t : Thread) (g : Workgroup) (a b n : Nat) (d : RegF) : Except TrapInfo RastOp :=
  let at_ (off : Nat) : Word64 := BitVec.ofNat 64 (off + g.role * 2 ^ 32)
  if a % 32 != 0 then .error { trapOf .misalign a with vaddr := at_ a }
  else if b % 16 != 0 then .error { trapOf .misalign b with vaddr := at_ b }
  else if g.size < a + 32 then .error { protOf 4 with vaddr := at_ a }
  else if g.size < b + 48 * n then .error { protOf 4 with vaddr := at_ b }
  else if s.scratchPoisoned g.core (g.base + a) 32 then .error { trapOf .eccUncorr 0 with vaddr := at_ a }
  else if s.scratchPoisoned g.core (g.base + b) (48 * n) then .error { trapOf .eccUncorr 0 with vaddr := at_ b }
  else
    let w (i : Nat) : Nat := s.scratchVal g.core (g.base + a + 8 * i) 8
    let vth := bits (w 0) 63 52
    let dth := bits (w 0) 51 40
    let x0 := bits (w 1) 63 51
    let y0 := bits (w 1) 50 38
    let ww := bits (w 1) 37 28 + 1
    let wh := bits (w 1) 27 22 + 1
    if bits (w 0) 25 0 != 0 || bits (w 1) 21 0 != 0 || w 2 != 0 || w 3 != 0 || 7680 < x0 + ww || 8192 < y0 + wh || vth == dth then
      .error (trapOf .illegalField a)
    else
      let recs := (List.range n).map (fun i => (b + 48 * i, s.scratchRead g.core (g.base + b + 48 * i) 48))
      match recs.find? (fun (_, r) => 4 ≤ (primOf r).cull || (r.drop 0x2C).any (· != 0) || (primOf r).visw == 0xFFFFFFFF) with
      | some (off, _) => .error (trapOf .illegalField off)
      | none =>
        match s.tile g vth, s.tile g dth with
        | .ok tv, .ok td =>
          let vv := s.version g tv true
          let vd := s.version g td true
          if s.owner tv vv != .engine then .error (ownerTrap tv (s.owner tv vv) true)
          else if s.owner td vd != .engine then .error (ownerTrap td (s.owner td vd) true)
          else if tv.fmt != 11 then .error (trapOf .illegalField vth)
          else if td.fmt != 7 then .error (trapOf .illegalField dth)
          else if tv.size < 4 * ww * wh || td.size < 4 * ww * wh then .error (trapOf .bounds 15)
          else
            let (order, _) := s.nextOrder
            .ok { cluster := clusterOf g.core, thread := t.name, cls := g.cls, order := order, prims := recs.map (fun r => primOf r.2)
                  vis := .scratch tv.home.core (tv.at_ vv), dep := .scratch td.home.core (td.at_ vd), credits := [tv.credit, td.credit]
                  ocb := bits (w 0) 39 28, testOnly := bit (w 0) 27, count := bit (w 0) 26, x0 := x0, y0 := y0, ww := ww, wh := wh, dst := d
                  done := none }
        | .bad r, _ => .error (protOf r)
        | _, .bad r => .error (protOf r)
        | _, _ => .error (protOf 10)

/-- Does a RAST wait for the home member of one of its tiles (R145, R189)? -/
def rastPending (s : State) (t : Thread) (a : Nat) : Bool :=
  match s.groupOf t.name with
  | none => false
  | some g =>
    let w := s.scratchVal g.core (g.base + a) 8
    a % 32 == 0 && a + 32 ≤ g.size && (tilePending s t (bits w 63 52) || tilePending s t (bits w 51 40))

/-- RAST (R418): each thread's operation joins its engine's queue; the word retires once all of them are performed. -/
def bodyRast (o : AgOp) : BodyFn := fun c s =>
  let act := c.actives s
  let mine := s.engines.rasts.filter (fun r => act.contains r.thread)
  let drop (s : State) : State := { s with engines := { s.engines with rasts := s.engines.rasts.filter (fun r => !(act.contains r.thread)) } }
  if !mine.isEmpty then
    if mine.any (·.done.isNone) then .stall
    else forEach (fun _ s t => match mine.find? (·.thread == t.name) with
      | some r => .ok (s.modThread t.name (·.setReg o.d.toNat (r.done.getD 0)))
      | none => .ok s) c (drop s)
  else if act.any (fun n => match s.thread? n with | some t => rastPending s t (srcReg c t o.a) | none => false) then .stall
  else
    let s1 := act.foldl (fun s n => match s.thread? n, s.groupOf n with
      | some t, some g => match rastCheck s t g (srcReg c t o.a) (srcReg c t o.b) o.imm.toNat o.d with
        | .error e => c.trapAt s n e
        | .ok r =>
          let seen (s : State) (a len : Nat) : State :=
            let (fired, s1) := s.watch (agentThread n) (some g.core) (g.base + a) len true false (fun _ => true)
            (watchCause fired).foldl (fun s info => s.owe n info c.pc c.word) s1
          let s1 := seen (seen s.nextOrder.2 (srcReg c t o.a) 32) (srcReg c t o.b) (48 * o.imm.toNat)
          { s1 with engines := { s1.engines with rasts := s1.engines.rasts ++ [r] } }
      | _, _ => s) s
    match s1.pack? c.pack.core c.pack.pipe with
    | none => .more s1
    | some p => if s1.engines.rasts.any (fun r => act.contains r.thread) then .more (s1.stallPack p) else passOn { c with pack := p } s1

/-- Scratchpad of a tile and its address. -/
def Place.spot : Place → Nat × Nat
  | .scratch core a => (core, a)
  | .global a => (0, a)
  | .awning a => (0, a)

/-- One covered sample against the tiles; the samples passed so far (R281). -/
def State.rastSample (s : State) (r : RastOp) (p : Prim) (k z passed : Nat) : State × Nat :=
  let (vc, va) := r.vis.spot
  let (dc, da) := r.dep.spot
  let old := s.scratchVal dc (da + 4 * k) 4
  let vis := s.scratchVal vc (va + 4 * k) 4
  let cmp := (fp32.val z).cmp (fp32.val old)
  let nan := (fp32.val old).isNan
  if nan || 0 < cmp || (cmp == 0 && vis ≤ p.visw.toNat) then (s, passed)
  else
    let i := (r.ocb + p.visw.toNat % 128) % 4096
    let s1 := if r.count then s.setOcclusion r.cluster i (min (s.occlusion r.cluster i + 1) (2 ^ 32 - 1)) else s
    let s2 := if r.testOnly then s1
      else
        let s2 := s1.scratchStore 0 dc (da + 4 * k) (leBytes z 4)
        let s3 := s2.scratchStore 0 vc (va + 4 * k) (leBytes p.visw.toNat 4)
        let s4 := (s3.watch agentRaster (some dc) (da + 4 * k) 4 false true (fun _ => true)).2
        (s4.watch agentRaster (some vc) (va + 4 * k) 4 false true (fun _ => true)).2
    (s2, passed + 1)

/-- The effect of an operation (R281). -/
def State.rastRun (s : State) (r : RastOp) : State × Nat :=
  r.prims.foldl (fun (acc : State × Nat) p =>
    match p.setup with
    | none => acc
    | some q => (List.range (r.ww * r.wh)).foldl (fun (acc : State × Nat) k =>
        match q.sample (r.x0 + k % r.ww) (r.y0 + k / r.ww) with
        | some z => acc.1.rastSample r p k z acc.2
        | none => acc) acc) (s, 0)

/-- Does a thread still stand at its RAST? -/
def State.rastWaits (s : State) (r : RastOp) : Bool :=
  match s.thread? r.thread with
  | some t => t.st != .exited && t.trap.isNone
  | none => false

/-- RAST_OPERATION (R283): the raster engine of a cluster performs the next operation, by class and then by arrival. An operation whose
thread is gone before it starts is dropped. -/
def execRastOperation (cluster : Nat) (s : State) : Host.Outcome State Fault Refusal :=
  .next (
    let s := { s with engines := { s.engines with rasts := s.engines.rasts.filter (fun r => r.cluster != cluster || s.rastWaits r) } }
    let l := s.engines.rasts.filter (fun r => r.cluster == cluster && r.done.isNone)
    match minBy (fun (a b : RastOp) => a.cls < b.cls || (a.cls == b.cls && a.order < b.order)) l with
    | none => s
    | some r =>
      let w0 := engineWord r.thread.core r.thread.slot r.thread.wti 3
      if s.frozen cluster || !(s.trailOk cluster w0 (r.cls == 0)) then s
      else
        let (s1, n) := (s.trail cluster w0 r.order).rastRun r
        let s2 := { s1 with engines := { s1.engines with rasts := s1.engines.rasts.map (fun (x : RastOp) =>
          if x.cluster == r.cluster && x.order == r.order then { x with done := some (BitVec.ofNat 32 (min n (2 ^ 32 - 1))) } else x) } }
        s2.creditAll r.credits (4 * r.ww * r.wh) none)

/-! ## Sampling (R287 to R290, R425, R426) -/

/-- A texture descriptor. -/
structure Texture where
  base : Nat
  fmt : Nat
  bw : Nat
  bh : Nat
  levels : Nat
  w : Nat
  h : Nat
  modeU : Nat
  modeV : Nat
  linear : Bool
  mip : Nat
  bias : Int
deriving DecidableEq, Repr

/-- ASTC 2D block sizes. -/
def astcSizes : List (Nat × Nat) :=
  [(4, 4), (5, 4), (5, 5), (6, 5), (6, 6), (8, 5), (8, 6), (8, 8), (10, 5), (10, 6), (10, 8), (10, 10), (12, 10), (12, 12)]

/-- The descriptor in 32 bytes; none when it breaks R290. `levels` is the highest level. -/
def textureOf (b : List Byte) : Option Texture :=
  let w (i : Nat) : Nat := leVal ((b.drop (8 * i)).take 8)
  let f := bits (w 1) 63 60
  let bw := bits (w 1) 59 56
  let bh := bits (w 1) 55 52
  let block := if f == 4 || f == 5 then astcSizes.contains (bw, bh) else bw == 0 && bh == 0
  if 2 ^ 57 ≤ w 0 || w 0 % 256 != 0 || 5 < f || !block || bits (w 1) 19 18 == 3 || bits (w 1) 17 16 == 3 || bits (w 1) 14 13 == 3 ||
      bits (w 1) 12 0 != 0 || w 2 != 0 || 2 ^ 16 ≤ w 3 then none
  else some { base := w 0, fmt := f, bw := bw, bh := bh, levels := bits (w 1) 51 48, w := bits (w 1) 47 34 + 1, h := bits (w 1) 33 20 + 1
              modeU := bits (w 1) 19 18, modeV := bits (w 1) 17 16, linear := bit (w 1) 15, mip := bits (w 1) 14 13, bias := sext 16 (w 3) }

/-- Width and height of a level (R288). -/
def Texture.width (x : Texture) (l : Nat) : Nat := max 1 (x.w / 2 ^ l)
def Texture.height (x : Texture) (l : Nat) : Nat := max 1 (x.h / 2 ^ l)

/-- Bytes of a texel, or of a block. -/
def Texture.unit (x : Texture) : Nat := if x.fmt ≤ 1 then 4 else if x.fmt == 2 then 8 else 16

/-- Bytes from one row to the next, and rows, of a level. -/
def Texture.pitch (x : Texture) (l : Nat) : Nat :=
  let n := if x.fmt < 4 then x.width l else (x.width l + x.bw - 1) / x.bw
  (n * x.unit + 255) / 256 * 256

def Texture.rows (x : Texture) (l : Nat) : Nat := if x.fmt < 4 then x.height l else (x.height l + x.bh - 1) / x.bh

/-- Address of a level. -/
def Texture.level (x : Texture) (l : Nat) : Nat := (List.range l).foldl (fun a k => a + x.pitch k * x.rows k) x.base

/-- A texel index mapped by an address mode (R288). -/
def mapTexel (mode n : Nat) (i : Int) : Nat :=
  match mode with
  | 0 => (i % (n : Int)).toNat
  | 1 => (satN i 0 ((n : Int) - 1)).toNat
  | _ => let m := (i % (2 * n : Int)).toNat; if m < n then m else 2 * n - 1 - m

/-- Address of the texel (i, j) of a level: of its bytes, or of its block. -/
def Texture.texelAt (x : Texture) (l i j : Nat) : Nat :=
  if x.fmt < 4 then x.level l + j * x.pitch l + i * x.unit
  else x.level l + j / x.bh * x.pitch l + i / x.bw * 16

/-- The sRGB transfer function of c / 255, correctly rounded (R288). -/
def srgb (c : Nat) : Nat :=
  let x : Ex :=
    if c * 100000 ≤ 4045 * 255 then .ratio (c * 100 : Nat) (255 * 1292)
    else
      let num := (200 * c + 11 * 255) ^ 12
      let den := (211 * 255) ^ 12
      sticky false (root5Bits (num * 2 ^ 640 / den) 130 0) 128
  (roundEx fp32 ctlRn x).1

/-- FP32 channels of the texel (i, j) of the bytes at its address (R288; DESIGN CHOICE, log 8). -/
def Texture.channels (x : Texture) (i j : Nat) (b : List Byte) : List Nat :=
  let v := leVal b
  let un (c d : Nat) : Nat := (roundEx fp32 ctlRn (.ratio (c : Nat) d)).1
  match x.fmt with
  | 0 => (List.range 4).map (fun k => un (elem 8 v k) 255)
  | 1 => (List.range 4).map (fun k => if k == 3 then un (elem 8 v k) 255 else srgb (elem 8 v k))
  | 2 => (List.range 4).map (fun k => (roundEx fp32 ctlRn (fp16.val (elem 16 v k))).1)
  | 3 => (List.range 4).map (fun k => elem 32 v k)
  | 4 =>
    if Config.astcIllegal false (BitVec.ofNat 128 v) x.bw x.bh then [0x3F800000, 0, 0x3F800000, 0x3F800000]
    else (List.range 4).map (fun k => un (Config.astcTexel false (BitVec.ofNat 128 v) x.bw x.bh (i % x.bw) (j % x.bh) k).toNat 65535)
  | _ =>
    if Config.astcIllegal true (BitVec.ofNat 128 v) x.bw x.bh then List.replicate 4 0x7FC00000
    else (List.range 4).map (fun k =>
      (roundEx fp32 ctlRn (fp16.val (Config.astcTexel true (BitVec.ofNat 128 v) x.bw x.bh (i % x.bw) (j % x.bh) k).toNat)).1)

/-- Does a PRIV access of a thread go to the home: on a CHECKED page, or in a pinned carve-out (R149, R150)? -/
def State.toHome (s : State) (pa leaf : Nat) : Bool := bit leaf 61 || s.store.carveouts.any (fun c => c.1 ≤ pa && pa < c.1 + c.2)

/-- Bytes of a thread's PRIV read (R146, R149, R150). -/
def State.privOrHome (s : State) (core pa leaf n : Nat) : List Byte × State :=
  if s.toHome pa leaf then s.homeRead core pa n else s.privRead core pa n

/-- What reading for a sample comes to. -/
inductive SampRes (α : Type) where
  | ok (a : α) (s : State)
  | trap (t : TrapInfo)
  | park (level va : Nat)

/-- The SAMP that reads: its thread, level, position and word. -/
structure Sampler where
  name : ThreadName
  level : Nat
  pc : Pc
  word : Word64

/-- Read bytes for a sample as a PRIV load (R290). A watchpoint that it fires is taken after the word (R309). -/
def State.sampRead (s : State) (w : Sampler) (va len : Nat) : SampRes (List Byte) :=
  let n := w.name
  if 2 ^ 57 ≤ va then .trap { protOf 5 with vaddr := BitVec.ofNat 64 va }
  else match s.xlat (.core n.core) (s.asidOf n) va w.level { write := false, thread := true, bytes := len } with
  | .park l => .park l va
  | .trap e => .trap e
  | .ok pa leaf =>
    let home := s.toHome pa leaf
    if s.poisoned pa len && (home || !(s.lineHeld n.core pa)) then .trap { trapOf .eccUncorr 0 with vaddr := BitVec.ofNat 64 va, paddr := pa }
    else
      let (b, s1) := (s.walkSeen (.core n.core) (s.asidOf n) va).privOrHome n.core pa leaf len
      let (fired, s2) := s1.watch { agentThread n with l1 := if home then none else some n.core } none pa len true false
        (fun p => home || p == clusterOf n.core)
      .ok b ((watchCause fired).foldl (fun s info => s.owe n info w.pc w.word) s2)

/-- One texel's channels. -/
def State.texel (s : State) (w : Sampler) (x : Texture) (l : Nat) (i j : Int) : SampRes (List Nat) :=
  let iu := mapTexel x.modeU (x.width l) i
  let jv := mapTexel x.modeV (x.height l) j
  match s.sampRead w (x.texelAt l iu jv) x.unit with
  | .ok b s1 => .ok (x.channels iu jv b) s1
  | .trap e => .trap e
  | .park a b => .park a b

/-- A value times 256 rounded to the nearest integer, ties to even. -/
def times256 (num : Int) (den : Nat) : Int := roundInt .rne (decide (num < 0)) (num.natAbs * 256) den

/-- Place and weight of a linear coordinate: floor(c · n - 1/2), and its fraction in units of 1/256 (R289). -/
def linearAt (c : Int × Nat) (n : Nat) : Int × Nat :=
  let num := 2 * c.1 * n - c.2
  let den : Int := 2 * c.2
  let i := num / den
  let f := roundNat .rne false (((num - i * den).toNat) * 256) den.toNat
  if f == 256 then (i + 1, 0) else (i, f)

/-- A finite value as a ratio. -/
def Ex.ratio? : Ex → Option (Int × Nat)
  | .fin neg num den => some (signed neg num, den)
  | _ => none

/-- A sum of FP32 channels by weights of so many parts, formed exactly and rounded once. -/
def blend (parts : Nat) (l : List (Nat × Nat)) : Nat :=
  let e := l.foldl (fun (a : Ex) (w, v) => a.add .rne ((Ex.fin false w parts).mul (fp32.val v))) (.fin true 0 1)
  if l.any (fun x => (fp32.val x.2).isNan) then 0x7FC00000 else (roundEx fp32 ctlRn e).1

/-- The texels a level gives for (u, v), with their weights in units of 1/65536. -/
def Texture.taps (x : Texture) (l : Nat) (u v : Int × Nat) : List (Nat × Int × Int) :=
  if x.linear then
    let (i, a) := linearAt u (x.width l)
    let (j, b) := linearAt v (x.height l)
    [((256 - a) * (256 - b), i, j), (a * (256 - b), i + 1, j), ((256 - a) * b, i, j + 1), (a * b, i + 1, j + 1)]
  else [(65536, u.1 * x.width l / u.2, v.1 * x.height l / v.2)]

/-- Sample one level. -/
def State.sampLevel (s : State) (w : Sampler) (x : Texture) (l : Nat) (u v : Int × Nat) : SampRes (List Nat) :=
  let r := (x.taps l u v).foldl (fun (acc : SampRes (List (Nat × List Nat))) (k, i, j) => match acc with
    | .ok l0 s => (match s.texel w x l i j with
      | .ok ch s1 => .ok (l0 ++ [(k, ch)]) s1
      | .trap e => .trap e
      | .park a b => .park a b)
    | r => r) (.ok [] s)
  match r with
  | .ok l0 s1 =>
    .ok ((List.range 4).map (fun k => blend 65536 (l0.map (fun y => (y.1, y.2.getD k 0))))) s1
  | .trap e => .trap e
  | .park a b => .park a b

/-- round(256 · log2 of the square root of a ratio). -/
def lod256 (num den : Nat) : Int :=
  if isPow2 num den then 128 * floorLog2 num den
  else (2 * 128 * log2Fixed num den 160 + 2 ^ 160) / (2 ^ 161 : Nat)

/-- The level in units of 1/256 before its clamp; the bias is in the same units (R289). -/
def Texture.lambda (x : Texture) (ux vx uy vy : Ex) : Int :=
  if [ux, vx, uy, vy].any Ex.isNan then 0
  else if [ux, vx, uy, vy].any Ex.isInf then 2 ^ 20
  else match ux.ratio?, vx.ratio?, uy.ratio?, vy.ratio? with
  | some a, some b, some c, some d =>
    let sq (p q : Int × Nat) : Nat × Nat :=
      ((p.1 * x.w).natAbs ^ 2 * q.2 ^ 2 + (q.1 * x.h).natAbs ^ 2 * p.2 ^ 2, p.2 ^ 2 * q.2 ^ 2)
    let (n1, d1) := sq a b
    let (n2, d2) := sq c d
    let (n, dn) := if n1 * d2 < n2 * d1 then (n2, d2) else (n1, d1)
    if n == 0 then -(2 ^ 20) else lod256 n dn + x.bias
  | _, _, _, _ => 0

/-- An explicit level with its bias, in units of 1/256. -/
def Texture.explicit (x : Texture) (e : Ex) : Int :=
  match e with
  | .inf true => -(2 ^ 20)
  | .inf false => 2 ^ 20
  | .fin neg num den => roundInt .rne neg (num * 256) den + x.bias
  | .nan _ => 0

/-- The operands of a SAMP: descriptor address, u, v and the four values after them, as one number (R425). -/
def sampOperands (t : Thread) (a : Nat) : Nat × BitVec 256 := (t.regsVal a 2, BitVec.ofNat 256 (t.regsVal (a + 2) 6))

/-- A SAMP by its operands: the four channels (R288, R289, R426). -/
def State.sample (s : State) (who : Sampler) (va : Nat) (ops : BitVec 256) (explicit : Bool) : SampRes (List Word32) :=
  if va % 32 != 0 then .trap { trapOf .misalign va with vaddr := BitVec.ofNat 64 va }
  else match s.sampRead who va 32 with
  | .trap e => .trap e
  | .park a b => .park a b
  | .ok b s1 =>
    match textureOf b with
    | none => .trap { trapOf .illegalField va with vaddr := BitVec.ofNat 64 va }
    | some x =>
      let w (i : Nat) : Ex := fp32.val (elem 32 ops.toNat i)
      let nans : List Word32 := List.replicate 4 0x7FC00000
      if (w 0).isNan || (w 1).isNan || (explicit && (w 2).isNan) then .ok nans s1
      else match (w 0).ratio?, (w 1).ratio? with
      | some u, some v =>
        let lam := satN (if explicit then x.explicit (w 2) else x.lambda (w 2) (w 3) (w 4) (w 5)) 0 (256 * x.levels)
        let out (r : SampRes (List Nat)) : SampRes (List Word32) := match r with
          | .ok l s => .ok (l.map (BitVec.ofNat 32)) s
          | .trap e => .trap e
          | .park a b => .park a b
        match x.mip with
        | 0 => out (s1.sampLevel who x 0 u v)
        | 1 => out (s1.sampLevel who x (min x.levels ((lam.toNat + 128) / 256)) u v)
        | _ =>
          let l0 := lam.toNat / 256
          let b := lam.toNat % 256
          match s1.sampLevel who x l0 u v with
          | .trap e => .trap e
          | .park a b => .park a b
          | .ok r0 s2 => match s2.sampLevel who x (min (l0 + 1) x.levels) u v with
            | .trap e => .trap e
            | .park a b => .park a b
            | .ok r1 s3 => .ok ((List.range 4).map (fun k => BitVec.ofNat 32 (blend 256 [(256 - b, r0.getD k 0), (b, r1.getD k 0)]))) s3
      | _, _ =>
        -- an infinite coordinate names no texel: the result is open (DESIGN CHOICE, log 29)
        let (k, s2) := s1.fresh
        .ok ((List.range 4).map (fun i => Config.freeWord (4 * k + i))) s2

/-- SAMP (R426): the checks at the word; the result is an outstanding load. Behind an outstanding acquire of its thread nothing is read yet, and
the pack stalls (R170). -/
def bodySamp (o : MrOp) : BodyFn := eachThread
  (fun _ s t => s.loadsOut t.name < 63 && !(s.acqPending t.name))
  (fun c s t =>
    let (va, ops) := sampOperands t o.a.toNat
    let put (fid : Option Nat) (s : State) : State :=
      let (k, s1) := s.nextOrder
      let x : Outstanding :=
        { id := k, thread := t.name, lid := t.lid, asid := s.asidOf t.name, region := t.region, level := t.level, kind := .sample
          va := BitVec.ofNat 57 va, bytes := 16, pol := 0, ord := 0, scope := 0, dst := o.d, sx := o.off.getLsbD 0, aop := 0, data := ops
          pc := c.pc, word := c.word, fid := fid, peer := none }
      { s1 with store := { s1.store with outst := s1.store.outst ++ [x] } }
    match s.sample { name := t.name, level := t.level, pc := c.pc, word := c.word } va ops (o.off.getLsbD 0) with
    | .trap e => .trap s e
    | .park l a => let (fid, s1) := s.parkFault (s.asidOf t.name) 0 l a
                   .ok (put (some fid) s1)
    | .ok _ _ => .ok (put none s))

/-- SAMP (R425). -/
def execSamp (o : MrOp) (s : State) : Host.Outcome State Fault Refusal := .next (runWord (.samp o) (bodySamp o) s)

/-- BINA (R350). -/
def execBina (o : AgOp) (s : State) : Host.Outcome State Fault Refusal := .next (runWord (.bina o) (bodyBina o) s)

/-- BINA_CLR (R273). -/
def execBinaClr (o : AgOp) (s : State) : Host.Outcome State Fault Refusal := .next (runWord (.binaClr o) (bodyBinaClr o) s)

/-- OCCR (R408). -/
def execOccr (o : AgOp) (s : State) : Host.Outcome State Fault Refusal := .next (runWord (.occr o) (bodyOccr o) s)

/-- OCCR_CLR (R408). -/
def execOccrClr (o : AgOp) (s : State) : Host.Outcome State Fault Refusal := .next (runWord (.occrClr o) (bodyOccrClr o) s)

/-- RAST (R418). -/
def execRast (o : AgOp) (s : State) : Host.Outcome State Fault Refusal := .next (runWord (.rast o) (bodyRast o) s)
end Sys2Proof.Machine
end

