-- ==== Sys2Proof/Machine/Launch.lean ====
section
/-! DEFINITION. Launches: the launch queue, the checks of a launch record and its binding table, admission, the start of gangs, and the
end of workgroups (R17 to R34, R322, R323). -/

namespace Sys2Proof.Machine

/-! ## Device reads of a launch's records (R28, R31) -/

/-- Read n bytes of an address space word by word at supervisor level; none when a word cannot be read. -/
def State.readRecord (s : State) (asid va : Nat) : Nat → Option (List Byte)
  | 0 => some []
  | k + 1 =>
    match s.xlat (.unit 0) asid va 1 { write := false, bytes := 8 } with
    | .ok pa _ =>
      if s.poisoned pa 8 then none
      else (s.readRecord asid (va + 8) k).map (s.store.mem.read pa 8 ++ ·)
    | _ => none

/-- The device's reads of the n words of a record are seen by the watchpoints (R308). -/
def State.recordSeen (s : State) (asid va n : Nat) : State :=
  if s.watchpoints.isEmpty then s
  else (List.range n).foldl (fun s i =>
    let s1 := s.walkSeen (.unit 0) asid (va + 8 * i)
    match s1.xlat (.unit 0) asid (va + 8 * i) 1 { write := false, bytes := 8 } with
    | .ok pa _ => (s1.watch agentDevice none pa 8 true false (fun _ => true)).2
    | _ => s1) s

/-- Bytes of a record by offset. -/
def fieldOf (b : List Byte) (o n : Nat) : Nat := leVal ((b.drop o).take n)

/-! ## Checks (R22 to R33) -/

/-- A level-table entry (R29). -/
def levelOf (w : Nat) : Level := { scope := bits w 18 16, dom := bits w 15 13, ext := bits w 12 0 }

/-- A crew-table entry (R30). -/
def crewOf (w0 w1 : Nat) : Crew := { epc := BitVec.ofNat 57 w0, tag := bits w1 47 40, bud := bits w1 39 33, nth := bits w1 32 20 }

/-- The launch a record describes, before its table is read. -/
def launchOf (asid : Nat) (b : List Byte) : Launch :=
  let w0 := fieldOf b 0 8
  let va (o : Nat) : VAddr := BitVec.ofNat 57 (fieldOf b o 8)
  { lid := 0, asid := asid, cls := bits w0 43 42, crm := bits w0 36 33, scrk := bits w0 31 21, hpc := va 0x10, tarea := va 0x18
    tsa := va 0x20, fctl := BitVec.ofNat 32 (fieldOf b 0x28 4), cpl := va 0x30
    args := (List.range 8).map (fun i => BitVec.ofNat 32 (fieldOf b (0x40 + 4 * i) 4))
    cons := (List.range 8).map (fun i => BitVec.ofNat 32 (fieldOf b (0x60 + 4 * i) 4))
    levels := (List.range (bits w0 41 39 + 1)).map (fun i => levelOf (fieldOf b (0x80 + 8 * i) 8))
    crews := (List.range (bits w0 38 37 + 1)).map (fun i => crewOf (fieldOf b (0xC0 + 16 * i) 8) (fieldOf b (0xC8 + 16 * i) 8))
    clusters := [], outs := [], started := [], finished := [], plan := none, errors := 0, firstCause := 0, firstAddr := 0 }

/-- Do domain codes rise (R23)? -/
def domsRise : List Level → Bool
  | [] => true
  | x :: r => (match r with | y :: _ => decide (x.dom ≤ y.dom) | [] => true) && domsRise r

/-- Squads of all crews. -/
def Launch.squads (l : Launch) : Nat := l.crews.foldl (fun a c => a + (c.nth + 31) / 32) 0

/-- BAD_FIELD (R23, R28 to R31, R134). Bits 63-57 of HPC, TAREA, TSA and CPL, of which the manual says nothing, are taken as reserved like those
of BIND (DESIGN CHOICE, log 53). -/
def recordFieldBad (b : List Byte) (l : Launch) : Bool :=
  let w0 := fieldOf b 0 8
  bit w0 32 || bits w0 20 0 != 0 || l.cls == 3 || l.crm == 0 || 1024 < l.scrk ||
  [0x08, 0x10, 0x18, 0x20, 0x30].any (fun o => 2 ^ 57 ≤ fieldOf b o 8) || fieldOf b 0x2C 4 != 0 || !(fctlOk l.fctl) || fieldOf b 0x38 8 != 0 ||
  (List.range l.levels.length).any (fun i => 2 ^ 19 ≤ fieldOf b (0x80 + 8 * i) 8) ||
  (List.range l.crews.length).any (fun i => 2 ^ 57 ≤ fieldOf b (0xC0 + 16 * i) 8 || bits (fieldOf b (0xC8 + 16 * i) 8) 63 48 != 0 ||
    bits (fieldOf b (0xC8 + 16 * i) 8) 19 0 != 0) ||
  l.levels.any (fun v => v.ext == 0 || 4096 < v.ext || 4 < v.dom || 5 < v.scope)

/-- The statuses judged on the record alone, the first that applies (R31). `strip` is set for a record the strip scheduler raises. -/
def recordStatus (b : List Byte) (l : Launch) (strip : Bool) : Option Nat :=
  if bits (fieldOf b 0 8) 63 44 != 0xC1A51 then some 1
  else if recordFieldBad b l then some 2
  else if fieldOf b 0x08 8 % 64 != 0 || l.hpc.toNat % 8 != 0 || l.tarea.toNat % 4096 != 0 || l.tsa.toNat % 4096 != 0 ||
      l.cpl.toNat % 16 != 0 || l.crews.any (fun c => c.epc.toNat % 8 != 0) then some 3
  else if l.cls == 0 && !strip then some 4
  else if l.crews.any (fun c => c.bud < 8 || c.nth == 0 || 4096 < c.nth) || 128 < l.squads ||
      4096 < l.crews.foldl (fun a c => a + c.nth) 0 then some 5
  else if (l.levels.map (·.dom)).head? != some 0 || !(domsRise l.levels) || l.prod 0 != 32 || l.pC != l.squads then some 6
  else if l.levels.any (fun v => v.scope < max v.dom 1) then some 7
  else none

/-- A cluster entry of the table (R32). -/
def clusterBindOf (w : Nat) : Option ClusterBind :=
  if bit w 31 then
    some { pcl := bits w 29 24
           cores := (List.range 4).map (fun r => if bit w (14 + 3 * r) then some (bits w (13 + 3 * r) (12 + 3 * r)) else none) }
  else none

/-- An output entry of the table (R32). -/
def outBindOf (w : Nat) : Option OutBind :=
  if bit w 31 then some { encoder := bit w 28, unit := bits w 27 24 } else none

/-- Is a list without repeats? -/
def noRepeat [BEq α] : List α → Bool
  | [] => true
  | x :: r => !(r.contains x) && noRepeat r

/-- BIND_FORMAT (R33), of a header and the words of the entries. -/
def tableMalformed (h : Nat) (cw ow : List Nat) : Bool :=
  bits h 63 48 != 0xB17D || bits h 47 40 == 0 || 64 < bits h 47 40 || 10 < bits h 39 32 || bits h 31 0 != 0 ||
  cw.any (fun w => bits w 63 32 != 0 || bit w 30 || bits w 11 0 != 0) ||
  ow.any (fun w => bits w 63 32 != 0 || bit w 30 || 1 < bits w 29 28 || bits w 23 0 != 0) ||
  !(noRepeat ((cw.filterMap clusterBindOf).map (·.pcl))) || !(noRepeat (ow.filterMap outBindOf)) ||
  (cw.filterMap clusterBindOf).any (fun c => !(noRepeat (c.cores.filterMap id)))

/-- Is an output unit present (R321)? -/
def State.outPresent (s : State) (o : OutBind) : Bool :=
  bits s.cap3 31 28 != 2 && (if o.encoder then o.unit < 8 && bit s.cap2 (24 + o.unit) else o.unit < 2 && bit s.cap2 (22 + o.unit))

/-- BIND_ABSENT (R33). -/
def State.tableAbsent (s : State) (l : Launch) : Bool :=
  l.clusters.any (fun c => match c with
    | some c => !(bit (s.dreg regCle) c.pcl) || (c.cores.filterMap id).any (fun k => !(bit (s.dreg (regCores c.pcl)) k))
    | none => false) ||
  l.outs.any (fun o => match o with | some o => !(s.outPresent o) | none => false) ||
  (List.range (l.pP * l.pD)).any (fun q => match l.clusters.getD q none with
    | some c => l.roles.any (fun r => (c.cores.getD r none).isNone)
    | none => true)

/-- PARTITION_SPLIT (R25). -/
def Launch.split (l : Launch) : Bool :=
  l.levels.any (·.dom == 3) &&
  (List.range l.pD).any (fun g =>
    let ps := (List.range l.pP).filterMap (fun i => (l.clusters.getD (g * l.pP + i) none).map (fun c => partitionOf c.pcl))
    ps.any (fun p => p != ps.headD 0))

/-- What the checks of a launch record come to. -/
inductive Judged where
  | admitted (l : Launch)
  /-- Refused: status, and CPL when the record was read. -/
  | refuse (status cpl : Nat)

/-- The checks of R31 on the launch record at an address of an address space. -/
def State.judge (s : State) (asid va : Nat) (strip : Bool) : Judged :=
  if va % 256 != 0 then .refuse 3 0
  else match s.readRecord asid va 32 with
  | none => .refuse 12 0
  | some b =>
    let l := launchOf asid b
    let cpl := fieldOf b 0x30 8
    match recordStatus b l strip with
    | some st => .refuse st cpl
    | none =>
      let bind := fieldOf b 0x08 8
      match s.readRecord asid bind 1 with
      | none => .refuse 12 cpl
      | some hb =>
        let h := leVal hb
        let n := bits h 47 40
        let m := bits h 39 32
        match s.readRecord asid (bind + 8) (n + m) with
        | none => .refuse 12 cpl
        | some tb =>
          let ws := (List.range (n + m)).map (fun i => fieldOf tb (8 * i) 8)
          let l := { l with cls := if strip then 0 else l.cls, clusters := (ws.take n).map clusterBindOf, outs := (ws.drop n).map outBindOf }
          if tableMalformed h (ws.take n) (ws.drop n) then .refuse 8 cpl
          else if n < l.pP * l.pD then .refuse 9 cpl
          else if s.tableAbsent l then .refuse 10 cpl
          else if l.split then .refuse 11 cpl
          else .admitted l

/-! ## Admission (R31, R322) -/

/-- Is a launch id in use? -/
def State.lidUsed (s : State) (n : Nat) : Bool := s.work.launches.any (·.lid == n)

/-- The next launch id from n on that is neither 0 nor in use (DESIGN CHOICE, log 4). -/
def State.freeLid (s : State) : Nat → Nat → Nat
  | 0, n => n
  | fuel + 1, n => if n == 0 || s.lidUsed n then s.freeLid fuel ((n + 1) % 2 ^ 16) else n

/-- Admit a judged launch: it takes its launch id. -/
def State.enrol (s : State) (l : Launch) : Nat × State :=
  let n := s.freeLid 65536 s.work.nextLid
  (n, { s with work := { s.work with launches := s.work.launches ++ [{ l with lid := n }], nextLid := (n + 1) % 2 ^ 16 } })

/-- The words that judging a launch reads, by address and count: the record, and its binding table once the record passes (R28, R32). -/
def State.judgeReads (s : State) (asid va : Nat) (strip : Bool) : List (Nat × Nat) :=
  if va % 256 != 0 then []
  else (va, 32) :: (match s.readRecord asid va 32 with
    | none => []
    | some b => match recordStatus b (launchOf asid b) strip with
      | some _ => []
      | none =>
        let bind := fieldOf b 0x08 8
        match s.readRecord asid bind 1 with
        | none => [(bind, 1)]
        | some h => [(bind, 1 + bits (leVal h) 47 40 + bits (leVal h) 39 32)])

/-- Those reads as the watchpoints see them. -/
def State.judgeSeen (s : State) (asid va : Nat) (strip : Bool) : State :=
  (s.judgeReads asid va strip).foldl (fun s x => s.recordSeen asid x.1 x.2) s

/-- Refuse a launch: its completion record, with launch id 0 (R31, R323). A CPL that is misaligned or wider than 57 bits gets none, as a CPL of 0
does (DESIGN CHOICE, log 54). -/
def State.refuse (s : State) (asid status cpl : Nat) : State :=
  if cpl % 16 != 0 || 2 ^ 57 ≤ cpl then s else s.completion asid cpl 0 status 0 0 0

/-- A write of LQT (R322): ignored with LQERR when it is behind LQH or more than 4,096 ahead of it. -/
def State.writeLqt (s : State) (v : Nat) : State :=
  let r := s.dreg (regLq + 8)
  let head := r % 2 ^ 32
  if 4096 < (v + 2 ^ 32 - head) % 2 ^ 32 then s.setDreg (regLq + 16) 1
  else s.setDreg (regLq + 8) (v % 2 ^ 32 * 2 ^ 32 + head)

/-- LAUNCH_QUEUE_WRITE (R322): the host raises LQT. -/
def execLaunchQueueWrite (lqt : BitVec 32) (s : State) : Host.Outcome State Fault Refusal := .next (s.writeLqt lqt.toNat)

/-- The physical clusters that a launch's binding names. -/
def Launch.boundClusters (l : Launch) : List Nat := (l.clusters.filterMap (fun c => c.map (·.pcl))).dedup

/-- A launch's arrival in the trail logs of its clusters (R316). -/
def State.launchArrives (s : State) (l : Launch) : State :=
  let ps := l.boundClusters
  let w0 (p : Nat) : Nat := trailWord 4 p 0 0 0 (7 * 2 ^ 30)
  ps.foldl (fun s p => s.trail p (w0 p) l.lid) s

/-- May the arrival take its place in the trail logs? -/
def State.arrivalOk (s : State) (l : Launch) : Bool :=
  l.boundClusters.all (fun p => s.trailOk p (trailWord 4 p 0 0 0 (7 * 2 ^ 30)) (l.cls == 0))

/-- LAUNCH_ADMISSION (R31, R322): the device reads the next entry of the queue and admits or refuses its launch. Nothing is admitted
before the launch queue is open (R331) or during a checkpoint (R328). -/
def execLaunchAdmission (s : State) : Host.Outcome State Fault Refusal :=
  .next (
    let r := s.dreg (regLq + 8)
    let head := r % 2 ^ 32
    if head == r / 2 ^ 32 || s.control.checkpointHalt || s.control.fw.phase != 7 then s
    else
      let base := bits (s.dreg regLq) 51 16 * 2 ^ 16
      let a := base + 16 * (head % 4096)
      let va := bits (s.store.mem.val a 8) 56 0
      let asid := bits (s.store.mem.val (a + 8) 8) 63 48
      let s1 := ((s.setDreg (regLq + 8) (r / 2 ^ 32 * 2 ^ 32 + (head + 1) % 2 ^ 32)).watch agentDevice none a 16 true false (fun _ => true)).2
      let s1 := s1.judgeSeen asid va false
      match s1.judge asid va false with
      | .refuse st cpl => s1.refuse asid st cpl
      | .admitted l => if s1.arrivalOk l then (let (n, s2) := s1.enrol l; s2.launchArrives { l with lid := n }) else s)

/-! ## Gangs (R19, R26) -/

/-- Workgroup w of a launch as it would start on a slot and an allocation (R17, R19, R26). -/
def Launch.gang (l : Launch) (w core slot base now : Nat) : Workgroup :=
  let k := w % l.pK
  let m := l.roles.length
  { core := core, slot := slot, lid := l.lid, w := w, q := w / l.pK, group := k / m, role := l.roles.getD (k % m) 0, cls := l.cls, area := w
    entry := none, base := base, size := l.scrk * 1024, uniform := l.args ++ l.cons ++ List.replicate 16 0
    crews := crewRuns ((List.range l.crews.length).zip l.crews) 0 none, exiting := false, chain := none, srate := 0, startedAt := now
    cancelled := false, endedByHandler := false, restored := false, restoring := none, away := none }

/-- Is an earlier workgroup of the same core role of the cluster role still PENDING (R26)? -/
def Launch.earlierPending (l : Launch) (w : Nat) : Bool :=
  let m := l.roles.length
  (List.range (w % l.pK)).any (fun k => k % m == w % l.pK % m && !(l.started.contains (w / l.pK * l.pK + k)))

/-- GANG_START (R19, R26): a PENDING workgroup of an admitted launch starts when its core has room. -/
def execGangStart (lid w : Nat) (s : State) : Host.Outcome State Fault Refusal :=
  .next (match s.launch? lid with
  | none => s
  | some l =>
    if l.plan.isSome || l.count ≤ w || l.started.contains w || l.earlierPending w then s
    else
      match l.coreOf (w / l.pK) (l.roles.getD (w % l.pK % l.roles.length) 0) with
      | none => s
      | some core =>
        if s.stopped core then s
        else
          let n := l.crews.foldl (fun a c => a + c.nth) 0
          match s.room core l.cls n (l.scrk * 1024) with
          | none => s
          | some (slot, base) =>
            (s.modLaunch lid (fun l => { l with started := l.started ++ [w] })).startGang l (l.gang w core slot base s.now))

/-! ## The end of a workgroup (R21) -/

/-- Is a held delivery for a workgroup? -/
def HeldDelivery.for_ (h : HeldDelivery) (g : Workgroup) : Bool :=
  h.lid == g.lid && h.q == g.q && h.group == g.group && h.role == g.role

/-- Drop what the cluster network holds for an EXITING workgroup (R217). -/
def State.dropHeld (s : State) (g : Workgroup) : State :=
  if g.entry.isSome then s
  else (s.engines.heldDeliveries.filter (·.for_ g)).foldl (fun s h =>
    let s1 := { s with engines := { s.engines with heldDeliveries := s.engines.heldDeliveries.filter (· != h) } }
    (s1.deliveryDropped h.thread h.key h.bob).transferOver h.thread h.key h.copy) s

/-- Is a thread of a workgroup? -/
def Workgroup.has (g : Workgroup) (n : ThreadName) : Bool := n.core == g.core && n.slot == g.slot

/-- Outstanding work of an EXITING workgroup: copies, accesses, its pitch, raster operations, ring slots, handler contexts. -/
def State.workLeft (s : State) (g : Workgroup) : Bool :=
  s.work.threads.any (fun t => g.has t.name && (t.st != .exited || t.batches.any (fun b => !(b.released && b.landed)))) ||
  s.store.outst.any (fun o => g.has o.thread) || s.engines.copies.any (fun c => g.has c.thread) ||
  s.engines.pitches.any (fun p => p.core == g.core && p.slot == g.slot) || s.engines.rasts.any (fun r => g.has r.thread) ||
  s.media.slots.any (fun x => x.owner == some (.wg g.core g.slot g.lid))

/-- The workgroup is gone: its slot, threads, allocation and conflict entries are free. -/
def State.vacate (s : State) (g : Workgroup) : State :=
  let s1 := s.freeTiles g.core g.base g.size
  let keep (e : ConEntry) : Bool := !(g.has e.thread)
  let cons := (s1.store.conflicts.map (fun r =>
    { r with writer := r.writer.filter keep, readers := r.readers.filter keep, bcr := r.bcr.filter keep, bca := r.bca.filter keep })).filter
      (fun r => !r.free)
  { s1 with
    store := { s1.store with conflicts := cons }
    work := { s1.work with groups := s1.work.groups.filter (fun x => !(x.core == g.core && x.slot == g.slot))
                           threads := s1.work.threads.filter (fun t => !(g.has t.name)) }
    control := { s1.control with counts := s1.control.counts.filter (fun x => !(x.core == g.core && x.slot == g.slot)) } }

/-- WORKGROUP_EXITED (R21): an EXITING workgroup whose outstanding work has completed. -/
def execWorkgroupExited (core slot : Nat) (s : State) : Host.Outcome State Fault Refusal :=
  .next (match s.group? core slot with
  | none => s
  | some g =>
    if !g.exiting || s.stopped core then s
    else
      let parked (o : Outstanding) : Bool := g.has o.thread && o.fid.isSome
      let s0 := { s with store := { s.store with outst := s.store.outst.filter (fun o => !(parked o)) } }
      let s1 := s0.dropHeld g
      if s1.workLeft g then s1
      else
        let task := s1.taskOf g
        let s2 := s1.vacate g
        match task with
        | some t => s2.taskDone t (if g.cancelled then 2 else if g.endedByHandler then 3 else 0)
        | none =>
          if g.entry.isSome then s2
          else (s2.modLaunch g.lid (fun l => { l with finished := l.finished ++ [g.w] })).launchSettle g.lid)

end Sys2Proof.Machine
end

