-- ==== Sys2Proof/Machine/Strip.lean ====
section
/-! DEFINITION. The strip scheduler: enabling and disabling plans and the admission of strip chains (R251 to R260, R263, R268, R269). -/

namespace Sys2Proof.Machine

/-! ## Plans (R254) -/

/-- The plan in 256 bytes at an address, without its template. -/
def planOf (va : Nat) (b : List Byte) : Plan :=
  let w (o : Nat) : Nat := fieldOf b o 8
  let enc := (List.range 3).any (fun i => w (0x88 + 8 * i) != 0)
  { orl := bits (w 0) 47 44, height := 8 * 2 ^ bits (w 0) 43 42, late := bits (w 0) 41 40, bsr := bits (w 0) 39 37, pfmt := bits (w 0) 36 36
    wid := bits (w 0) 31 19, spf := bits (w 0) 18 8, ring := bits (w 0) 7 0, epoch := w 8, lper := bits (w 0x10) 63 32
    vtot := bits (w 0x10) 31 16, voff := bits (w 0x10) 15 0, lead := bits (w 0x18) 63 32, budg := bits (w 0x18) 31 0
    guard_ := bits (w 0x20) 63 32, fill := bits (w 0x20) 29 0, tasks := [], stat := w 0x38, crb := bits (w 0x40) 63 58
    crn := bits (w 0x40) 57 52, qaddr := va + 0x8F, nref := bits (w 0x88) 55 53, cmx := bit (w 0x88) 52, nenc := bits (w 0x88) 51 50
    bsa := w 0x90, bsz := w 0x98, encoder := enc, lid := 0 }

/-- Template array and task count of a plan. -/
def templateOf (b : List Byte) : Nat × Nat := (bits (fieldOf b 0x28 8) 56 0, bits (fieldOf b 0x28 8) 63 58 + 1)

/-- PLAN_FIELD of a plan's own fields (R254, R268). -/
def planFieldBad (va : Nat) (b : List Byte) (p : Plan) : Bool :=
  let w (o : Nat) : Nat := fieldOf b o 8
  let reserved := bits (w 0) 35 32 != 0 || bits (w 0x20) 31 30 != 0 || bit (w 0x28) 57 || 2 ^ 57 ≤ w 0x30 || 2 ^ 57 ≤ w 0x38 ||
    bits (w 0x40) 51 0 != 0 || bits (w 0x88) 49 0 != 0 || 2 ^ 57 ≤ w 0x90 || 2 ^ 32 ≤ w 0x98 || (b.drop 0xA0).any (· != 0)
  let k := if p.nenc == 3 then 2 else 1
  let lines := p.height * p.spf
  let encBad := p.pfmt != 0 || p.nref == 0 || (p.nenc != 0 && p.nenc != 3) || 9 < p.orl + p.nenc || p.bsa % 4096 != 0 || p.bsz == 0 ||
    p.bsz % 4096 != 0 || 3840 * k < p.wid || 2160 * k < lines ||
    497664000 * (p.nenc + 1) * (p.vtot * p.lper) < p.wid * lines * 10 ^ 9 * 2 ^ 16
  bits (w 0) 63 48 != 0x5719 || va % 256 != 0 || reserved || 9 < p.orl || 1 < p.late || 4 < p.bsr || p.wid == 0 || 7680 < p.wid || p.spf == 0 ||
  p.lper == 0 || p.budg == 0 || p.vtot < p.voff + lines || (templateOf b).1 % 128 != 0 || w 0x30 % 256 != 0 || p.stat % 2048 != 0 ||
  (p.encoder && encBad)

/-- The output entries that a plan uses. -/
def Plan.outputs (p : Plan) (l : Launch) : List (Option OutBind) :=
  (List.range (if p.encoder then p.nenc + 1 else 1)).map (fun i => l.outs.getD (p.orl + i) none)

/-- Output units of an enabled plan: kind and unit. -/
def State.planUnits (s : State) (p : Plan) : List OutBind :=
  match s.launch? p.lid with | some l => (p.outputs l).filterMap id | none => []

/-- Eight raw reference pictures' worth of a session's bytes, times 8 (R269). -/
def Plan.refBytes8 (p : Plan) : Nat := (p.nref + 1) * p.wid * (p.height * p.spf) * 15

/-- Ring numbers bound to a plan slot: BND and PSL alone tell (R253, R256). -/
def State.boundRings (s : State) (i : Nat) : List Nat :=
  (List.range 256).filter (fun r => let w := s.dreg (regRing r); bit w 62 && bits w 61 58 == i)

/-- Codes 4 to 8 of R253, the first that applies; the template's handles are judged first, against the tile tables of the plan's
clusters. -/
def State.planStatus (s : State) (i : Nat) (p : Plan) (l : Launch) (tb : List (List Byte)) : Nat :=
  let outs := p.outputs l
  let others := s.media.plans.filter (fun x => x.enabled)
  let ring := s.ring p.ring
  let clusters := ((List.range (p.crn + 1)).filterMap (fun q => l.clusters.getD (p.crb + q) none)).map (·.pcl)
  if clusters.any (fun c => tb.any (fun b => s.taskBad l (some c) b)) then 2
  else if outs.any (fun o => match o with | some o => o.encoder != p.encoder | none => true) || l.clusters.length < p.crb + p.crn + 1 ||
      ring.conk != 1 + b2n p.encoder then 4
  else if outs.any (fun o => match o with | some o => !(s.outPresent o) | none => true) then 5
  else if p.encoder && 8 * (128 * 2 ^ 20) < p.refBytes8 + ((others.filter (·.plan.encoder)).map (·.plan.refBytes8)).foldl (· + ·) 0 then 6
  else if ring.invalid l.asid || !ring.bnd || ring.psl != i || ring.lines != p.height ||
      ring.lineBytes < p.wid * (if p.pfmt == 0 then 4 else 8) || (s.boundRings i).any (fun r => s.media.slots.any (·.ring == r)) then 7
  else if others.any (fun x => x.plan.ring == p.ring || (s.planUnits x.plan).any (fun o => outs.contains (some o))) then 8
  else 0

/-- The lowest strip whose start is at least 4 µs after now (R256). -/
def State.firstStrip (s : State) (p : Plan) : Nat :=
  let t : Int := s.time + (4000 * 2 ^ 32 : Nat)
  let frame : Int := (p.vtot * p.lper * 2 ^ 16 : Nat)
  let f := ((t - p.start 0) / frame - 1).toNat
  ((List.range (4 * p.spf + 1)).map (f * p.spf + ·)).find? (fun n => t ≤ p.start n) |>.getD (f * p.spf)

/-- The first line, counted from line 0 of frame 0, that is scanned at or after now; before EPOCH it is negative. -/
def State.nextLine (s : State) (p : Plan) : Int :=
  let d : Int := s.time - p.line 0 0
  let step : Int := (p.lper * 2 ^ 16 : Nat)
  (d + step - 1) / step

/-- A serialiser's state; its link is down until it trains. -/
def State.serialiser (s : State) (unit : Nat) : Serialiser :=
  (s.media.serialisers.find? (·.unit == unit)).getD
    { unit := unit, rate := 0, lanes := 0, bpc := 0, plan := none, firstStrip := 0, nextStrip := 0, line := 0, strip := none, last := none, shown := [] }

def State.putSerialiser (s : State) (x : Serialiser) : State :=
  { s with media := { s.media with serialisers := s.media.serialisers.filter (·.unit != x.unit) ++ [x] } }

/-- Set the four pointers of a ring (R256). -/
def State.startRing (s : State) (r n : Nat) : State :=
  ((((s.setRingPtr r .prd n).setRingPtr r .pub n).setRingPtr r .con n).setRingPtr r .rls n)

/-- The enable is accepted: the launch takes its id, and the scheduler and the output take the plan. -/
def State.acceptPlan (s : State) (i : Nat) (p : Plan) (l : Launch) (costs : List Nat) : State :=
  let (lid, s1) := s.enrol { l with cls := 0 }
  let key := i + 16 * lid
  let p := { p with lid := lid, asid := l.asid }
  let n := s.firstStrip p
  let s2 := s1.modLaunch lid (fun l => { l with plan := some key })
  let x : PlanSlot := { slot := key, plan := p, enabled := true, est := costs, nextN := n, chains := [] }
  let s3 := { s2 with media := { s2.media with plans := s2.media.plans ++ [x]
                                               lates := s2.media.lates.filter (fun y => !((s.boundRings i).contains y.1))
                                               voids := s2.media.voids.filter (fun y => !((s.boundRings i).contains y.1)) } }
  let s4 := (s.boundRings i).foldl (fun s r => s.startRing r (n % 2 ^ 32)) s3
  let s5 := ((((s4.setDreg (regPlan i + 0x10) (p.bsr * 2 ^ 61)).setDreg (regPlan i + 0x18) 0).setDreg (regPlan i + 0x20) 0).setDreg
    (regPlan i + 0x28) 0).setDreg (regPlan i + 0x30) 0
  if p.encoder then
    let e : EncSession := { slot := i, plan := p, asid := l.asid, firstStrip := n, frame := n / p.spf, row := 0, key := true, nextKey := false
                            unitStart := 0, dropped := false, qidx := 0, treated := 0 }
    { s5 with media := { s5.media with encoders := s5.media.encoders.filter (·.slot != i) ++ [e] } }
  else
    match (p.outputs l).headD none with
    | some o =>
      let y := s5.serialiser o.unit
      ({ s5 with media := { s5.media with encoders := s5.media.encoders.filter (·.slot != i) } } : State).putSerialiser { y with plan := some (key, p), firstStrip := n, nextStrip := n, line := s.nextLine p, strip := none, last := none }
    | none => s5

/-- An enable of slot i (R253): its status, and the state after it. -/
def State.enable (s : State) (i : Nat) : Nat × State :=
  let va := bits (s.dreg (regPlan i)) 56 0
  let asid := bits (s.dreg (regPlan i + 8)) 63 48
  let read := s.readRecord asid (va / 8 * 8) 32
  let s := s.recordSeen asid (va / 8 * 8) 32
  match read with
  | none => (1, s)
  | some b =>
    let p := planOf va b
    let (tmpl, n) := templateOf b
    let lrec := bits (fieldOf b 0x30 8) 56 0
    let read := (s.readRecord asid (tmpl / 8 * 8) (16 * n), s.readRecord asid (lrec / 8 * 8) 32)
    let s := (s.recordSeen asid (tmpl / 8 * 8) (16 * n)).judgeSeen asid lrec true
    match read with
    | (some tb, some lb) =>
      let recs := (List.range n).map (fun k => (tb.drop (128 * k)).take 128)
      if planFieldBad va b p || recs.any (fun r => s.taskBad (launchOf asid lb) none r) then (2, s)
      else match s.judge asid lrec true with
      | .refuse st cpl => (3, s.refuse asid st cpl)
      | .admitted l =>
        match s.planStatus i p l recs with
        | 0 => (0, s.acceptPlan i { p with tasks := recs.map (fun r => (taskBytes r).1) } l ((List.range 16).map (fun k => fieldOf b (0x48 + 4 * k) 4)))
        | st => (st, s)
    | _ => (1, s)

/-- The enabled plan of a slot. -/
def State.enabledPlan (s : State) (i : Nat) : Option PlanSlot := s.media.plans.find? (fun p => p.enabled && slotOf p.slot == i)

/-- A write of word 0 of a plan slot's registers (R252, R253). -/
def State.writePlan (s : State) (i v : Nat) : State :=
  if 10 ≤ i then s
  else match s.enabledPlan i with
  | some p =>
    if bit v 63 then s
    else
      let s1 := (s.modPlan p.slot (fun p => { p with enabled := false })).setDreg (regPlan i) (bits v 56 0)
      s1.launchSettle p.plan.lid
  | none =>
    let s1 := s.setDreg (regPlan i) (bits v 56 0)
    if !(bit v 63) then s1
    else
      let (st, s2) := s1.enable i
      let s3 := s2.setDreg (regPlan i + 8) (setBits (s2.dreg (regPlan i + 8)) 47 40 st)
      if st == 0 then s3.setDreg (regPlan i) (2 ^ 63 + bits v 56 0) else s3

/-- PLAN_ENABLE (R253). -/
def execPlanEnable (slot : Nat) (v : BitVec 64) (s : State) : Host.Outcome State Fault Refusal := .next (s.writePlan slot v.toNat)

/-- PLAN_DISABLE (R253): a write of EN = 0 that keeps PLAN. -/
def execPlanDisable (slot : Nat) (s : State) : Host.Outcome State Fault Refusal :=
  .next (s.writePlan slot (bits (s.dreg (regPlan slot)) 56 0))

/-! ## Admission (R256, R257) -/

/-- Free entries of the STRIP reserve of a cluster's dependence table (R251, R257). -/
def State.stripFree (s : State) (cluster : Nat) : Nat :=
  let on := s.work.tasks.filter (·.cluster == cluster)
  min (64 - (on.filter (·.cls == 0)).length) (256 - on.length)

/-- Admit strip n of a plan: its status entry is zeroed and its template spawned. -/
def State.admitStrip (s : State) (x : PlanSlot) (l : Launch) (n : Nat) : State :=
  let p := x.plan
  let q := p.role n
  let cl := s.roleCluster p.lid q
  let lvl := s.planLvl x.slot
  let s1 := s.writeStatus p n 0 (List.replicate 32 0)
  let c : Chain := { slot := x.slot, n := n, clevel := lvl, lv0 := lvl, left := p.tasks.length, lastDone := 0, published := none }
  let s2 := s1.modPlan x.slot (fun y => { y with nextN := n + 1, chains := y.chains ++ [c] })
  let nadm := regPlan (slotOf x.slot) + 0x18
  let s3 := s2.setDreg nadm (s2.dreg nadm + 1)
  p.tasks.foldl (fun s t =>
    let args := setAt (setAt t.args 6 (BitVec.ofNat 32 (n % p.spf))) 7 (BitVec.ofNat 32 (n / p.spf))
    match s.freeEntry cl 0 with
    | some e => s.spawnTask cl e p.lid q 0 (q * l.pK) 0 { t with args := args, chainId := p.chainId n } (some (x.slot, n))
    | none => s) s3

/-- STRIP_ADMISSION (R256, R257): the chain of a plan's next strip, once its start time has come, the reserve holds its tasks, and at most
8 chains are in flight. -/
def execStripAdmission (slot : Nat) (s : State) : Host.Outcome State Fault Refusal :=
  .next (match s.enabledPlan slot with
  | none => s
  | some x =>
    match s.launch? x.plan.lid with
    | none => s
    | some l =>
      let n := x.nextN
      let cl := s.roleCluster x.plan.lid (x.plan.role n)
      if s.control.checkpointHalt || s.control.fw.powerOff || s.time < x.plan.start n || 8 < x.chains.length || s.stripFree cl < x.plan.tasks.length then s
      else s.admitStrip x l n)

/-! ## The device time counter (R247, R248) -/

/-- Bound of ADJ: 500 parts per million. -/
def adjMax : Int := 549755814

/-- A write of ADJ: clamped, effective from the next cycle. -/
def State.writeAdj (s : State) (v : BitVec 32) : State :=
  { s with clock := { s.clock with adj := BitVec.ofInt 32 (satN v.toInt (-adjMax) adjMax) } }

/-- A write of STEPV: applied while strip mode is off and the step is not negative, refused with STREF otherwise. -/
def State.writeStepv (s : State) (v : BitVec 64) : State :=
  if s.stripMode || v.toInt < 0 then { s with clock := { s.clock with stref := true } }
  else { s with clock := { s.clock with dtc := s.clock.dtc + BitVec.ofNat 136 (v.toNat * 2 ^ 72) } }

/-- ADJ_WRITE (R247). -/
def execAdjWrite (v : BitVec 64) (s : State) : Host.Outcome State Fault Refusal := .next (s.writeAdj (v.setWidth 32))

/-- STEPV_WRITE (R248). -/
def execStepvWrite (v : BitVec 64) (s : State) : Host.Outcome State Fault Refusal := .next (s.writeStepv v)

end Sys2Proof.Machine
end

