-- ==== Sys2Proof/Machine/Trap.lean ====
section
/-! DEFINITION. System words: special registers, role queries, software traps, translation invalidation, the return from a trap;
and the events that start a handler or a service context (R292 to R298, R302, R303, R353, R424, R429, R432, R434, R449). -/

namespace Sys2Proof.Machine

/-! ## Special registers (R250, R258, R429) -/

/-- The plan and strip of a thread's strip chain (R258). -/
def State.stripOf (s : State) (n : ThreadName) : Option (Plan × Nat) :=
  match (s.groupOf n).bind (·.chain) with
  | some (i, k) => (s.planSlot? i).map (fun p => (p.plan, k))
  | none => none

/-- WPTR of a channel as a thread reads it (R205). -/
def State.wptr (s : State) (n : ThreadName) (ch : Nat) : Nat :=
  match s.groupOf n, s.engines.ptrs.find? (fun x => x.core == n.core && x.ch == ch) with
  | some g, some x => if x.lid == g.lid && x.slot == g.slot && x.startedAt == g.startedAt then x.ptr else 0
  | _, _ => 0

/-- Value of a special register for a thread (R27, R258, R295, R429). -/
def State.special (s : State) (t : Thread) (num ch : Nat) : Nat :=
  let n := t.name
  let g := s.groupOf n
  let level (i : Nat) : Nat × Nat :=
    match g, s.launch? t.lid with
    | some g, some l => (l.indices g.w (n.wti / 32) (n.wti % 32)).getD i (0, 1)
    | _, _ => (0, 1)
  if num < 8 then (level num).1
  else if num < 16 then (level (num - 8)).2
  else match num with
  | 0x10 => n.wti / 32
  | 0x11 => n.wti % 32
  | 0x12 => match g with | some g => g.w | none => 0
  | 0x13 => t.lid
  | 0x14 => t.crew
  | 0x15 => match g with | some g => g.q * 256 + g.role | none => 0
  | 0x20 => s.dtcNs
  | 0x21 => t.dtcf.toNat
  | 0x22 => s.now
  | 0x30 => match g with | some g => if g.chain.isSome then g.srate else 0 | none => 0
  | 0x31 => match s.stripOf n with | some (p, k) => k % p.spf | none => 0
  | 0x32 => match s.stripOf n with | some (p, k) => p.chainId k | none => 0
  | 0x33 => match s.stripOf n with | some (p, k) => (p.finish k / (2 ^ 32 : Nat) % (2 ^ 64 : Nat)).toNat | none => 0
  | 0x40 => t.fctl.toNat
  | 0x41 => t.fstat.toNat
  | 0x42 => t.loops.length
  | 0x50 => s.dreg regCle % 2 ^ 32
  | 0x51 => s.dreg regCle / 2 ^ 32
  | 0x52 => s.cap2
  | 0x53 => s.cap3
  | 0x60 => s.wptr n ch
  | 0x70 => match t.handling with | some h => h.cause + 256 * h.recSlot | none => 0
  | _ => match t.handling with | some h => h.tval.toNat | none => 0

/-- Source code of the INPUT entry that a special register's value takes (R316). -/
def inputCode (num : Nat) : Option Nat :=
  match num with | 0x20 => some 0 | 0x21 => some 1 | 0x22 => some 2 | 0x60 => some 3 | _ => none

/-- One thread's SREAD. Reading DTC latches its fraction (R250). -/
def sreadThread (o : SyOp) : Ctx → State → Thread → TRes := fun _ s t =>
  let num := o.sub12.toNat
  let v := s.special t num o.imm.toNat
  let (v, s1) := match inputCode num with
    | some k => s.trailInput (clusterOf t.name.core) t.name.core t.name.slot t.name.wti k v
    | none => (v, s)
  let n := if [0x20, 0x22, 0x33].contains num then 2 else 1
  let latch (t : Thread) : Thread := if num == 0x20 then { t with dtcf := BitVec.ofNat 32 s.dtc96 } else t
  .ok (s1.modThread t.name (fun t => latch (t.setRegs o.d.toNat (cutRegs v n))))

/-- SREAD (R429). -/
def bodySread (o : SyOp) : BodyFn := gated
  (fun _ _ t => (inputCode o.sub12.toNat).map (fun k =>
    (clusterOf t.name.core, trailWord 4 (clusterOf t.name.core) t.name.core t.name.slot t.name.wti (k * 2 ^ 30), none)))
  (forEach (sreadThread o))

/-- SWRITE (R134, R135, R429). -/
def bodySwrite (o : SyOp) : BodyFn := forEach (fun c s t =>
  let v : Word32 := BitVec.ofNat 32 (srcReg c t o.a)
  if o.sub12 == 0x40 then
    if fctlOk v then .ok (s.modThread t.name (fun t => { t with fctl := v })) else .trap s (trapOf .illegalField 0)
  else if fstatOk v then .ok (s.modThread t.name (fun t => { t with fstat := v })) else .trap s (trapOf .illegalField 0))

/-! ## Role queries (R424) -/

/-- Result of a role query for a thread. -/
def State.roleQuery (s : State) (t : Thread) (query v : Nat) : Nat :=
  match s.groupOf t.name, s.launch? t.lid with
  | some g, some l =>
    match query with
    | 0 =>
      let cores := match l.clusters.getD g.q none with | some c => c.cores | none => []
      (List.range 4).foldl (fun a c => if (cores.getD c none).isSome && bit l.crm c then a + 2 ^ c else a) 0
    | 1 => l.clusters.length
    | 2 => match l.outs.getD (v % 16) none with
      | some x => 2 ^ 31 + b2n x.encoder * 2 ^ 28 + (if t.level == 0 then 0 else x.unit * 2 ^ 24)
      | none => 0
    | _ => match s.peerOf l g (v % 4) with
      | .unbound => 0
      | .pending => 1
      | .run h => if h.exiting then 3 else 2
      | .gone => 3
  | _, _ => 0

/-- ROLEQ (R424). -/
def bodyRoleq (o : SyOp) : BodyFn := forEach (fun c s t =>
  .ok (s.modThread t.name (·.setReg o.d.toNat (BitVec.ofNat 32 (s.roleQuery t o.sub12.toNat (srcReg c t o.a))))))

/-! ## Software traps (R353, R434) -/

/-- TRAP (R434). -/
def bodyTrap (o : SyOp) : BodyFn := forEach (fun _ s _ => .ok s .next [trapOf .swtrap o.imm.toNat])

/-- BKPT (R353). -/
def bodyBkpt (o : SyOp) : BodyFn := forEach (fun _ s _ => .ok s .next [trapOf .bkpt o.sub12.toNat])

/-! ## Translation invalidation (R159, R432) -/

/-- What a TLBI names: a page of an address space, an address space, or all of them. -/
inductive TlbiRange where
  | page (asid va : Nat)
  | space (asid : Nat)
  | all

/-- Does a cached translation, a cached table entry, or a translated access fall in the range? -/
def TlbiRange.hits : TlbiRange → Nat → (Nat → Bool) → Bool
  | .page a va, asid, has => asid == a && has va
  | .space a, asid, _ => asid == a
  | .all, _, _ => true

def TlbiRange.trans (r : TlbiRange) (t : Trans) : Bool := r.hits t.asid (fun va => t.va ≤ va && va < t.va + t.size)
def TlbiRange.walks (r : TlbiRange) (x : WalkEntry) : Bool := r.hits x.asid (fun va => x.covers x.asid va)
def TlbiRange.access (r : TlbiRange) (o : Outstanding) : Bool :=
  o.tr.isSome && r.hits o.asid (fun va => o.va.toNat / max 1 o.page == va / max 1 o.page)

/-- Remove every cached translation of the ranges from every L1 TLB, L2 TLB and page-walk cache of the device. -/
def State.tlbDrop (s : State) (l : List TlbiRange) : State :=
  { s with store := { s.store with tlb := s.store.tlb.filter (fun t => !(l.any (·.trans t)))
                                   walks := s.store.walks.filter (fun x => !(l.any (·.walks x))) } }

/-- TLBI (R432): the removals of the active threads, once; the word retires when every access already translated with a removed entry has
been performed. -/
def tlbiBody (range : Ctx → Thread → TlbiRange) : BodyFn := fun c s =>
  match c.pack.tlbi with
  | some l => if s.store.outst.any (fun o => l.contains o.id) then .stall else passOn c s
  | none =>
    let ranges := (c.actives s).filterMap (fun n => (s.thread? n).map (range c))
    let l := (s.store.outst.filter (fun o => ranges.any (·.access o))).map (·.id)
    let s1 := s.tlbDrop ranges
    if l.isEmpty then passOn c s1
    else .more ((s1.modPack c.pack.core c.pack.pipe (fun p => { p with tlbi := some l })).stallPack c.pack)

/-- TLBI.PAGE (R432). -/
def bodyTlbiPage (o : SyOp) : BodyFn := tlbiBody (fun c t => .page o.imm.toNat (srcField (hLit32 c.pack.hdr) t 3 (.s 2) o.a))

/-- TLBI.ASID (R432). -/
def bodyTlbiAsid (o : SyOp) : BodyFn := tlbiBody (fun _ _ => .space o.imm.toNat)

/-- TLBI.ALL (R432). -/
def bodyTlbiAll (_ : SyOp) : BodyFn := tlbiBody (fun _ _ => .all)

/-! ## Trap records (R296) -/

/-- Bit of PND for a pending cause, from bit 8 of the record on. -/
def pendBit (c : Cause) : Nat := match c with | .step => 0 | .watch => 1 | .fp => 2 | _ => 3

/-- PND of the causes marked pending. -/
def pendMask (l : List Kept) : Nat := [0, 1, 2, 3].foldl (fun a b => if l.any (fun k => pendBit k.info.cause == b) then a + 2 ^ b else a) 0

def Pc.word (p : Pc) : Nat := p.wi * 2 ^ 60 + p.ca.toNat

/-- The 32 words of the record of a trapped thread. -/
def State.trapWords (s : State) (t : Thread) (r : Trapped) : List Nat :=
  let g := s.groupOf t.name
  let tke := match g with | some g => g.tke | none => 0
  let self := (s.logicalOf t.name).toNat
  let (othr, olid, orgn) : Nat × Nat × Nat := match r.info.other with
    | some p => (p.logical.toNat, p.lid, p.region.toNat)
    | none => (0, 0, 0)
  [ t.lid * 2 ^ 48 + t.name.slot % 64 * 2 ^ 42 + t.crew * 2 ^ 40 + t.name.wti * 2 ^ 28 + tke * 2 ^ 16 + t.level * 2 ^ 14 +
      pendMask r.kept * 2 ^ 8 + r.info.cause.code,
    t.region.toNat * 2 ^ 32 + r.info.tval.toNat, r.resume.word, r.at_.word, r.word.toNat, r.info.vaddr.toNat, r.info.paddr % 2 ^ 52,
    r.pb.toNat * 2 ^ 28 + r.pa.toNat, self % 2 ^ 64, self / 2 ^ 64, othr % 2 ^ 64, othr / 2 ^ 64,
    olid * 2 ^ 48 + r.info.oreg * 2 ^ 32 + orgn, r.info.knd % 4 ] ++ List.replicate 18 0

/-- The record of a service context: thread 0 of its workgroup, the image for a restore, no resume point (R303). -/
def State.serviceWords (s : State) (g : Workgroup) (image : Option Nat) : List Nat :=
  let n : ThreadName := { core := g.core, slot := g.slot, wti := 0, ctx := 0 }
  let self := (s.logicalOf n).toNat
  [ g.lid * 2 ^ 48 + g.slot % 64 * 2 ^ 42 + ((g.crews.head?.map (·.crew)).getD 0) * 2 ^ 40 + g.tke * 2 ^ 16 + Cause.holdService.code,
    b2n image.isSome, 0, 0, 0, image.getD 0, 0, 0, self % 2 ^ 64, self / 2 ^ 64, 0, 0, 0xFF * 2 ^ 32, 0 ] ++ List.replicate 18 0

/-- Address of record slot k of a workgroup's trap area (R111, R296). -/
def State.recordVa (s : State) (g : Workgroup) (k : Nat) : Nat :=
  match s.launch? g.lid with | some l => l.tarea.toNat + 4096 * g.area + 256 * k | none => 0

/-! ## Starting a context (R295, R303) -/

/-- A trapped thread whose record is written and whose context is yet to start. -/
def State.recorded (s : State) (t : Thread) : Bool :=
  s.work.trapQueue.contains t.name && (match t.trap with | some r => r.slot.isSome | none => false)

/-- Contexts of a core, and record slots of a workgroup, in use. -/
def State.contexts (s : State) (core : Nat) : Nat :=
  (s.work.threads.filter (fun t => t.name.core == core && (t.handling.isSome || s.recorded t))).length

def State.recordSlots (s : State) (core slot : Nat) : List Nat :=
  (s.work.threads.filter (fun t => t.name.core == core && t.name.slot == slot)).flatMap (fun t =>
    (match t.handling with | some h => [h.recSlot] | none => []) ++
    (if s.recorded t then (match t.trap with | some r => r.slot.toList | none => []) else []))

/-- The record slot that a new context of a workgroup takes, when the limits of R295 leave one. -/
def State.contextSlot (s : State) (core slot : Nat) : Option Nat :=
  if 8 ≤ s.contexts core then none
  else (List.range 16).find? (fun k => !((s.recordSlots core slot).contains k))

/-- Order in which waiting threads of a core are served: STRIP first, then as they trapped (R295). A held workgroup's wait. -/
def State.served (s : State) (core : Nat) : List ThreadName :=
  let l := s.work.trapQueue.filter (fun n => n.core == core && !(s.wgHeld core n.slot))
  l.filter (fun n => s.clsOf n == 0) ++ l.filter (fun n => s.clsOf n != 0)

/-- End a trapped thread as TRET.END does. -/
def State.endTrapped (s : State) (n : ThreadName) : State :=
  (s.modGroup n.core n.slot (fun g => { g with endedByHandler := true })).endThread n

/-- WRITE THE TRAP RECORD (R296): into a free slot; a write that fails ends the thread, with both causes logged (R449). -/
def State.writeTrapRecord (s : State) (t : Thread) (g : Workgroup) (r : Trapped) (k : Nat) : State :=
  let va := s.recordVa g k
  match s.deviceStore (clusterOf g.core) (s.asidOf t.name) va (recBytes (s.trapWords t r)) with
  | .ok s1 => s1.modThread t.name (fun t => { t with trap := some { r with slot := some k } })
  | .error e => (((s.logError t.lid r.info.cause.code r.info.vaddr.toNat).logError t.lid e.cause.code va)).endTrapped t.name

/-- A context as R295 starts it. -/
def State.contextThread (s : State) (g : Workgroup) (wti crew k : Nat) (h : Handling) : Thread :=
  let l := s.launch? g.lid
  let hpc : VAddr := match l with | some l => l.hpc | none => 0
  let fctl : Word32 := match l with | some l => l.fctl | none => 0
  { newThread { core := g.core, slot := g.slot, wti := wti, ctx := k + 1 } g.lid crew 1 hpc fctl s.now with handling := some h }

def State.addThread (s : State) (t : Thread) : State := s.setThreads (s.work.threads ++ [t])

/-- Start the handler context of a thread whose record stands in slot k. -/
def State.startHandler (s : State) (t : Thread) (g : Workgroup) (r : Trapped) (k : Nat) : State :=
  let h : Handling := { trapped := some t.name, recSlot := k, cause := r.info.cause.code, tval := r.info.tval, entryResume := r.resume, kept := r.kept }
  let s1 := { s with work := { s.work with trapQueue := s.work.trapQueue.filter (· != t.name) } }
  s1.addThread (s1.contextThread g t.name.wti t.crew k h)

/-- Record a waiting thread's trap if a slot is free. -/
def State.recordTrap (s : State) (n : ThreadName) : State :=
  match s.thread? n, s.groupOf n with
  | some t, some g => match t.trap with
    | some r => if r.slot.isSome then s else (match s.contextSlot n.core n.slot with
      | some k => s.writeTrapRecord t g r k
      | none => s)
    | none => s
  | _, _ => s

/-- HANDLER_CONTEXT_START (R295, R296): a waiting thread gets its record and its context. Under a cluster stop no context starts
(R312). -/
def execHandlerContextStart (n : ThreadName) (s : State) : Host.Outcome State Fault Refusal :=
  .next (
    let first := (s.served n.core).find? (fun m => (match s.thread? m with | some t => s.recorded t | none => false) ||
      (s.contextSlot m.core m.slot).isSome)
    if first != some n || !(s.pickerRuns n.core) then s
    else
      let s1 := s.recordTrap n
      match s1.thread? n, s1.groupOf n with
      | some t, some g => match t.trap with
        | some r => match r.slot with
          | some k => s1.startHandler t g r k
          | none => s1
        | none => s1
      | _, _ => s1)

/-! ## Return from a trap (R298) -/

/-- What the read of the record comes to. -/
inductive TretRes where
  /-- The context has ended. -/
  | over (s : State)
  | park (fid : Nat) (s : State)
  | trap (t : TrapInfo)

/-- The causes marked pending that the record still asks for, in the order of R294. -/
def keptIn (l : List Kept) (pnd : Nat) : List Kept :=
  [3, 2, 1, 0].flatMap (fun b => if bit pnd b then l.filter (fun k => pendBit k.info.cause == b) else [])

/-- TRET takes effect: the context ends and its thread resumes, takes a pending cause afresh, or is ended. -/
def State.tretDo (s : State) (t : Thread) (h : Handling) (v : Thread) (pa va : Nat) (b : List Byte) : State :=
  let w0 := fieldOf b 0 8
  let w10 := fieldOf b 0x10 8
  let w38 := fieldOf b 0x38 8
  let s1 := (s.logBatches t).dropThread t.name
  if bits w10 59 57 != 0 || bits w10 2 0 != 0 then (s1.logError t.lid Cause.illegalField.code (va + 0x10)).endTrapped v.name
  else
    let resume : Pc := { ca := BitVec.ofNat 57 w10, wi := bits w10 63 60 }
    let same := resume == h.entryResume
    let half (hi lo : Nat) : BitVec 28 := if same then BitVec.ofNat 28 (bits w38 hi lo) else 0
    match keptIn h.kept (bits w0 11 8), v.trap with
    | c :: rest, some r =>
      let w := setBits w0 (8 + pendBit c.info.cause) (8 + pendBit c.info.cause) 0
      let s2 := (s1.memWrite t.lid pa (leBytes w 8)).watch agentDevice none pa 8 false true (fun _ => true)
      s2.2.takeTrap v.name
        { info := c.info, at_ := r.at_, word := c.word, resume := resume, skip := same && r.skip
          pa := half 27 0, pb := half 55 28, kept := rest, slot := none }
    | _, r =>
      let comparator := match r with | some r => r.info.cause == .bkpt && 0x1000 ≤ r.info.tval.toNat | none => false
      s1.returnTrap v.name resume (half 27 0) (half 55 28) (comparator && same) (same && r.any (·.skip))

/-- RETURN (R298): the record is read at its home at supervisor level. A context whose thread is gone, and a service context, end. A watchpoint
that the read fires is only recorded: no context is left to take it. -/
def State.tretTry (s : State) (t : Thread) : TretRes :=
  match t.handling, (t.handled.bind s.thread?).filter (·.st != .exited) with
  | some h, some v =>
    match s.groupOf v.name with
    | none => .over ((s.logBatches t).dropThread t.name)
    | some g =>
      let va := s.recordVa g h.recSlot
      match s.xlat (.core t.name.core) (s.asidOf t.name) va 1 { write := false, thread := true, bytes := 8 } with
      | .park l => let (fid, s1) := s.parkFault (s.asidOf t.name) 0 l va; .park fid s1
      | .trap info => .trap info
      | .ok pa _ =>
        if s.poisoned pa 64 then .trap { trapOf .eccUncorr 0 with vaddr := BitVec.ofNat 64 va, paddr := pa }
        else
          let (b, s1) := (s.walkSeen (.core t.name.core) (s.asidOf t.name) va).homeRead t.name.core pa 64
          let s2 := (s1.watch (agentThread t.name) none pa 64 true false (fun _ => true)).2
          .over (s2.tretDo t h v pa va b)
  | _, _ => .over ((s.logBatches t).dropThread t.name)

/-- TRET (R298). -/
def bodyTret (_ : SyOp) : BodyFn := eachThread endNeed (fun _ s t =>
  if t.handling.isNone then .trap s (trapOf .priv 0)
  else match s.tretTry t with
    | .over s1 => .ok s1 .gone
    | .park fid s1 => .ok s1 (.wait (.record fid))
    | .trap info => .trap s info)

/-- TRET.END (R298). -/
def bodyTretEnd (_ : SyOp) : BodyFn := eachThread endNeed (fun _ s t =>
  if t.handling.isNone then .trap s (trapOf .priv 0) else .ok (s.tretEnd t.name) .gone)

/-- A parked read of a trap record is made again (R161, R298). -/
def State.tretAgain (s : State) (n : ThreadName) : State :=
  match s.thread? n with
  | none => s
  | some t => match s.tretTry t with
    | .over s1 => s1
    | .park fid s1 => s1.modThread n (fun t => { t with st := .blocked (.record fid) })
    | .trap info => s.wakeTrap n info

/-! ## Hold and service contexts (R302, R303) -/

/-- Is a workgroup quiescent: no pack executing, no trap handler, and none of its stores, copies, passes, evaluations, raster operations,
ring publishes or parked accesses outstanding? Its service contexts do not count. -/
def State.quiescent (s : State) (core slot : Nat) : Bool :=
  let own (n : ThreadName) : Bool := n.core == core && n.slot == slot && n.ctx == 0
  let mine : List Pitch := s.engines.pitches.filter (fun p => p.core == core && p.slot == slot)
  let parked (t : Thread) : Bool := match t.st with
    | .blocked (.fetch _) | .blocked (.word _ _) => true
    | _ => t.callXfer.isSome
  !(s.work.packs.any (fun p => p.threads.any own)) &&
  !(s.work.threads.any (fun t => t.name.core == core && t.name.slot == slot && (t.handled.isSome || (own t.name && parked t)))) &&
  !(s.store.outst.any (fun o => own o.thread && (o.kind == .store || o.kind == .red || o.kind == .atomic || o.kind == .cctl || o.fid.isSome))) &&
  !(s.engines.copies.any (fun c => own c.thread)) && !(s.engines.heldDeliveries.any (fun h => own h.thread)) &&
  !(s.engines.units.any (fun u => u.threads.any own)) &&
  !(mine.any (fun p => s.engines.passes.any (fun x => x.cluster == p.cluster && x.quarters.any (·.pitch == p.number)) ||
    s.engines.evals.any (fun e => e.cluster == p.cluster && e.pitch == p.number))) &&
  !(s.engines.rasts.any (fun r => own r.thread)) &&
  !(s.media.slots.any (fun x => x.publishing && (match x.owner with | some (.wg c k _) => c == core && k == slot | _ => false)))

/-- HELD (R302). -/
def State.held (s : State) (core slot : Nat) : Bool := s.wgHeld core slot && s.quiescent core slot

/-- A write of a hold register (R302): refused for a STRIP workgroup. -/
def State.writeHold (s : State) (core slot : Nat) (hold svc : Bool) : State :=
  if 256 ≤ core || 64 ≤ slot then s else
  match s.group? core slot with
  | some g => if g.cls == 0 then s else s.setDreg (regHold core slot) (b2n hold + 4 * b2n svc)
  | none => s.setDreg (regHold core slot) (b2n hold + 4 * b2n svc)

/-- HOLD_REQUEST (R302). -/
def execHoldRequest (core slot : Nat) (hold svc : Bool) (s : State) : Host.Outcome State Fault Refusal := .next (s.writeHold core slot hold svc)

/-- A restore is over: RGO clears (R303; DEDUCED, log 41). -/
def State.restoreOver (s : State) (core : Nat) : State := s.setDreg (regRestore core + 8) (s.dreg (regRestore core + 8) / 2 * 2)

/-- SERVICE_CONTEXT_START (R303): a held, quiescent workgroup whose SVC is set gets its service context. -/
def execServiceContextStart (core slot : Nat) (s : State) : Host.Outcome State Fault Refusal :=
  .next (match s.group? core slot, s.contextSlot core slot with
  | some g, some k =>
    if !(bit (s.dreg (regHold core slot)) 2) || !(s.held core slot) || !(s.pickerRuns core) || g.away.isSome then s
    else
      let s0 := (s.setDreg (regHold core slot) 1).modGroup core slot (fun g => { g with restoring := none })
      let s1 := if g.restoring.isSome then s0.setDreg (regRestore core + 16) (setBits (s0.dreg (regRestore core + 16)) 8 8 0) |>.restoreOver core else s0
      let va := s.recordVa g k
      let asid := match s.launch? g.lid with | some l => l.asid | none => 0
      match s1.deviceStore (clusterOf core) asid va (recBytes (s.serviceWords g g.restoring)) with
      | .ok s2 =>
        let h : Handling := { trapped := none, recSlot := k, cause := Cause.holdService.code, tval := BitVec.ofNat 32 (b2n g.restoring.isSome)
                              entryResume := { ca := 0, wi := 0 }, kept := [] }
        s2.addThread (s2.contextThread g 0 ((g.crews.head?.map (·.crew)).getD 0) k h)
      | .error e => (s1.logError g.lid Cause.holdService.code 0).logError g.lid e.cause.code va
  | _, _ => s)

/-- SREAD (R429). -/
def execSread (o : SyOp) (s : State) : Host.Outcome State Fault Refusal := .next (runWord (.sread o) (bodySread o) s)

/-- SWRITE (R429). -/
def execSwrite (o : SyOp) (s : State) : Host.Outcome State Fault Refusal := .next (runWord (.swrite o) (bodySwrite o) s)

/-- TRAP (R434). -/
def execTrap (o : SyOp) (s : State) : Host.Outcome State Fault Refusal := .next (runWord (.trap o) (bodyTrap o) s)

/-- TRET (R298). -/
def execTret (o : SyOp) (s : State) : Host.Outcome State Fault Refusal := .next (runWord (.tret o) (bodyTret o) s)

/-- TRET_END (R298). -/
def execTretEnd (o : SyOp) (s : State) : Host.Outcome State Fault Refusal := .next (runWord (.tretEnd o) (bodyTretEnd o) s)

/-- BKPT (R353). -/
def execBkpt (o : SyOp) (s : State) : Host.Outcome State Fault Refusal := .next (runWord (.bkpt o) (bodyBkpt o) s)

/-- TLBI_PAGE (R432). -/
def execTlbiPage (o : SyOp) (s : State) : Host.Outcome State Fault Refusal := .next (runWord (.tlbiPage o) (bodyTlbiPage o) s)

/-- TLBI_ASID (R432). -/
def execTlbiAsid (o : SyOp) (s : State) : Host.Outcome State Fault Refusal := .next (runWord (.tlbiAsid o) (bodyTlbiAsid o) s)

/-- TLBI_ALL (R432). -/
def execTlbiAll (o : SyOp) (s : State) : Host.Outcome State Fault Refusal := .next (runWord (.tlbiAll o) (bodyTlbiAll o) s)

/-- ROLEQ (R424). -/
def execRoleq (o : SyOp) (s : State) : Host.Outcome State Fault Refusal := .next (runWord (.roleq o) (bodyRoleq o) s)

end Sys2Proof.Machine
end

