-- ==== Sys2Proof/Machine/Image.lean ====
section
/-! DEFINITION. The full context switch: thread images, workgroup images, the words that save and load them, and the restore that a
register write starts (R106, R302, R303, R367 to R370). -/

namespace Sys2Proof.Machine

/-! ## Image accesses (R367) -/

/-- Outcome of an access to an image or to a spill slot: the value, the watchpoints fired, the state. -/
inductive ImgRes (α : Type) where
  | ok (x : α) (hits : List Nat) (s : State)
  | park (asid kind level va : Nat)
  | trap (t : TrapInfo)

/-- Read 64-byte pieces of an image by HOME accesses of a thread. -/
def State.imageRead (s : State) (n : ThreadName) (asid level va : Nat) : Nat → ImgRes (List Byte)
  | 0 => .ok [] [] s
  | k + 1 =>
    match s.xlat (.core n.core) asid va level { write := false, thread := true, bytes := 8 } with
    | .park l => .park asid 0 l va
    | .trap t => .trap t
    | .ok pa _ =>
      if s.poisoned pa 64 then .trap { trapOf .eccUncorr 0 with vaddr := BitVec.ofNat 64 va, paddr := pa }
      else
        let (b, s1) := (s.walkSeen (.core n.core) asid va).homeRead n.core pa 64
        let (w, s2) := s1.watch (agentThread n) none pa 64 true false (fun _ => true)
        match s2.imageRead n asid level (va + 64) k with
        | .ok r h s3 => .ok (b ++ r) (w ++ h) s3
        | .park a q l v => .park a q l v
        | .trap t => .trap t

/-- Can bytes be written piece by piece: none, or what the first piece that cannot comes to. -/
def State.writable (s : State) (core asid level va step kind : Nat) : Nat → Option (ImgRes Unit)
  | 0 => none
  | k + 1 =>
    match s.xlat (.core core) asid va level { write := true, thread := true, bytes := min step 8 } with
    | .park l => some (.park asid kind l va)
    | .trap t => some (.trap t)
    | .ok _ _ => s.writable core asid level (va + step) step kind k

/-- Write an image that can be written. -/
def State.imagePut (s : State) (n : ThreadName) (lid asid level va : Nat) : List (List Byte) → List Nat × State
  | [] => ([], s)
  | b :: r =>
    match s.xlat (.core n.core) asid va level { write := true, thread := true, bytes := 8 } with
    | .ok pa _ =>
      let (w, s1) := ((s.walkSeen (.core n.core) asid va).homeWrite n.core pa b lid).watch (agentThread n) none pa b.length false true (fun _ => true)
      let (w2, s2) := s1.imagePut n lid asid level (va + b.length) r
      (w ++ w2, s2)
    | _ => ([], s)

/-- Cut bytes into pieces of 64; `fuel` bounds their number. -/
def pieces (b : List Byte) : Nat → List (List Byte)
  | 0 => []
  | k + 1 => if b.isEmpty then [] else b.take 64 :: pieces (b.drop 64) k

/-- Write an image whole, or nothing of it. -/
def State.imageWrite (s : State) (n : ThreadName) (lid asid level va : Nat) (b : List Byte) : ImgRes Unit :=
  match s.writable n.core asid level va 64 1 ((b.length + 63) / 64) with
  | some r => r
  | none => let (h, s1) := s.imagePut n lid asid level va (pieces b b.length); .ok () h s1

/-! ## Spill slots of a target (R368) -/

/-- Registers v on of a thread as it would read them. -/
def State.regImage (s : State) (n : ThreadName) (t : Thread) (asid : Nat) : Nat → Nat → ImgRes (List Nat)
  | 0, _ => .ok [] [] s
  | k + 1, v =>
    let rest (s : State) (x : Nat) : ImgRes (List Nat) := match s.regImage n t asid k (v + 1) with
      | .ok l h s1 => .ok (x :: l) h s1
      | .park a q l va => .park a q l va
      | .trap e => .trap e
    match t.reg? v with
    | none => rest s 0
    | some (.live x) => rest s x.toNat
    | some .bad => .trap { trapOf .eccUncorr v with oreg := v }
    | some .spilled =>
      let va := s.tsaOf t.name + 4 * v
      match s.xlat (.core n.core) asid va 1 { write := false, thread := true, bytes := 4 } with
      | .park l => .park asid 6 l va
      | .trap e => .trap { e with oreg := v }
      | .ok pa _ =>
        if s.poisoned pa 4 then .trap { trapOf .eccUncorr v with oreg := v, paddr := pa }
        else
          let (b, s1) := (s.walkSeen (.core n.core) asid va).homeRead n.core pa 4
          let (w, s2) := s1.watch (agentThread n) none pa 4 true false (fun _ => true)
          match rest s2 (leVal b) with
          | .ok l h s3 => .ok l (w ++ h) s3
          | r => r

/-- Write the non-zero register values of an image to the target's spill slots, or none of them. -/
def State.loadRegs (s : State) (n : ThreadName) (t : Thread) (vals : List Nat) : ImgRes (Sparse Reg) :=
  let asid := s.asidOf t.name
  let l := ((List.range 127).zip vals).filter (fun x => x.2 != 0)
  let va (v : Nat) : Nat := s.tsaOf t.name + 4 * v
  match l.findSome? (fun x => s.writable n.core asid 1 (va x.1) 4 6 1) with
  | some (.park a q k v) => .park a q k v
  | some (.trap e) => .trap e
  | _ =>
    let (hits, s1) := l.foldl (fun (acc : List Nat × State) x =>
      match acc.2.xlat (.core n.core) asid (va x.1) 1 { write := true, thread := true, bytes := 4 } with
      | .ok pa _ =>
        let b := slotBytes x.1 x.2
        let (w, s1) := ((acc.2.walkSeen (.core n.core) asid (va x.1)).homeWrite n.core pa b t.lid).watch (agentThread n) none pa b.length false true (fun _ => true)
        (acc.1 ++ w, s1)
      | _ => acc) ([], s)
    .ok (l.map (fun x => (x.1, Reg.spilled))) hits s1

/-! ## Thread images (R106, R369) -/

/-- THR: thread indices of a pack, 12 bits each (R106). -/
def thrField (l : List ThreadName) : Nat := ((List.range l.length).zip l).foldl (fun a x => a + x.2.wti % 4096 * 2 ^ (12 * x.1)) 0

/-- The 12 words of a clause-resume record (R106). -/
def resumeWords (lid : Nat) (p : Pack) : List Nat :=
  let thr := thrField p.threads
  let rem := match p.xrem with
    | some l => ((List.range p.threads.length).zip p.threads).foldl (fun a x => if l.contains x.2 then a + 2 ^ x.1 else a) 0
    | none => 0
  [ p.wi * 2 ^ 60 + b2n p.xrem.isSome * 2 ^ 59 + p.ca.toNat, p.hdr.toNat, p.pb.toNat * 2 ^ 28 + p.pa.toNat,
    lid * 2 ^ 48 + p.slot % 64 * 2 ^ 42 + p.crew * 2 ^ 40 + (p.threads.length - 1) * 2 ^ 35 + rem ] ++
  (List.range 6).map (fun i => thr / 2 ^ (64 * i) % 2 ^ 64) ++ [0, 0]

/-- The resume record of a thread: that of its suspended pack, or its own when it resumes alone (R107). -/
def State.resumeOf (s : State) (t : Thread) : Option Pack :=
  match s.work.resumes.find? (fun p => p.threads.contains t.name) with
  | some p => some p
  | none => t.solo.map (fun x =>
    { core := t.name.core, pipe := 0, slot := t.name.slot, crew := t.crew, cls := 0, threads := [t.name], ca := t.pc.ca, hdr := x.hdr.getD 0
      wi := t.pc.wi, pa := x.pa, pb := x.pb, xrem := none, xafter := [], byStop := false, cutAt := 0, skid := 0, spawned := [], stalled := 0 })

/-- WK and whether a phase bit is waited on. -/
def waitCode : TState → Nat × Bool
  | .blocked .header => (1, false)
  | .blocked .rendezvous => (3, false)
  | .blocked (.stall _ _ _ _ _) => (4, false)
  | .blocked (.fetch _) | .blocked (.operand _) | .blocked (.word _ _) => (0, false)
  | .blocked (.barrier _ ph _) => (2, ph)
  | .blocked _ => (2, false)
  | _ => (0, false)

/-- TST (R369). -/
def tstOf : TState → Nat
  | .blocked _ => 1
  | .suspended .trapped => 3
  | .suspended _ => 2
  | _ => 0

/-- Words 0x200 on of a thread image (R369). -/
def State.imageWords (s : State) (t : Thread) : List Nat :=
  let rec_ := s.resumeOf t
  let (pc, _, _) := s.position t.name
  let (wk, wph) := waitCode t.st
  let bsync := wk == 2 && opOf (s.peek t.name.core (s.asidOf t.name) t.level (wordAddr t.pc.ca t.pc.wi)) == 0x78
  let err := t.batchError ((t.batches.filter (·.number.isSome)).map (·.key))
  let loop (x : LoopEntry) : List Nat := [x.start.toNat, x.stop.toNat, x.depth * 2 ^ 32 + x.count.toNat, 0]
  let loops := (t.loops.reverse.flatMap loop)
  let ecause := match err with | some (_, e) => e.cause.code | none => 0
  let enum := match err with | some (_, e) => e.tval.toNat % 2 ^ 16 | none => 0
  let eaddr := match err with | some (_, e) => e.vaddr.toNat | none => 0
  let open_ := t.batches.any (fun b => b.number.isNone)
  [ 0x5E17 * 2 ^ 48 + tstOf t.st * 2 ^ 44 + b2n rec_.isSome * 2 ^ 43 + b2n t.trap.isSome * 2 ^ 42 + t.loops.length * 2 ^ 38 +
      t.depth * 2 ^ 29 + (t.preds.toNat / 2 * 2 + 1),
    pc.word, t.fctl.toNat * 2 ^ 32 + t.fstat.toNat, t.progress.toNat * 2 ^ 32 + t.region.toNat ] ++
  (List.range 8).map (fun i => (t.calls.getD i 0).toNat) ++
  (List.range 16).map (fun i => loops.getD i 0) ++
  (match rec_ with | some p => resumeWords t.lid p | none => List.replicate 12 0) ++
  [ wk * 2 ^ 60 + b2n bsync * 2 ^ 59 + b2n wph * 2 ^ 58,
    t.nextSeal % 2 ^ 16 * 2 ^ 48 + ecause * 2 ^ 40 + enum * 2 ^ 24 + b2n open_ * 2 ^ 23, eaddr, t.dtcf.toNat ] ++
  List.replicate 20 0 ++
  (match t.trap with | some r => s.trapWords t r | none => List.replicate 32 0)

/-- The 1,280 bytes of a thread image from the register values. -/
def threadImage (vals : List Nat) (ws : List Nat) : List Byte := vals.flatMap (leBytes · 4) ++ leBytes 0 4 ++ recBytes ws

/-- Word at an offset of an image. -/
def imgW (b : List Byte) (o : Nat) : Nat := fieldOf b o 8

/-- A malformed thread image (R367, R369), for a thread of a launch. `regsOnly` looks at what CTXLD.REGS loads. -/
def imageBad (b : List Byte) (t : Thread) (regsOnly : Bool) : Bool :=
  let h := imgW b 0x200
  let ctl := imgW b 0x210
  let csd := bits h 37 29
  let lsd := bits h 41 38
  let rec0 := imgW b 0x2E0
  let rec3 := imgW b 0x2F8
  let named := (List.range (bits rec3 39 35 + 1)).map (fun i => fieldOf b 0x300 48 / 2 ^ (12 * i) % 4096)
  let badCore := bits h 63 48 != 0x5E17 || !(fctlOk (BitVec.ofNat 32 (ctl / 2 ^ 32))) || !(fstatOk (BitVec.ofNat 32 ctl))
  let badLoop (i : Nat) : Bool :=
    let o := 0x260 + 32 * i
    2 ^ 57 ≤ imgW b o || 2 ^ 57 ≤ imgW b (o + 8) || bits (imgW b (o + 16)) 63 41 != 0 || 256 < bits (imgW b (o + 16)) 40 32 || imgW b (o + 24) != 0
  let badRec := bits rec0 58 57 != 0 || imgW b 0x2F0 / 2 ^ 56 != 0 || bits rec3 34 32 != 0 || imgW b 0x330 != 0 || imgW b 0x338 != 0 ||
    bits rec3 63 48 != t.lid || bits rec3 41 40 != t.crew || !(named.contains t.name.wti)
  let trap0 := imgW b 0x400
  let badTrap := bits trap0 27 25 != 0 || bits trap0 13 12 != 0 || bits (imgW b 0x410) 59 57 != 0 || bits (imgW b 0x418) 59 57 != 0 ||
    imgW b 0x430 / 2 ^ 52 != 0 || imgW b 0x438 / 2 ^ 56 != 0 || bits (imgW b 0x460) 47 40 != 0 || 4 ≤ imgW b 0x468 ||
    bits trap0 63 48 != t.lid || bits trap0 39 28 != t.name.wti || (List.range 18).any (fun i => imgW b (0x470 + 8 * i) != 0)
  badCore || (!regsOnly && (
    fieldOf b 0x1FC 4 != 0 || 3 < bits h 47 44 || 4 < lsd || 256 < csd || bits h 28 16 != 0 || bits (imgW b 0x208) 59 57 != 0 ||
    bits (imgW b 0x208) 2 0 != 0 || (List.range 8).any (fun i => 2 ^ 57 ≤ imgW b (0x220 + 8 * i) || (min 8 csd ≤ i && imgW b (0x220 + 8 * i) != 0)) ||
    (List.range lsd).any badLoop || (bit h 43 && badRec) || 4 < bits (imgW b 0x340) 63 60 || bits (imgW b 0x340) 57 0 != 0 ||
    bits (imgW b 0x348) 22 0 != 0 || 2 ^ 32 ≤ imgW b 0x358 || (List.range 20).any (fun i => imgW b (0x360 + 8 * i) != 0) ||
    (bit h 42 && badTrap) || (bits h 47 44 == 3 && !(bit h 42)) || (bits h 47 44 == 2 && !(bit h 43))))

/-- Cause of a code (R293). -/
def causeOf (c : Nat) : Option Cause :=
  [Cause.illegalOp, .illegalField, .illegalWord, .priv, .misalign, .unitAbsent, .pageFault, .pageFatal, .prot, .mmxConflict, .mmxOwner,
   .mmxCapacity, .bounds, .copyError, .compLength, .mcast, .grammarDepth, .grammarWindow, .grammarFormat, .noPitch, .loopOvf, .callOvf,
   .qdeadlock, .fp, .bkpt, .watch, .step, .holdService, .swtrap, .eccUncorr].find? (fun x => x.code == c)

/-- The trap that a record describes. The trap values of its pending causes are not in the record: a free value stands for that of an FP,
WATCH or CWAIT cause (DESIGN CHOICE, log 31). -/
def trapFrom (b : List Byte) (ctr : Nat) : Trapped :=
  let w (o : Nat) : Nat := imgW b (0x400 + o)
  let pc (x : Nat) : Pc := { ca := BitVec.ofNat 57 x, wi := bits x 63 60 }
  let pnd := bits (w 0) 11 8
  let cause := (causeOf (bits (w 0) 7 0)).getD .illegalOp
  let word : Word64 := BitVec.ofNat 64 (w 0x20)
  let kept : List Kept := (if bit pnd 3 then [⟨{ cause := .copyError, tval := Config.freeWord ctr }, word⟩] else []) ++
    (if bit pnd 2 then [⟨{ cause := .fp, tval := Config.freeWord (ctr + 1) }, word⟩] else []) ++
    (if bit pnd 1 then [⟨{ cause := .watch, tval := Config.freeWord (ctr + 2) }, word⟩] else []) ++
    (if bit pnd 0 then [⟨{ cause := .step }, word⟩] else [])
  { info := { cause := cause, tval := BitVec.ofNat 32 (w 8), vaddr := BitVec.ofNat 64 (w 0x28), paddr := w 0x30, oreg := bits (w 0x60) 39 32
              other := if cause == .mmxConflict then some { lid := bits (w 0x60) 63 48, logical := BitVec.ofNat 128 (w 0x50 + 2 ^ 64 * w 0x58)
                                                            region := BitVec.ofNat 32 (w 0x60) } else none
              knd := bits (w 0x68) 1 0 }
    at_ := pc (w 0x18), word := word, resume := pc (w 0x10), pa := BitVec.ofNat 28 (w 0x38)
    pb := BitVec.ofNat 28 (bits (w 0x38) 55 28), kept := kept, slot := none }

/-- The wait of a terminator, from its word and the register values (R369): the condition is evaluated again, the word is not executed
again. `order` places it among the waiters. -/
def State.waitAgain (s : State) (t : Thread) (g : Workgroup) (lit : Nat) (wph : Bool) (errs : List Nat) (order : Nat) (i : Instr) : Option Wait :=
  let src (f : RegF) : Nat := if f == 127 then lit else (t.reg f.toNat).toNat
  let pushed (o : AgOp) : Wait :=
    let off := src o.a
    let q := s.readQueue g.core (g.base + off)
    let n := 2 * (q.esz + 1)
    .push off (match i with | .qpushC _ => true | _ => false) (leBytes (t.regsVal o.d.toNat n) (4 * n)) order
  match i with
  | .bwait o => some (.barrier (src o.a) wph (coreScope o.scope))
  | .bsync o => some (.barrier (src o.a) wph (coreScope o.scope))
  | .cwaitRel o => some (.batches false o.imm.toNat errs o.scope.toNat)
  | .cwaitLnd o => some (.batches true o.imm.toNat errs o.scope.toNat)
  | .qpush o => some (pushed o)
  | .qpushC o => some (pushed o)
  | .qpop o => some (.pop (src o.a) (src o.b) none order)
  | .qpopE o => some (.pop (src o.a) (src o.b) (some o.d.toNat) order)
  | .rgacq o => some (.ring (src o.a) (o.sub6.getLsbD 0) o.d order)
  | .waittAbs o => some (.time (srcField lit t 3 (.s 2) o.a))
  | .waittRel o => some (.time (s.dtcNs + o.off.toNat))
  | .apop o =>
    let mate := s.work.threads.findSome? (fun x => match x.st with
      | .blocked (.rowQueue _ k) => if x.name.core == t.name.core && x.name.slot == t.name.slot && x.name.wti / 32 == t.name.wti / 32 then some k else none
      | _ => none)
    some (.rowQueue (if t.guard o.g o.gn then o.d else 127) (mate.getD order))
  | _ => none

/-- Every field of an image loaded into a saved thread, but for its state (R368, R369). -/
def loadFields (b : List Byte) (regs : Sparse Reg) (t : Thread) : Thread :=
  let h := imgW b 0x200
  let pc := imgW b 0x208
  let csd := bits h 37 29
  let bt := imgW b 0x348
  let loop (i : Nat) : LoopEntry :=
    let o := 0x260 + 32 * i
    { start := BitVec.ofNat 57 (imgW b o), stop := BitVec.ofNat 57 (imgW b (o + 8)), count := BitVec.ofNat 32 (imgW b (o + 16))
      depth := bits (imgW b (o + 16)) 40 32 }
  let err : List Batch := match causeOf (bits bt 47 40) with
    | some c => if bits bt 47 40 == 0 then [] else
      [{ key := bits bt 39 24, number := some (bits bt 39 24), unread := [], unlanded := []
         err := some { cause := c, vaddr := BitVec.ofNat 64 (imgW b 0x350) }, reported := false }]
    | none => []
  let open_ : List Batch := if bit bt 23 then
    [{ key := 2 ^ 16 + bits bt 63 48, number := none, unread := [], unlanded := [], err := none, reported := false }] else []
  { t with
    pc := { ca := BitVec.ofNat 57 pc, wi := bits pc 63 60 }, regs := regs, preds := BitVec.ofNat 16 (h / 2 * 2), fctl := BitVec.ofNat 32 (imgW b 0x210 / 2 ^ 32)
    fstat := BitVec.ofNat 32 (imgW b 0x210), progress := BitVec.ofNat 32 (imgW b 0x218 / 2 ^ 32), region := BitVec.ofNat 32 (imgW b 0x218)
    depth := csd, calls := (List.range (min 8 csd)).map (fun i => BitVec.ofNat 64 (imgW b (0x220 + 8 * i)))
    loops := ((List.range (bits h 41 38)).map loop).reverse, dtcf := BitVec.ofNat 32 (imgW b 0x358), batches := err ++ open_
    nextSeal := bits bt 63 48, hdr := none, skip := false, solo := none, callXfer := none, xfn := [], trap := none, held := 0
    yielded := false, kin := [] }

/-- The record of the suspended pack that an image names joins the resume store, once (R369). -/
def State.rejoin (s : State) (t : Thread) (b : List Byte) : State :=
  let w0 := imgW b 0x2E0
  let w3 := imgW b 0x2F8
  let ca : VAddr := BitVec.ofNat 57 w0
  let names : List ThreadName := (List.range (bits w3 39 35 + 1)).map (fun i =>
    { core := t.name.core, slot := t.name.slot, wti := fieldOf b 0x300 48 / 2 ^ (12 * i) % 4096, ctx := 0 })
  let live := names.filter (fun n => match s.thread? n with | some x => x.st != .exited | none => false)
  if s.work.resumes.any (fun p => p.core == t.name.core && p.slot == t.name.slot && p.threads.contains t.name) then s
  else
    let used (k : Nat) : Bool := s.work.resumes.any (fun p => p.core == t.name.core && p.pipe == k && !p.byStop)
    let p : Pack :=
      { core := t.name.core, pipe := ((List.range 4).find? (fun k => !(used k))).getD 0, slot := t.name.slot, crew := t.crew, cls := s.clsOf t.name
        threads := live, ca := ca, hdr := BitVec.ofNat 64 (imgW b 0x2E8), wi := bits w0 63 60, pa := BitVec.ofNat 28 (imgW b 0x2F0)
        pb := BitVec.ofNat 28 (bits (imgW b 0x2F0) 55 28)
        xrem := if bit w0 59 then some (((List.range names.length).zip names).filterMap (fun x => if bit w3 x.1 && live.contains x.2 then some x.2 else none)) else none
        xafter := [], byStop := false, cutAt := s.now, skid := 0, spawned := [], stalled := 0 }
    { s with work := { s.work with resumes := s.work.resumes ++ [p] } }

/-! ## Targets and status (R367, R368) -/

/-- What a selector names: slot and thread index. -/
def State.selected (s : State) (t : Thread) (sel : Nat) : Option (Nat × Nat) :=
  if bit sel 31 then
    if bits sel 30 0 != 0 then none
    else t.handled.bind (fun v => if (s.thread? v).isSome then some (v.slot, v.wti) else none)
  else if bits sel 30 18 != 0 then none
  else some (bits sel 17 12, bits sel 11 0)

/-- The launched thread a selector names. -/
def State.target (s : State) (t : Thread) (sel : Nat) : Option Thread :=
  (s.selected t sel).bind (fun x => s.thread? { core := t.name.core, slot := x.1, wti := x.2, ctx := 0 })

/-- Image address and selector of a thread's quad. -/
def ctxOperands (t : Thread) (o : SyOp) : Nat × Nat := (t.regsVal o.a.toNat 2, (t.reg (o.a.toNat + 2)).toNat)

/-- The checks on an image address. -/
def imageAddr (va align : Nat) : Option TrapInfo :=
  if va % align != 0 then some { trapOf .misalign (va % 2 ^ 32) with vaddr := BitVec.ofNat 64 va }
  else if 2 ^ 57 ≤ va then some { protOf 5 with vaddr := BitVec.ofNat 64 va }
  else none

/-- The word retires with a status. -/
def ctxStatus (s : State) (t : Thread) (o : SyOp) (code : Nat) (hits : List Nat) : TRes :=
  .ok (s.modThread t.name (·.setReg o.d.toNat (BitVec.ofNat 32 code))) .next (watchCause hits)

/-- A fault of an image access: the thread holds its pack at the word until the host answers. -/
def ctxPark (_ : State) (asid kind level va : Nat) : TRes := .park asid kind level va

/-- Must a CTXSV wait for its target's accesses (R368)? -/
def saveNeed (o : SyOp) : Ctx → State → Thread → Bool := fun _ s t =>
  s.drained t.name &&
  (match s.target t (ctxOperands t o).2 with
    | some v => (s.outOf v.name).isEmpty && v.xfn.isEmpty && v.callXfer.isNone && (match v.st with | .blocked (.fetch _) | .blocked (.operand _) | .blocked (.word _ _) => false | _ => true)
    | none => true)

/-- Save a thread: its registers, then its image (R368). -/
def saveThread (o : SyOp) (allowed : State → Thread → Bool) (effect : State → Thread → State) : BodyFn :=
  eachThread (saveNeed o) (fun _ s t =>
    let (va, sel) := ctxOperands t o
    match imageAddr va 256 with
    | some info => .trap s info
    | none => match s.target t sel with
      | none => ctxStatus s t o 1 []
      | some v =>
        if !(allowed s v) then ctxStatus s t o 2 []
        else match s.regImage t.name v (s.asidOf v.name) 127 0 with
        | .park a k l x => ctxPark s a k l x
        | .trap e => .trap s e
        | .ok vals hits0 s1 =>
          match s1.imageWrite t.name t.lid (s.asidOf t.name) t.level va (threadImage vals (s.imageWords v)) with
          | .park a k l x => ctxPark s a k l x
          | .trap e => .trap s e
          | .ok _ hits s2 => ctxStatus (effect s2 v) t o 0 (hits0 ++ hits))

/-- CTXSV.COPY (R368). -/
def bodyCtxsvCopy (o : SyOp) : BodyFn := saveThread o (fun s v => match v.st with
  | .suspended _ => true
  | .blocked _ => true
  | .ready => s.held v.name.core v.name.slot
  | _ => false) (fun s _ => s)

/-- CTXSV.REL (R368): the thread becomes SAVED. -/
def bodyCtxsvRel (o : SyOp) : BodyFn := saveThread o (fun s v => s.held v.name.core v.name.slot && v.st != .saved && v.st != .exited) (fun s v =>
  let s1 := s.modThread v.name (fun t => { t with st := .saved, regs := [], trap := none, solo := none, hdr := none })
  { s1 with work := { s1.work with trapQueue := s1.work.trapQueue.filter (· != v.name) } })

/-! ## Workgroup images (R370) -/

/-- The 128 bytes of a task record (R108). -/
def TaskRec.bytes (r : TaskRec) : List Byte :=
  let hs (l : List Nat) : Nat := (List.range 4).foldl (fun a i => a + l.getD i 0 * 2 ^ (16 * i)) 0
  recBytes [r.pc.toNat, r.chainId * 2 ^ 48 + r.oci * 2 ^ 36 + b2n r.ocv * 2 ^ 35 + r.reads.length * 2 ^ 32 + r.writes.length * 2 ^ 29 +
    r.cmk * 2 ^ 25 + r.crm * 2 ^ 21 + r.kind * 2 ^ 17] ++
  (List.range 8).flatMap (fun i => leBytes (r.args.getD i 0).toNat 4) ++
  recBytes ([hs r.reads, hs r.writes, r.done.toNat] ++ List.replicate 7 0)

/-- CMK of the crews present. -/
def Workgroup.cmk (g : Workgroup) : Nat := (List.range 4).foldl (fun a i => if g.crews.any (·.crew == i) then a + 2 ^ i else a) 0

/-- Is a buffer of a tile instance in a workgroup's allocation and away from THREAD? -/
def Workgroup.holds (g : Workgroup) (b : Buffer) : Bool :=
  b.owner != .thread && b.core == g.core && g.base ≤ b.lo && b.lo < g.base + g.size

def Owner.code : Owner → Nat
  | .thread => 0
  | .engine => 1
  | .stream => 2

/-- The tile map: 16 bits for each handle. -/
def State.tileMap (s : State) (g : Workgroup) : List Byte :=
  let inst (h : Nat) : Nat := match s.engines.tiles.find? (fun x => x.lid == g.lid && x.q == g.q && x.group == g.group && x.handle == h && x.bufs.any g.holds) with
    | some x => ((List.range 4).zip x.bufs).foldl (fun a (i, b) =>
        if g.holds b then a + 2 ^ (4 * i) * (b.owner.code + 4 * b2n (s.readBar b.core b.bar).ph) else a) 0
    | none => 0
  (List.range 4096).flatMap (fun h => leBytes (inst h) 2)

/-- An entry of a granule record. -/
def State.entryWord (s : State) (e : ConEntry) : Nat :=
  let role := match s.groupOf e.thread with | some g => g.role | none => 0
  let kind := match e.kind with | .read => 0 | .write => 1 | .atomic => 2
  2 ^ 63 + kind * 2 ^ 61 + role * 2 ^ 59 + e.thread.slot % 64 * 2 ^ 53 + e.thread.wti * 2 ^ 41 + e.region.toNat

/-- Marks of a granule: barrier object, queue descriptor. -/
def State.granuleMarks (s : State) (core a : Nat) : Nat :=
  let has (queue : Bool) (n : Nat) : Bool := s.engines.marks.any (fun m => m.core == core && m.queue == queue && m.addr ≤ a && a < m.addr + n)
  2 * b2n (has false 32) + b2n (has true 64)

/-- The 128 bytes of a granule record. -/
def State.granuleRecord (s : State) (g : Workgroup) (k : Nat) : List Byte :=
  let r := s.conRec (some g.core) (g.base / 16 + k)
  let e (x : Option ConEntry) : Nat := match x with | some e => s.entryWord e | none => 0
  recBytes ([e r.writer] ++ (List.range 8).map (fun i => e r.readers[i]?) ++ [r.bcr.length * 2 ^ 32 + r.bca.length, s.granuleMarks g.core (g.base + 16 * k)] ++
    List.replicate 5 0)

/-- The image of a workgroup. -/
def State.groupImage (s : State) (g : Workgroup) : List Byte :=
  let task := match s.taskOf g with | some t => t.task.bytes | none => List.replicate 128 0
  recBytes [0x5E18 * 2 ^ 48 + g.lid * 2 ^ 32 + g.w % 2 ^ 32, g.size / 1024 * 2 ^ 53 + g.cmk * 2 ^ 49 + g.cls * 2 ^ 47 + b2n g.entry.isSome * 2 ^ 46] ++
  task ++ List.replicate 0x70 0 ++ (List.range 32).flatMap (fun i => leBytes (g.uniform.getD i 0).toNat 4) ++ List.replicate 0xE80 0 ++ s.tileMap g ++
  (List.range (g.size / 16)).flatMap (s.granuleRecord g)

/-- Give the threads of a slot another slot, wherever they are named. -/
def State.moveSlot (s : State) (core from_ to_ : Nat) : State :=
  let nm (n : ThreadName) : ThreadName := if n.core == core && n.slot == from_ then { n with slot := to_ } else n
  let en (e : ConEntry) : ConEntry := { e with thread := nm e.thread }
  let th (t : Thread) : Thread :=
    { t with name := nm t.name, handling := t.handling.map (fun h => { h with trapped := h.trapped.map nm }), kin := t.kin.map nm }
  let pk (p : Pack) : Pack :=
    if p.core == core && p.slot == from_ then
      { p with slot := to_, threads := p.threads.map nm, xrem := p.xrem.map (·.map nm), xafter := p.xafter.map (fun x => (nm x.1, x.2)), spawned := p.spawned.map nm }
    else p
  let rc (r : ConRec) : ConRec :=
    { r with writer := r.writer.map en, readers := r.readers.map en, bcr := r.bcr.map en, bca := r.bca.map en }
  { s with
    store := { s.store with conflicts := s.store.conflicts.map rc
                            l1 := s.store.l1.map (fun (l : Line) => { l with stores := l.stores.map (fun (x : LineStore) => { x with thread := nm x.thread }) })
                            outst := s.store.outst.map (fun (o : Outstanding) => { o with thread := nm o.thread }) }
    engines := { s.engines with
      ptrs := s.engines.ptrs.map (fun (x : ChanPtr) => if x.core == core && x.slot == from_ then { x with slot := to_ } else x)
      copies := s.engines.copies.map (fun (c : Copy) => { c with
        thread := nm c.thread, dest := c.dest.map (fun (x : Target) => if x.core == core && x.slot == from_ then { x with slot := to_ } else x) })
      tiles := s.engines.tiles.map (fun (x : TileInst) => if x.home == homeKey core from_ then { x with home := homeKey core to_ } else x)
      heldDeliveries := s.engines.heldDeliveries.map (fun (h : HeldDelivery) => { h with thread := nm h.thread })
      delayed := s.engines.delayed.map (fun (o : BarOp) => { o with who := o.who.map nm }) }
    media := { s.media with slots := s.media.slots.map (fun (x : RingSlot) => { x with
      owner := x.owner.map (fun o => match o with
        | .wg c k lid => if c == core && k == from_ then .wg core to_ lid else o
        | .chain _ _ => o) }) }
    work := { s.work with
      groups := s.work.groups.map (fun g => if g.core == core && g.slot == from_ then { g with slot := to_ } else g)
      threads := s.work.threads.map th, packs := s.work.packs.map pk, resumes := s.work.resumes.map pk, trapQueue := s.work.trapQueue.map nm } }

/-- The lowest number from 64 on that names no saved workgroup of a core. -/
def State.awaySlot (s : State) (core : Nat) : Nat :=
  64 + ((List.range (s.work.groups.length + 1)).find? (fun k => (s.group? core (64 + k)).isNone)).getD 0

/-- SAVE A WORKGROUP (R368): its slot, thread slots and allocation are free; its threads, open regions and records are kept under a number
that no slot has (DESIGN CHOICE, log 30). -/
def State.sendAway (s : State) (g : Workgroup) : State :=
  let lo := g.base / 16
  let inside (r : ConRec) : Bool := r.scratch == some g.core && lo ≤ r.granule && r.granule < lo + g.size / 16
  let recs := (s.store.conflicts.filter inside).map (fun r => { r with granule := r.granule - lo })
  let mine (m : Mark) : Bool := m.core == g.core && g.base ≤ m.addr && m.addr < g.base + g.size
  let marks := (s.engines.marks.filter mine).map (fun m => { m with addr := m.addr - g.base })
  let k := s.awaySlot g.core
  let s1 := ((s.clearScratch g.core g.base g.size).freeTiles g.core g.base g.size).moveSlot g.core g.slot k
  let s2 := s1.modGroup g.core k (fun g => { g with base := 0, size := 0, away := some { recs := recs, marks := marks } })
  let s3 := { s2 with
    work := { s2.work with resumes := s2.work.resumes.filter (fun p => !(p.core == g.core && p.slot == k)) }
    control := { s2.control with counts := s2.control.counts.filter (fun x => !(x.core == g.core && x.slot == g.slot)) } }
  s3.setDreg (regHold g.core g.slot) 0

/-- The workgroup a selector names. -/
def State.targetGroup (s : State) (t : Thread) (sel : Nat) : Option Workgroup :=
  (s.selected t sel).bind (fun x => s.group? t.name.core x.1)

/-- May a workgroup be saved whole? -/
def State.savable (s : State) (g : Workgroup) : Bool :=
  s.held g.core g.slot && !(s.engines.pitches.any (fun p => p.core == g.core && p.slot == g.slot)) &&
  (s.work.threads.filter (fun t => t.name.core == g.core && t.name.slot == g.slot && t.name.ctx == 0)).all (fun t => t.st == .saved || t.st == .exited)

/-- One thread's CTXSV.WG. The thread may itself be a context of the workgroup, whose name moves with it. -/
def saveGroup (o : SyOp) (s : State) (t : Thread) : TRes × (ThreadName → ThreadName) :=
  let (va, sel) := ctxOperands t o
  match imageAddr va 4096 with
  | some info => (.trap s info, id)
  | none => match s.targetGroup t sel with
    | none => (ctxStatus s t o 1 [], id)
    | some g =>
      if !(s.savable g) then (ctxStatus s t o 2 [], id)
      else match s.imageWrite t.name t.lid (s.asidOf t.name) t.level va (s.groupImage g) with
      | .park a k l x => (ctxPark s a k l x, id)
      | .trap e => (.trap s e, id)
      | .ok _ hits s1 =>
        let k := s1.awaySlot g.core
        let nm (n : ThreadName) : ThreadName := if n.core == g.core && n.slot == g.slot then { n with slot := k } else n
        (ctxStatus (s1.sendAway g) { t with name := nm t.name } o 0 hits, nm)

/-- Words that move thread names: each thread by its present name. -/
def eachMoved (need : Ctx → State → Thread → Bool) (f : State → Thread → TRes × (ThreadName → ThreadName)) : BodyFn := fun c s =>
  if (c.actives s).any (fun n => match s.thread? n with | some t => !(need c s t) | none => false) then .stall
  else
    let (s1, outs, _) := c.pack.threads.foldl (fun (acc : State × List Out × (ThreadName → ThreadName)) n0 =>
      let (s, outs, nm) := acc
      let n := nm n0
      match s.thread? n with
      | none => acc
      | some t =>
        if c.active t then
          let (r, nm2) := f s t
          let (s1, o1) := c.take (s, outs.map (fun o => if o.park.isSome then o else { o with name := nm2 o.name })) (nm2 n) r
          -- a read that parks undoes the word: its thread keeps the name it had before
          (s1, o1.map (fun o => if o.park.isSome && o.name == nm2 n then { o with name := n0 } else o), nm2 ∘ nm)
        else (s, outs ++ [{ name := n, fate := .next, after := [] }], nm)) (s, [], id)
    settle s1 outs

/-- CTXSV.WG (R368). -/
def bodyCtxsvWg (o : SyOp) : BodyFn := eachMoved (fun _ s t => s.drained t.name) (saveGroup o)

/-! ## Loading (R368 to R370) -/

/-- CTXLD.REGS (R368). -/
def bodyCtxldRegs (o : SyOp) : BodyFn := eachThread (fun _ s t => s.drained t.name) (fun _ s t =>
  let (va, sel) := ctxOperands t o
  match imageAddr va 256 with
  | some info => .trap s info
  | none => match s.target t sel with
    | none => ctxStatus s t o 1 []
    | some v =>
      if (match v.st with | .suspended _ => false | _ => true) then ctxStatus s t o 2 []
      else match s.imageRead t.name (s.asidOf t.name) t.level va 20 with
      | .park a k l x => ctxPark s a k l x
      | .trap e => .trap s e
      | .ok b hits s1 =>
        if imageBad b v true then ctxStatus s1 t o 4 hits
        else match s1.loadRegs t.name v ((List.range 127).map (fun i => fieldOf b (4 * i) 4)) with
        | .park a k l x => ctxPark s a k l x
        | .trap e => .trap s e
        | .ok regs hits2 s2 =>
          let ctl := imgW b 0x210
          ctxStatus (s2.modThread v.name (fun v => { v with
            regs := regs, preds := BitVec.ofNat 16 (imgW b 0x200 / 2 * 2), fctl := BitVec.ofNat 32 (ctl / 2 ^ 32), fstat := BitVec.ofNat 32 ctl })) t o 0 (hits ++ hits2))

/-- The state that an image records, and the thread's place in it (R369). A terminator wait needs its header: none where it cannot be read. -/
def State.restoreState (s : State) (v : Thread) (g : Workgroup) (b : List Byte) (vals : List Nat) : Option State :=
  let h := imgW b 0x200
  let wk := bits (imgW b 0x340) 63 60
  let put (s : State) (f : Thread → Thread) : State := s.modThread v.name f
  let hdr : Option Word64 := if imgW b 0x2E8 == 0 then none else some (BitVec.ofNat 64 (imgW b 0x2E8))
  let solo : Option Solo := if bit h 43 then
    some { hdr := hdr, pa := BitVec.ofNat 28 (imgW b 0x2F0), pb := BitVec.ofNat 28 (bits (imgW b 0x2F0) 55 28) } else none
  match bits h 47 44 with
  | 3 => some (
    let r := trapFrom b s.freeCtr
    let s1 := put s (fun t => { t with st := .suspended .trapped, trap := some r })
    { s1 with work := { s1.work with trapQueue := s1.work.trapQueue ++ [v.name] }, freeCtr := s1.freeCtr + 3 })
  | 2 => some ((put s (fun t => { t with st := .suspended .preempted })).rejoin v b)
  | 1 =>
    match wk with
    | 1 => some (put s (fun t => { t with st := .blocked .header }))
    | 3 => some (put s (fun t => { t with st := .blocked .rendezvous }))
    | 2 =>
      let asid := s.asidOf v.name
      let ca : VAddr := BitVec.ofNat 57 (imgW b 0x208)
      let head := s.peek v.name.core asid v.level ca
      let w := s.peek v.name.core asid v.level (wordAddr ca (bits (imgW b 0x208) 63 60))
      let tv : Thread := { loadFields b [] v with regs := ((List.range 127).zip vals).map (fun x => (x.1, Reg.live (BitVec.ofNat 32 x.2))) }
      let (k, s1) := s.nextOrder
      if hSig head != 0xA5 then none
      else match decode w with
      | .ok i =>
        (s1.waitAgain tv g (hLit32 head) (bit (imgW b 0x340) 58) (tv.batches.map (·.key)) k i).map (fun x =>
          put s1 (fun t => { t with st := .blocked x, hdr := some head }))
      | .error _ => none
    | _ => some (put s (fun t => { t with st := .ready, solo := solo, readyAt := s.now, waited := 0 }))
  | _ => some (put s (fun t => { t with st := .ready, solo := solo, readyAt := s.now, waited := 0 }))

/-- CTXLD.FULL (R368). -/
def bodyCtxldFull (o : SyOp) : BodyFn := eachThread (fun _ s t => s.drained t.name) (fun _ s t =>
  let (va, sel) := ctxOperands t o
  match imageAddr va 256 with
  | some info => .trap s info
  | none => match s.target t sel, (s.target t sel).bind (fun v => s.groupOf v.name) with
    | some v, some g =>
      if v.st != .saved || !g.restored then ctxStatus s t o 2 []
      else match s.imageRead t.name (s.asidOf t.name) t.level va 20 with
      | .park a k l x => ctxPark s a k l x
      | .trap e => .trap s e
      | .ok b hits s1 =>
        let vals := (List.range 127).map (fun i => fieldOf b (4 * i) 4)
        if imageBad b v false then ctxStatus s1 t o 4 hits
        else match s1.loadRegs t.name v vals with
        | .park a k l x => ctxPark s a k l x
        | .trap e => .trap s e
        | .ok regs hits2 s2 =>
          match (s2.modThread v.name (loadFields b regs)).restoreState v g b vals with
          | some s3 => ctxStatus s3 t o 0 (hits ++ hits2)
          | none => ctxStatus s1 t o 4 hits
    | _, _ => ctxStatus s t o 1 [])

/-- Entry of a granule record read back: its thread on the core of its role's member, the workgroup's own threads in its new slot. -/
def State.entryFrom (s : State) (l : Launch) (g : Workgroup) (slot w : Nat) : Option ConEntry :=
  if !(bit w 63) then none
  else
    let role := bits w 60 59
    let kind : Acc := match bits w 62 61 with | 0 => .read | 1 => .write | _ => .atomic
    let at_ : Nat × Nat := if role == g.role then (g.core, slot)
      else match s.peerOf l g role with
        | .run h => (h.core, bits w 58 53)
        | _ => (1024, 0)
    some { thread := { core := at_.1, slot := at_.2, wti := bits w 52 41, ctx := 0 }, region := BitVec.ofNat 32 w, kind := kind }

/-- Bytes in twos, little-endian. -/
def halves : List Byte → List Nat
  | x :: y :: r => (x.toNat + 256 * y.toNat) :: halves r
  | _ => []

/-- The tile map of a workgroup image: two bytes for each handle in turn (R370). -/
def tileCodes (b : List Byte) : List Nat := halves ((b.drop 0x1000).take 0x2000)

/-- A malformed workgroup image (R370), for the saved workgroup it names. -/
def groupImageBad (b : List Byte) (l : Launch) (g : Workgroup) (recs : List ConRec) : Bool :=
  let h1 := imgW b 8
  let rec_ (k : Nat) : Bool :=
    let o := 0x3000 + 128 * k
    let counts := imgW b (o + 72)
    let kept := recs.find? (·.granule == k)
    let n (f : ConRec → List ConEntry) : Nat := match kept with | some r => (f r).length | none => 0
    (List.range 9).any (fun i => bits (imgW b (o + 8 * i)) 40 32 != 0 || bits (imgW b (o + 8 * i)) 62 61 == 3) || 4 ≤ imgW b (o + 80) ||
    (List.range 5).any (fun i => imgW b (o + 88 + 8 * i) != 0) || n (·.bcr) < counts / 2 ^ 32 || n (·.bca) < counts % 2 ^ 32
  bits h1 45 0 != 0 || bits h1 63 53 != l.scrk || bits h1 52 49 != g.cmk || bits h1 48 47 != g.cls ||
  ((b.drop 0x90).take 0x70).any (· != 0) || ((b.drop 0x180).take 0xE80).any (· != 0) ||
  (!(bit h1 46) && ((b.drop 0x10).take 128).any (· != 0)) ||
  (tileCodes b).any (fun t => t != 0 && (List.range 4).any (fun v => let x := t / 2 ^ (4 * v) % 16; 8 ≤ x || x % 4 == 3)) ||
  (List.range (64 * l.scrk)).any rec_

/-- The saved workgroup of a core that an image names. -/
def State.savedGroup (s : State) (core : Nat) (b : List Byte) : Option (Launch × Workgroup × Away) :=
  let h0 := imgW b 0
  let h1 := imgW b 8
  let same (g : Workgroup) : Bool :=
    g.core == core && g.away.isSome && g.lid == bits h0 47 32 && g.w % 2 ^ 32 == bits h0 31 0 && g.entry.isSome == bit h1 46 &&
    (match s.taskOf g with | some t => t.task.bytes == (b.drop 0x10).take 128 | none => true)
  if bits h0 63 48 != 0x5E18 then none
  else match s.work.groups.find? same with
  | some g => match s.launch? g.lid, g.away with
    | some l, some a => if l.coreOf g.q g.role == some core then some (l, g, a) else none
    | _, _ => none
  | none => none

/-- Tile buffers of a restored workgroup, from the tile map. -/
def State.restoreTiles (s : State) (g : Workgroup) (b : List Byte) : State :=
  ((List.range 4096).zip (tileCodes b)).foldl (fun s (h, x) =>
    if x == 0 then s
    else match s.tileOn g h (some g.role) with
    | .ok t =>
      let i := s.inst t.lid t.q t.group t.handle t.key
      let buf (v : Nat) (old : Buffer) : Buffer := match x / 2 ^ (4 * v) % 4 with
        | 1 => { owner := .engine, core := g.core, lo := t.at_ v, size := t.size, bar := t.bar }
        | 2 => { owner := .stream, core := g.core, lo := t.at_ v, size := t.size, bar := t.bar }
        | _ => old
      s.putInst { i with bufs := ((List.range 4).zip i.bufs).map (fun (v, old) => buf v old) }
    | _ => s) s

/-- Outcome of creating a workgroup from its image. -/
inductive MakeRes where
  | ok (slot : Nat) (s : State)
  | refused (status : Nat)

/-- CREATE A WORKGROUP FROM ITS IMAGE (R368, R370), in a slot. -/
def State.createGroup (s : State) (core slot : Nat) (b : List Byte) : MakeRes :=
  match s.savedGroup core b with
  | none => .refused 4
  | some (l, g, a) =>
    if groupImageBad b l g a.recs then .refused 4
    else if 64 ≤ slot || (s.group? core slot).isSome then .refused 3
    else match s.room core g.cls g.threads (l.scrk * 1024) with
    | none => .refused 3
    | some (_, base) =>
      let rename (e : ConEntry) : ConEntry :=
        if e.thread.core == core && e.thread.slot == g.slot then { e with thread := { e.thread with slot := slot } } else e
      let rec_ (k : Nat) : Option ConRec :=
        let o := 0x3000 + 128 * k
        let kept := a.recs.find? (·.granule == k)
        let members (f : ConRec → List ConEntry) (n : Nat) : List ConEntry := match kept with | some r => ((f r).take n).map rename | none => []
        let r : ConRec :=
          { scratch := some core, granule := base / 16 + k, writer := s.entryFrom l g slot (imgW b o)
            readers := (List.range 8).filterMap (fun i => s.entryFrom l g slot (imgW b (o + 8 + 8 * i)))
            bcr := members (·.bcr) (imgW b (o + 72) / 2 ^ 32), bca := members (·.bca) (imgW b (o + 72) % 2 ^ 32) }
        if r.free then none else some r
      let n := 64 * l.scrk
      let flag (k : Nat) : Nat := fieldOf b (0x3000 + 128 * k + 80) 8
      let mark (k : Nat) : List Mark :=
        let make (queue : Bool) : Mark :=
          match a.marks.find? (fun m => m.addr == 16 * k && m.queue == queue) with
          | some m => { m with addr := base + 16 * k }
          | none => { core := core, addr := base + 16 * k, queue := queue, overBytes := 0, overArrivals := 0 }
        (if k % 2 == 0 && bit (flag k) 1 then [make false] else []) ++ (if k % 4 == 0 && bit (flag k) 0 then [make true] else [])
      let s1 := ((s.clearScratch core base (l.scrk * 1024)).freeTiles core base (l.scrk * 1024)).moveSlot core g.slot slot
      let s2 := s1.modGroup core slot (fun g =>
        { g with base := base, size := l.scrk * 1024, away := none, restored := true
                 uniform := (List.range 32).map (fun i => BitVec.ofNat 32 (fieldOf b (0x100 + 4 * i) 4)) })
      let s3 := s2.modThreads (fun t => t.name.core == core && t.name.slot == slot && t.name.ctx == 0) (fun t => { t with st := .saved })
      let s4 := { s3 with
        store := { s3.store with conflicts := s3.store.conflicts ++ (List.range n).filterMap rec_ }
        engines := { s3.engines with marks := s3.engines.marks ++ (List.range n).flatMap mark } }
      let s5 := match s4.group? core slot with | some g => s4.restoreTiles g b | none => s4
      .ok slot (s5.setDreg (regHold core slot) 1)

/-- One thread's CTXLD.WG. A context whose own workgroup was saved is renamed with it. -/
def loadGroup (o : SyOp) (s : State) (t : Thread) : TRes × (ThreadName → ThreadName) :=
  let (va, sel) := ctxOperands t o
  match imageAddr va 4096 with
  | some info => (.trap s info, id)
  | none => match s.selected t sel with
    | none => (ctxStatus s t o 1 [], id)
    | some (slot, _) =>
      match s.imageRead t.name (s.asidOf t.name) t.level va 192 with
      | .park a k l x => (ctxPark s a k l x, id)
      | .trap e => (.trap s e, id)
      | .ok b hits s1 =>
        if bits (imgW b 0) 63 48 != 0x5E18 || 1024 < bits (imgW b 8) 63 53 then (ctxStatus s1 t o 4 hits, id)
        else match s1.imageRead t.name (s.asidOf t.name) t.level (va + 12288) (128 * bits (imgW b 8) 63 53) with
        | .park a k l x => (ctxPark s a k l x, id)
        | .trap e => (.trap s e, id)
        | .ok r hits2 s2 =>
          let old := (s2.savedGroup t.name.core b).map (fun x => x.2.1.slot)
          match s2.createGroup t.name.core slot (b ++ r) with
          | .refused st => (ctxStatus s2 t o st (hits ++ hits2), id)
          | .ok k s3 =>
            let nm (n : ThreadName) : ThreadName := if n.core == t.name.core && some n.slot == old then { n with slot := k } else n
            (ctxStatus s3 { t with name := nm t.name } o 0 (hits ++ hits2), nm)

/-- CTXLD.WG (R368). -/
def bodyCtxldWg (o : SyOp) : BodyFn := eachMoved (fun _ s t => s.drained t.name) (loadGroup o)

/-! ## Restore by registers (R303) -/

/-- RGO written (R303): the workgroup is created in the lowest free slot with its HOLD set, and a service context is asked for. -/
def State.restore (s : State) (core : Nat) : State :=
  let st := s.dreg (regRestore core + 16)
  if 256 ≤ core || bit st 8 then s
  else
    let va := bits (s.dreg (regRestore core)) 56 0
    let asid := bits (s.dreg (regRestore core + 8)) 63 48
    let n : ThreadName := { core := core, slot := 0, wti := 0, ctx := 0 }
    let status (s : State) (busy : Bool) (c : Nat) : State :=
      (if busy then s else s.restoreOver core).setDreg (regRestore core + 16) (256 * b2n busy + c)
    if va % 4096 != 0 then status s false 4
    else match s.imageRead n asid 1 va 192 with
    | .ok b _ _ =>
      if bits (imgW b 0) 63 48 != 0x5E18 || 1024 < bits (imgW b 8) 63 53 then status s false 4
      else match s.imageRead n asid 1 (va + 12288) (128 * bits (imgW b 8) 63 53) with
      | .ok r _ _ =>
        match s.freeWgSlot core with
        | none => status s false 3
        | some k => match s.createGroup core k (b ++ r) with
          | .refused c => status s false c
          | .ok k s1 =>
            status ((s1.setDreg (regHold core k) 5).modGroup core k (fun g => { g with restoring := some va })) true 0
      | _ => status s false 5
    | _ => status s false 5

/-- RESTORE_GO (R303). -/
def execRestoreGo (core : Nat) (s : State) : Host.Outcome State Fault Refusal := .next (s.restore core)

/-- CTXSV_COPY (R368). -/
def execCtxsvCopy (o : SyOp) (s : State) : Host.Outcome State Fault Refusal := .next (runWord (.ctxsvCopy o) (bodyCtxsvCopy o) s)

/-- CTXSV_REL (R368). -/
def execCtxsvRel (o : SyOp) (s : State) : Host.Outcome State Fault Refusal := .next (runWord (.ctxsvRel o) (bodyCtxsvRel o) s)

/-- CTXSV_WG (R368). -/
def execCtxsvWg (o : SyOp) (s : State) : Host.Outcome State Fault Refusal := .next (runWord (.ctxsvWg o) (bodyCtxsvWg o) s)

/-- CTXLD_REGS (R368). -/
def execCtxldRegs (o : SyOp) (s : State) : Host.Outcome State Fault Refusal := .next (runWord (.ctxldRegs o) (bodyCtxldRegs o) s)

/-- CTXLD_FULL (R368). -/
def execCtxldFull (o : SyOp) (s : State) : Host.Outcome State Fault Refusal := .next (runWord (.ctxldFull o) (bodyCtxldFull o) s)

/-- CTXLD_WG (R368). -/
def execCtxldWg (o : SyOp) (s : State) : Host.Outcome State Fault Refusal := .next (runWord (.ctxldWg o) (bodyCtxldWg o) s)

end Sys2Proof.Machine
end

