-- ==== Sys2Proof/Machine/Debug.lean ====
section
/-! DEFINITION. The cluster stop, thaw, the debug step, the dump, samples, trace summaries, the trail log and its replay (R187, R306,
R310 to R318, R447). -/

namespace Sys2Proof.Machine

/-! ## Records of packs (R311, R313) -/

/-- PACK record: the threads of the record before it. -/
def State.packRecord (s : State) (core : Nat) (l : List ThreadName) : State :=
  let thr := thrField l
  s.debugRecord (clusterOf core) (recBytes ([(s.recHeader 0x03 (clusterOf core) (core % 4) none).headD 0] ++
    (List.range 6).map (fun i => thr / 2 ^ (64 * i) % 2 ^ 64) ++ [0]))

/-- SKID record and its PACK record. -/
def State.skidRecord (s : State) (core pipe : Nat) (l : List ThreadName) (point : Option Pc) (skid t0 : Nat) : State :=
  let s1 := s.debugRecord (clusterOf core) (recBytes (s.recHeader 0x02 (clusterOf core) (core % 4) l.head? ++
    [(point.map Pc.word).getD 0, (l.length - 1) * 2 ^ 59 + pipe * 2 ^ 57 + skid % 256, t0, 0]))
  s1.packRecord core l

/-! ## The stop (R310, R311) -/

/-- CLUSTER_STOP_TRIGGER (R310): software, or a host debug command, or another source of R306. -/
def execClusterStopTrigger (cluster src idx : Nat) (s : State) : Host.Outcome State Fault Refusal :=
  .next (if 64 ≤ cluster || src == 0 || 6 < src || 16 ≤ idx then s else s.triggerStop cluster src idx)

/-- The stop reaches a core: its packs stop at their instruction boundary, and every pack since the trigger has its records. -/
def State.stopArrives (s : State) (core : Nat) (x : Stop) : State :=
  let past := x.past.filter (·.core == core)
  let s1 := past.foldl (fun s p => s.skidRecord core p.pipe p.threads p.point p.skid x.t0) s
  let packs := sortBy (fun (a b : Pack) => a.pipe < b.pipe) (s1.work.packs.filter (·.core == core))
  let s2 := packs.foldl (fun s p => (s.skidRecord core p.pipe p.threads (some { ca := p.ca, wi := p.wi }) p.skid x.t0).cutPack core p.pipe true) s1
  s2.modStop x.cluster (fun x => { x with reached := x.reached ++ [core], past := x.past.filter (·.core != core) })

/-- CLUSTER_STOP_ARRIVAL (R311). -/
def execClusterStopArrival (core : Nat) (s : State) : Host.Outcome State Fault Refusal :=
  .next (match s.stop? (clusterOf core) with
  | some x => if x.reached.contains core then s else s.stopArrives core x
  | none => s)

/-- STOP_COMPLETE (R310): every pack has stopped and FDONE is set. -/
def execStopComplete (cluster : Nat) (s : State) : Host.Outcome State Fault Refusal :=
  .next (match s.stop? cluster with
  | some x =>
    let still (c : Nat) : Bool := !(x.reached.contains (4 * cluster + c)) && (s.coreEnabled cluster c || s.work.packs.any (·.core == 4 * cluster + c))
    if x.complete || (List.range 4).any still || !(bit (s.dreg (regFreeze cluster)) 1) then s
    else (s.setDbg cluster 0 (setBits (s.dbg cluster 0) 62 62 1)).modStop cluster (fun x => { x with complete := true })
  | none => s)

/-- A parked fetch is over: the thread is READY where it stood. -/
def State.fetchAgain (s : State) (n : ThreadName) : State :=
  s.modThread n (fun t => { t with st := .ready, readyAt := s.now, waited := 0, held := 0 })

/-- One thing that waited for thaw takes effect (R36, R261, R312). -/
def State.thawOne (s : State) (x : Thawing) : State :=
  match x with
  | .met n =>
    (match s.thread? n with
    | some t => (match t.st with
      | .blocked (.met scope) => (s.acquire n.core scope).wake n .next []
      | .blocked (.fetch _) => s.fetchAgain n
      | .blocked (.record _) => s.tretAgain n
      | _ => s)
    | none => s)
  | .phase c => s.barSettle c.core c.addr
  | .batches n => s.wakeBatches n
  | .queues core => s.serveCore core
  | .cancel core slot =>
    (match s.work.groups.find? (fun g => g.core == core && g.slot == slot && g.away.isNone) with
    | some g => if g.cancelled && !g.exiting then s.endGroup core slot else s
    | none => s)

/-- THAW (R310): FRZ clears, packs may resume, and what waited takes effect in the order in which it happened. STOP, STOPPED, DUMP and
DUMPD clear (R306; DUMP: DEDUCED, log 41). -/
def State.thaw (s : State) (x : Stop) : State :=
  let r := s.dbg x.cluster 0
  let s1 := (s.setDbg x.cluster 0 (setBits (setBits r 63 62 0) 60 59 0)).writeFreeze x.cluster false
  x.deferred.foldl (fun s y => s.thawOne y)
    { s1 with control := { s1.control with stops := s1.control.stops.filter (·.cluster != x.cluster) } }

/-! ## The step (R312) -/

/-- Is a thread one that has trapped, is BLOCKED, has exited? -/
def stepClass (t : Option Thread) : Nat :=
  match t with
  | none => 3
  | some t =>
    match t.st with
    | .suspended .trapped => 1
    | .blocked _ => 2
    | .exited => 3
    | _ => 0

/-- The first of 1, 2 and 3 that applies to some thread of a pack, or 0. -/
def State.stepResult (s : State) (l : List ThreadName) : Nat :=
  let k := l.map (fun n => stepClass (s.thread? n))
  (([1, 2, 3].find? k.contains)).getD 0

/-- The end of a step: the STEP record, SRES and SDONE; GO clears (DEDUCED, log 41); a thaw that was asked for takes effect (R310, R312). -/
def State.stepEnd (s : State) (p : Nat) (l : List ThreadName) (named : Option ThreadName) (sres cause : Nat) (point : Pc) : State :=
  let core := match named with | some n => n.core | none => 4 * p
  let s1 := s.debugRecord p (recBytes (s.recHeader 0x04 p (core % 4) named ++
    [point.word, sres * 2 ^ 61 + (l.length - 1) * 2 ^ 56 + cause * 2 ^ 48, 0, 0]))
  let s2 := if l.isEmpty then s1 else s1.packRecord core l
  let s3 := s2.setDbg p 8 (setBits (s2.dbg p 8) 63 59 (8 + sres))
  let s4 := s3.modStop p (fun x => { x with stepping := none, stepThreads := [] })
  match s4.stop? p with
  | some x => if x.thawAsked then s4.thaw x else s4
  | none => s4

/-- A stepped pack has retired its word, or stands where it cannot: it stops again, traps are recorded, and the step ends. -/
def State.stepOver (s : State) (x : Stop) (core pipe : Nat) (sres : Option Nat) : State :=
  let l := x.stepThreads
  let pack := s.pack? core pipe
  let s1 := if pack.isSome then s.cutPack core pipe true else s
  let trapped := l.filter (fun n => stepClass (s1.thread? n) == 1)
  let cause := match trapped.head?.bind s1.thread? with
    | some t => (match t.trap with | some r => r.info.cause.code | none => 0)
    | none => 0
  let s2 := trapped.foldl (fun s n => s.recordTrap n) s1
  let live := l.filter (fun n => stepClass (s2.thread? n) != 3)
  let point : Pc := match pack, live with
    | some p, _ => { ca := p.ca, wi := p.wi }
    | none, n :: _ => (s2.position n).1
    | none, [] => { ca := 0, wi := 0 }
  s2.stepEnd x.cluster l l.head? (sres.getD (s2.stepResult l)) cause point

/-- AFTER A TURN of a pipe: the word that triggered a stop is over, and when a debug step runs the pipe's pack, has the step come to its end?
A prefix slot is stepped together with the word after it (R311, R312). `before` is the pack as the turn began. -/
def State.afterTurn (s : State) (before : Option Pack) : State :=
  match before with
  | none => s
  | some p =>
    let s := if s.control.stops.any (·.firing == some (p.core, p.pipe)) then
      { s with control := { s.control with stops := s.control.stops.map (fun x => if x.firing == some (p.core, p.pipe) then { x with firing := none } else x) } }
      else s
    match s.stop? (clusterOf p.core) with
    | none => s
    | some x =>
      if x.stepping != some (4 * p.core + p.pipe) then s
      else
        let asid := match p.threads with | n :: _ => s.asidOf n | [] => 0
        let pfx := opOf (s.peek p.core asid (s.packLevel p) (wordAddr p.ca p.wi)) == 1
        match s.pack? p.core p.pipe with
        | some q => if q.wi == p.wi || pfx then s else s.stepOver x p.core p.pipe none
        | none => s.stepOver x p.core p.pipe none

/-- A step reads the headers of the threads of the named thread's bucket, and, at a rendezvous clause, of its squad. A thread whose header's
waits are unmet, or that would trap there, is no member and keeps its state (R312). -/
def State.enterStep (s : State) (n : ThreadName) : State :=
  match s.thread? n with
  | none => s
  | some t =>
    let near (x : Thread) : Bool := x.name.core == n.core && x.name.slot == n.slot && x.name.ctx == n.ctx && x.st == .ready && x.name != n && x.hdr.isNone && x.solo.isNone &&
      (x.crew == t.crew || x.name.wti / 32 == n.wti / 32)
    let first := s.enterThread t
    let rdv := (first.thread? n).elim false (·.st == .blocked .rendezvous)
    let ca := (first.thread? n).elim t.pc.ca (·.pc.ca)
    let s1 := (first.work.threads.filter near).foldl (fun s x =>
      let s2 := s.enterThread x
      match s2.thread? x.name with
      | some y => if (y.st == .ready && y.pc.ca == ca) || (rdv && y.st == .blocked .rendezvous && y.name.wti / 32 == n.wti / 32) then s2 else s
      | none => s) first
    if rdv then s1.meet n.core else s1

/-- GO (R312): a pack that the stop suspended goes on, or a pack of the bucket of a thread READY at word 0 begins; or none is stepped. -/
def State.goStep (s : State) (p : Nat) (x : Stop) : State :=
  let r := s.dbg p 8
  let n : ThreadName := { core := 4 * p + bits r 51 50, slot := bits r 49 44, wti := bits r 43 32, ctx := 0 }
  let s0 := s.setDbg p 8 (setBits r 62 59 0)
  let none_ (s : State) : State := s.stepEnd p [] (some n) 4 0 (s.position n).1
  let start (s : State) (k : Pack) : State := s.modStop x.cluster (fun x => { x with stepping := some (4 * k.core + k.pipe), stepThreads := k.threads })
  match s0.thread? n with
  | none => none_ s0
  | some t =>
    match s0.work.resumes.find? (fun k => k.byStop && k.threads.contains n) with
    | some k => if t.st == .suspended .stopped then start (s0.resumePack k k.pipe) k else none_ s0
    | none =>
      if t.st != .ready || t.pc.wi != 0 then none_ s0
      else
        let s1 := s0.enterStep n
        match s1.thread? n with
        | some t1 =>
          if t1.st == .blocked .header then s1.stepEnd p [n] (some n) 2 0 t1.pc
          else match ((s1.buckets n.core).find? (fun b => b.threads.any (·.name == n))).bind (fun b => (b.pack n.core 0 32).map (fun k => (b, k))) with
            | some (b, k) => start (s1.takePack b k) k
            | none => if stepClass (some t1) == 1 then s1.stepEnd p [n] (some n) 1 0 (s1.position n).1 else none_ s0
        | none => none_ s1

/-- DEBUG_STEP (R312): a write of GO while STOPPED. -/
def execDebugStep (cluster : Nat) (s : State) : Host.Outcome State Fault Refusal :=
  .next (match s.stop? cluster with
  | some x => if x.complete && x.stepping.isNone then s.goStep cluster x else s
  | none => s)

/-- A thaw is asked for (R310): at once, or at the end of the running step. A step whose word stalls then ends with its pack at the word
(DESIGN CHOICE, log 32). -/
def State.askThaw (s : State) (x : Stop) : State :=
  match x.stepping with
  | none => s.thaw x
  | some k =>
    let s1 := s.modStop x.cluster (fun x => { x with thawAsked := true })
    match s1.pack? (k / 4) (k % 4), s1.stop? x.cluster with
    | some p, some y => if 0 < p.stalled then s1.stepOver y (k / 4) (k % 4) (some 2) else s1
    | _, _ => s1

/-- THAW (R310): STOP written 0 while STOPPED. -/
def execThaw (cluster : Nat) (s : State) : Host.Outcome State Fault Refusal :=
  .next (match s.stop? cluster with
  | some x => if x.complete then s.askThaw x else s
  | none => s)

/-! ## The dump (R187, R306) -/

/-- One store or reduction not yet performed at its home: thread, order, and the record's payload. -/
structure PendingRec where
  thread : ThreadName
  lid : Nat
  region : Word32
  order : Nat
  addr : Nat
  info : Nat
  data : Nat
deriving DecidableEq, Repr

/-- Pending stores and reductions of a cluster's threads. -/
def State.pendings (s : State) (p : Nat) : List PendingRec :=
  let out := s.store.outst.filterMap (fun o =>
    if clusterOf o.thread.core != p || !(o.kind == .store || o.kind == .red || o.kind == .atomic) then none
    else
      let st := if o.fid.isSome then 2 else 0
      let addr := match o.peer with | some (role, off) => off + role * 2 ^ 32 | none => o.va.toNat
      some { thread := o.thread, lid := o.lid, region := o.region, order := o.id, addr := addr
             info := o.bytes % 32 + st * 2 ^ 8 + (if o.kind == .red then 2 else if o.kind == .atomic then 1 else 0) * 2 ^ 10 + o.aop % 64 * 2 ^ 14, data := o.data.toNat % 2 ^ 128 })
  let dirty := (s.store.l1.filter (fun l => clusterOf l.core == p)).flatMap (fun l => l.stores.map (fun x =>
    { thread := x.thread, lid := x.lid, region := x.region, order := x.order, addr := x.va.toNat, info := x.bytes % 32 + 2 ^ 8
      data := x.data.toNat : PendingRec }))
  sortBy (fun (a b : PendingRec) =>
    let key (n : ThreadName) : List Nat := [n.core, n.slot, n.wti, n.ctx]
    key a.thread < key b.thread || (a.thread == b.thread && a.order < b.order)) (out ++ dirty)

/-- DUMP (R306): while STOPPED, one PENDING record each, in program order for each thread. -/
def State.dump (s : State) (p : Nat) : State :=
  let s1 := (s.pendings p).foldl (fun s x =>
    let h := s.recHeader 0x09 p (x.thread.core % 4) (some x.thread)
    let w1 := x.lid * 2 ^ 48 + x.region.toNat * 2 ^ 16 + h.getD 1 0 % 2 ^ 16
    s.debugRecord p (recBytes ([h.getD 0 0, w1, h.getD 2 0, h.getD 3 0, x.addr, x.info, x.data % 2 ^ 64, x.data / 2 ^ 64]))) s
  s1.setDbg p 0 (setBits (s1.dbg p 0) 59 59 1)

/-- DUMP (R306). -/
def execDump (cluster : Nat) (s : State) : Host.Outcome State Fault Refusal :=
  .next (match s.stop? cluster with
  | some x => if x.complete then s.dump cluster else s
  | none => s)

/-! ## Samples and trace summaries (R314, R315) -/

/-- SAMPLE_RECORD (R315): the record of a pipe's tagged word, once that word has left the pipe. Its times are the implementation's
(DESIGN CHOICE, log 12). -/
def execSampleRecord (core pipe : Nat) (s : State) : Host.Outcome State Fault Refusal :=
  .next (
    let p := clusterOf core
    match s.control.tagged.find? (fun x => x.core == core && x.pipe == pipe) with
    | none => s
    | some x =>
      let there := match s.pack? core pipe with | some k => ({ ca := k.ca, wi := k.wi } : Pc) == x.pc && k.threads == x.threads | none => false
      if there then s
      else
        let (k, s1) := s.fresh
        let v := (Config.sampleTimes k).toNat
        let w30 := bits v 79 64 * 2 ^ 48 + x.level * 2 ^ 44 + x.tlb * 2 ^ 42 + (x.threads.length - 1) * 2 ^ 37
        let s2 := s1.debugRecord p (recBytes (s1.recHeader 0x08 p (core % 4) x.threads.head? ++ [x.pc.word, bits v 63 0, w30, 0]))
        { s2 with control := { s2.control with tagged := s2.control.tagged.filter (fun y => !(y.core == core && y.pipe == pipe)) } })

/-- TRACE_SUMMARY (R314): the workgroups of a core outside the selected group whose interval is over get their SUMMARY records. -/
def execTraceSummary (core : Nat) (s : State) : Host.Outcome State Fault Refusal :=
  .next (
    let p := clusterOf core
    if !(bit (s.dbg p (0x300 + 8 * (core % 4))) 63) then s
    else
      let sel := (s.tracedGroup core).map (·.slot)
      (s.work.groups.filter (fun g => g.core == core && g.away.isNone && some g.slot != sel)).foldl (fun s g =>
        let x := (s.control.counts.find? (fun x => x.core == core && x.slot == g.slot)).getD
          { core := core, slot := g.slot, clauses := 0, words := 0, blocked := 0, since := g.startedAt }
        if s.now < x.since + 65536 then s
        else
          let n : ThreadName := { core := core, slot := g.slot, wti := 0, ctx := 0 }
          let s1 := s.debugRecord p (recBytes (s.recHeader 0x07 p (core % 4) (some n) ++
            [x.clauses % 2 ^ 32 * 2 ^ 32 + x.words % 2 ^ 32, x.blocked, s.now - x.since, 0]))
          let rest := s1.control.counts.filter (fun y => !(y.core == core && y.slot == g.slot))
          { s1 with control := { s1.control with counts := rest ++ [{ core := core, slot := g.slot, clauses := 0, words := 0, blocked := 0, since := s.now }] } }) s)

/-! ## The trail log (R306, R316 to R318) -/

/-- A write of the trail register (R306): TEN = 1 clears TCLOSED, and the counts of picks start again; a replay reads from TRP on. -/
def State.writeTrail (s : State) (p v : Nat) : State :=
  let old := s.dbg p 0x30
  let kept := setBits (setBits v 55 52 0) 11 0 0
  let s1 := s.setDbg p 0x30 (setBits kept 60 60 (if bit v 63 then 0 else b2n (bit old 60)))
  if !(bit v 63) then s1
  else
    let (_, size, rp, _) := s1.trailBuf p
    let rest := s1.control.picks.filter (fun x => clusterOf x.core != p)
    let first (k : Nat) : PickRec :=
      { core := 4 * p + k / 4, pipe := k % 4, total := 0, slot := 0, crew := 0, ca := 0, size := 0, len := 2 ^ 25, at_ := (rp + size - 16) % size }
    let s2 := { s1 with control := { s1.control with
      picks := if bit v 61 then rest ++ (List.range 16).map first else rest
      replayAt := (p, s.now) :: s1.control.replayAt.filter (·.1 != p) } }
    if bit v 61 && (s2.trailNext p).2.1 / 2 ^ 60 == 15 then s2.triggerStop p 6 0 else s2

/-- TRAIL_ENABLE (R306). -/
def execTrailEnable (cluster : Nat) (v : BitVec 64) (s : State) : Host.Outcome State Fault Refusal :=
  .next (if 64 ≤ cluster then s else s.writeTrail cluster v.toNat)

/-- REPLAY_DIVERGENCE (R317): the next logged choice has not been ready for 2^20 cycles. -/
def execReplayDivergence (cluster : Nat) (s : State) : Host.Outcome State Fault Refusal :=
  .next (match s.control.replayAt.find? (·.1 == cluster) with
  | some (_, t) => if s.replaying cluster && 2 ^ 20 ≤ s.now - t then s.triggerStop cluster 5 0 else s
  | none => s)

end Sys2Proof.Machine
end

