-- ==== Sys2Proof/Machine/Output.lean ====
section
/-! DEFINITION. Serialisers, encoders and the timing protocol's firmware (R249, R262, R267, R268, R325, R444). -/

namespace Sys2Proof.Machine

/-! ## Consuming a ring (R264, R267, R268) -/

/-- Step CON over a sequence. -/
def State.consume (s : State) (r : Nat) : State :=
  (s.freeHeld r (s.ringPtr r .con)).stepRingPtr r .con

/-- Free the slot of a sequence that an output has done with. -/
def State.passSlot (s : State) (r n : Nat) : State :=
  match s.seq? r n with
  | some x => ((s.freeSlot r x.slot).ringSettle r)
  | none => s.ringSettle r

/-! ## Serialisers (R262, R267) -/

/-- The colour FILL as channel values of b bits: red, green, blue. -/
def fillChannels (p : Plan) (bpc : Nat) : List Nat :=
  [bits p.fill 29 20, bits p.fill 19 10, bits p.fill 9 0].map (fun c => roundNat .rne false (c * (2 ^ bpc - 1)) 1023)

/-- A line of FILL. -/
def fillLine (p : Plan) (bpc : Nat) : List Nat := (List.range p.wid).flatMap (fun _ => fillChannels p bpc)

/-- One RGBA16F channel as sent: clamped to 0 to 1, NaN as 0. -/
def halfChannel (bpc c : Nat) : Nat :=
  match fp16.val c with
  | .fin false num den => if den ≤ num then 2 ^ bpc - 1 else roundNat .rne false (num * (2 ^ bpc - 1)) den
  | .inf false => 2 ^ bpc - 1
  | _ => 0

/-- The channels of one pixel of a line (R267). -/
def pixelChannels (p : Plan) (bpc : Nat) (b : List Byte) : List Nat :=
  let v := leVal b
  if p.pfmt == 0 then
    [bits v 9 0, bits v 19 10, bits v 29 20].map (fun c => roundNat .rne false (c * (2 ^ bpc - 1)) 1023)
  else [bits v 15 0, bits v 31 16, bits v 47 32].map (halfChannel bpc)

/-- Bytes of a pixel. -/
def Plan.pixel (p : Plan) : Nat := if p.pfmt == 0 then 4 else 8

/-- Awning address of a line of the slot of a sequence. -/
def State.slotLine (s : State) (r n line : Nat) : Nat :=
  let ring := s.ring r
  ring.base + n % ring.slots * ring.slotBytes + line * ring.lineBytes

/-- The line of a published slot; none when it holds an uncorrectable error (R304). -/
def State.scanLine (s : State) (p : Plan) (bpc n line : Nat) : Option (List Nat) :=
  let a := s.slotLine p.ring (n % 2 ^ 32) line
  if s.awningPoisoned a (p.wid * p.pixel) then none
  else some ((List.range p.wid).flatMap (fun x => pixelChannels p bpc (s.store.awning.read (a + x * p.pixel) p.pixel)))

/-- Pass the strips of a serialiser before its next need that were treated as late and have settled since (R267). -/
def State.passLate (s : State) (p : Plan) (first until_ : Nat) : Nat → State
  | 0 => s
  | fuel + 1 =>
    let con := s.ringPtr p.ring .con
    let back := (until_ % 2 ^ 32 + 2 ^ 32 - con) % 2 ^ 32
    if back == 0 || until_ - first < back then s
    else match s.seq? p.ring con with
    | some x =>
      if x.st == .late || x.st == .ready then (((s.consume p.ring).passSlot p.ring con)).passLate p first until_ fuel else s
    | none => s

/-- SERIALISER_STRIP_NEED (R267): at need(n) the slot of strip n is taken READY, or the whole strip is treated as late. -/
def execSerialiserStripNeed (unit : Nat) (s : State) : Host.Outcome State Fault Refusal :=
  .next (
    let u := s.serialiser unit
    match u.plan with
    | none => s
    | some (_, p) =>
      let n := u.nextStrip
      if s.control.fw.powerOff || s.time < p.need n || (u.strip.isSome && u.line < ((n / p.spf) * p.vtot + p.voff + p.height * (n % p.spf) : Nat)) then s
      else
        let r := p.ring
        let seq := n % 2 ^ 32
        let s1 := (s.ringSettle r).passLate p u.firstStrip n 128
        match s1.seq? r seq with
        | some x =>
          if x.st == .ready && s1.ringPtr r .con == seq then
            let s2 := (s1.modSlot r x.slot (fun x => { x with st := .draining, owner := none, hold := none })).consume r
            (s2.ringSettle r).putSerialiser { u with nextStrip := n + 1, strip := some (n, false) }
          else (s1.putSerialiser { u with nextStrip := n + 1, strip := some (n, true) }).passLate p u.firstStrip (n + 1) 128
        | none => s1.putSerialiser { u with nextStrip := n + 1, strip := some (n, true) })

/-- What a line carries: nothing, FILL, or line j of strip n. -/
inductive LineKind where
  | blank
  | fill
  | strip (n j : Nat)

/-- What line x, counted from line 0 of frame 0, carries (R255, R267). -/
def Plan.lineKind (p : Plan) (x : Int) (first : Nat) : LineKind :=
  let l := (x % p.vtot).toNat
  if l < p.voff || p.voff + p.height * p.spf ≤ l then .blank
  else
    let n : Int := x / p.vtot * p.spf + ((l - p.voff) / p.height : Nat)
    if n < first then .fill else .strip n.toNat ((l - p.voff) % p.height)

/-- Scan time of line x, counted from line 0 of frame 0 (R255). -/
def Plan.lineAt (p : Plan) (x : Int) : Int := (p.epoch * 2 ^ 32 : Nat) + x * (p.lper * 2 ^ 16 : Nat)

/-- SERIALISER_LINE (R262, R267): one line of the timing: active pixels, the late policy, FILL or blanking; the slot of a strip is
released after its last line. -/
def execSerialiserLine (unit : Nat) (s : State) : Host.Outcome State Fault Refusal :=
  .next (
    let u := s.serialiser unit
    match u.plan with
    | none => s
    | some (key, p) =>
      let x := u.line
      if s.control.fw.powerOff || s.time < p.lineAt x then s
      else
        let on := s.media.plans.any (fun y => y.slot == key && y.enabled)
        match p.lineKind x u.firstStrip with
        | .blank => s.putSerialiser { u with line := x + 1, shown := [] }
        | .fill => s.putSerialiser { u with line := x + 1, shown := fillLine p u.bpc }
        | .strip n j =>
          if (u.strip.map (·.1)) != some n then s
          else
            let late := (u.strip.map (·.2)).getD true
            let line := if late then none else s.scanLine p u.bpc n j
            let policy := if p.late == 0 then u.last.getD (fillLine p u.bpc) else fillLine p u.bpc
            let last := match line with | some l => some l | none => u.last
            let ended := j + 1 == p.height
            let s1 := s.putSerialiser { u with line := x + 1, shown := if on then line.getD policy else fillLine p u.bpc, last := last
                                               strip := if ended then none else u.strip }
            if ended && !late then s1.passSlot p.ring (n % 2 ^ 32) else s1.passLate p u.firstStrip u.nextStrip 128)

/-- LINK_TRAINING (R267): the link settles rate (0 UHBR10, 1 UHBR13.5, 2 UHBR20), lanes and bits per component. -/
def execLinkTraining (unit rate lanes bpc : Nat) (s : State) : Host.Outcome State Fault Refusal :=
  .next (if 2 ≤ unit || !(bit s.cap2 (22 + unit)) || 3 ≤ rate || !([1, 2, 4].contains lanes) || !([6, 8, 10, 12, 16].contains bpc) then s
    else s.putSerialiser { s.serialiser unit with rate := rate, lanes := lanes, bpc := bpc })

/-! ## Encoders (R262, R268, R444) -/

def State.modEncoder (s : State) (i : Nat) (f : EncSession → EncSession) : State :=
  { s with media := { s.media with encoders := s.media.encoders.map (fun e => if e.slot == i then f e else e) } }

/-- Write bytes of the device into an address space, page by page; a part that fails is logged (R449). -/
def State.deviceBytes (s : State) (lid asid va : Nat) (b : List Byte) : Nat → State
  | 0 => s
  | fuel + 1 =>
    match b with
    | [] => s
    | _ =>
      let n := min b.length (4096 - va % 4096)
      (s.deviceStoreLog 0 lid asid va (b.take n)).deviceBytes lid asid (va + n) (b.drop n) fuel

/-- BSWR, BSDRP and BSRD of a plan slot (R252). -/
def State.bswr (s : State) (i : Nat) : Nat := s.dreg (regPlan i + 0x30) % 2 ^ 32
def State.bsdrp (s : State) (i : Nat) : Nat := s.dreg (regPlan i + 0x30) / 2 ^ 32
def State.bsrd (s : State) (i : Nat) : Nat := s.dreg (regPlan i + 0x28) % 2 ^ 32
def State.setBs (s : State) (i drp wr : Nat) : State := s.setDreg (regPlan i + 0x30) (min drp (2 ^ 32 - 1) * 2 ^ 32 + wr % 2 ^ 32)

/-- Strips whose lines are lo to hi of the active area. -/
def Plan.stripsOf (p : Plan) (f lo hi : Nat) : List Nat := (List.range (hi / p.height + 1 - lo / p.height)).map (f * p.spf + lo / p.height + ·)

/-- Is a strip's slot READY, LATE or already held by the encoder; strips before the first are late? -/
def State.encReady (s : State) (e : EncSession) (n : Nat) : Bool :=
  n < e.firstStrip || (match s.seq? e.plan.ring (n % 2 ^ 32) with
    | some x => x.st == .ready || x.st == .late || x.st == .draining
    | none => false)

/-- Take the slots of strips in turn: READY slots drain, and CON passes READY and LATE ones (R264). -/
def State.encTake (s : State) (e : EncSession) (l : List Nat) : State :=
  l.foldl (fun s n =>
    let r := e.plan.ring
    if n < e.firstStrip || s.ringPtr r .con != n % 2 ^ 32 then s
    else match s.seq? r (n % 2 ^ 32) with
    | some x => (s.modSlot r x.slot (fun x => if x.st == .ready then { x with st := .draining, owner := none, hold := none } else x)).consume r
    | none => s) s

/-- Does a row hold a late line: a strip before the first, a LATE slot, or an uncorrectable error (R262, R304)? -/
def State.rowLate (s : State) (e : EncSession) (strips : List Nat) : Bool :=
  strips.any (fun n => n < e.firstStrip || (match s.seq? e.plan.ring (n % 2 ^ 32) with
    | some x => x.st == .late || s.awningPoisoned (s.slotLine e.plan.ring (n % 2 ^ 32) 0) (s.ring e.plan.ring).slotBytes
    | none => true))

/-- Kr and Kb of a colour matrix in units of 1/10000: BT.709, or BT.2020 (R268). -/
def lumaWeights (cmx : Bool) : Nat × Nat := if cmx then (2627, 593) else (2126, 722)

/-- Y′ of an RGB10A2 colour in 10-bit narrow range (R268; PRESUMED, log 47). -/
def lumaOf (cmx : Bool) (r g b : Nat) : Nat :=
  let (kr, kb) := lumaWeights cmx
  roundNat .rne false (64 * 10230000 + 876 * (kr * r + (10000 - kr - kb) * g + kb * b)) 10230000

/-- Cb and Cr of the average of n colours, by the sums of their channels, in 10-bit narrow range (R268; PRESUMED, log 47). -/
def chromaOf (cmx : Bool) (n r g b : Nat) : List Nat :=
  let (kr, kb) := lumaWeights cmx
  let y := kr * r + (10000 - kr - kb) * g + kb * b
  let one (x k : Nat) : Nat :=
    let d := 1023 * 2 * (10000 - k) * n
    roundNat .rne false (((512 * d : Nat) : Int) + 896 * ((10000 * x : Nat) - (y : Int))).toNat d
  [one b kb, one r kr]

/-- Red, green and blue of the pixel at a column of a line of a frame's active area (R267, R268). -/
def State.encPixel (s : State) (e : EncSession) (line x : Nat) : List Nat :=
  let p := e.plan
  let n := e.frame * p.spf + line / p.height
  let v := leVal (s.store.awning.read (s.slotLine p.ring (n % 2 ^ 32) (line % p.height) + 4 * x) 4)
  [bits v 9 0, bits v 19 10, bits v 29 20]

/-- The samples of a superblock row coded from its lines, in 4:2:0: luma line by line, then Cb and Cr of each 2 by 2 block (R268). -/
def State.rowSamples (s : State) (e : EncSession) (lo hi : Nat) : List Nat :=
  let p := e.plan
  let rows := (List.range (hi + 1 - lo)).map (lo + ·)
  let luma := rows.flatMap (fun l => (List.range p.wid).map (fun x => match s.encPixel e l x with | [r, g, b] => lumaOf p.cmx r g b | _ => 0))
  let chroma := (rows.filter (· % 2 == 0)).flatMap (fun l => ((List.range p.wid).filter (· % 2 == 0)).flatMap (fun x =>
    let block := ([l, l + 1].filter (· ≤ hi)).flatMap (fun l => ([x, x + 1].filter (· < p.wid)).map (fun x => s.encPixel e l x))
    let sum (k : Nat) : Nat := block.foldl (fun a c => a + c.getD k 0) 0
    chromaOf p.cmx block.length (sum 0) (sum 1) (sum 2)))
  luma ++ chroma

/-- What a row is coded from: how it is treated (0 its lines, 1 skip blocks, 2 a flat area of FILL), key frame or not, base_q_idx, the number of
references, the row, the output role of the encoder that codes it, and its samples or the colour FILL (R262, R268). -/
def State.rowInput (s : State) (e : EncSession) (lo hi : Nat) : List Nat :=
  let p := e.plan
  [e.treated, b2n e.key, e.qidx, p.nref, e.row, p.orl + e.row % (p.nenc + 1)] ++
  (if e.treated == 0 then s.rowSamples e lo hi
   else if e.treated == 2 then
     let (r, g, b) := (bits p.fill 29 20, bits p.fill 19 10, bits p.fill 9 0)
     lumaOf p.cmx r g b :: chromaOf p.cmx 1 r g b
   else [])

/-- Write the bytes of a coded row, lines lo to hi, into the bitstream buffer, or drop the frame's unit (R268; DESIGN CHOICE, log 9). -/
def State.emitRow (s : State) (e : EncSession) (lo hi : Nat) : State :=
  if e.dropped then s
  else
    let i := e.slot
    let (k, s1) := s.fresh
    let input := s.rowInput e lo hi
    let n := Config.av1RowBytes k input
    let wr := s1.bswr i
    let used := (wr + 2 ^ 32 - s1.bsrd i) % 2 ^ 32
    if e.plan.bsz < used + n then
      (s1.setBs i (s1.bsdrp i + 1) e.unitStart).modEncoder i (fun e => { e with dropped := true, nextKey := true })
    else
      let b := (List.range n).map (Config.av1Byte k input)
      let at_ := wr % e.plan.bsz
      let first := min n (e.plan.bsz - at_)
      let s2 := s1.deviceBytes e.plan.lid e.asid (e.plan.bsa + at_) (b.take first) (n + 1)
      let s3 := s2.deviceBytes e.plan.lid e.asid e.plan.bsa (b.drop first) (n + 1)
      s3.setBs i (s3.bsdrp i) (wr + n)

/-- The frame is over: word 3 of the entry of its last strip, and the next frame begins (R259, R268). -/
def State.frameOver (s : State) (e : EncSession) : State :=
  let p := e.plan
  let n := e.frame * p.spf + p.spf - 1
  let seq := s.statusWord p n 0 / 2 ^ 32
  let w := if e.dropped then 2 ^ 62 else 2 ^ 63 + s.bswr e.slot % p.bsz
  let s1 := if seq == n % 2 ^ 32 then s.writeStatus p n 24 (leBytes w 8) else s
  s1.modEncoder e.slot (fun e => { e with frame := e.frame + 1, row := 0, key := e.nextKey, nextKey := false, dropped := false
                                          unitStart := s1.bswr e.slot })

/-- ENCODER_SUPERBLOCK_ROW (R268, R444): the encoder codes its next row once the lines up to the lookahead are READY or LATE, and
releases the slots whose rows are all coded. -/
def execEncoderSuperblockRow (slot : Nat) (s : State) : Host.Outcome State Fault Refusal :=
  .next (match s.media.encoders.find? (·.slot == slot) with
  | none => s
  | some e =>
    let p := e.plan
    let lines := p.height * p.spf
    let r := e.row
    let need := p.stripsOf e.frame (64 * r) (min (64 * r + 71) (lines - 1))
    let s0 := s.ringSettle p.ring
    if s.control.fw.powerOff || need.any (fun n => !(s0.encReady e n)) then s
    else
      let q := match s.xlat (.unit 0) e.asid p.qaddr 1 { write := false, bytes := 1 } with | .ok pa _ => (s.store.mem.byte pa).toNat | _ => e.qidx
      let e1 := if r == 0 then { e with qidx := q } else e
      let last := min (64 * r + 63) (lines - 1)
      let s1 := s0.encTake e need
      let how := if !(s1.rowLate e (p.stripsOf e.frame (64 * r) last)) then 0 else if e.key || p.late == 1 then 2 else 1
      let e1 := { e1 with treated := how }
      let s2 := (s1.modEncoder slot (fun _ => e1)).emitRow e1 (64 * r) last
      let done := (p.stripsOf e.frame (64 * r) last).filter (fun n => e.firstStrip ≤ n && (n % p.spf * p.height + p.height - 1) / 64 ≤ r)
      let s3 := done.foldl (fun s n => s.passSlot p.ring (n % 2 ^ 32)) s2
      let s4 := s3.modEncoder slot (fun e => { e with row := r + 1 })
      if last + 1 == lines then (match s4.media.encoders.find? (·.slot == slot) with | some e => s4.frameOver e | none => s4) else s4)

/-- A write of BSRD: ignored ahead of BSWR or more than BSZ behind it (R268). -/
def State.writeBsrd (s : State) (i v : Nat) : State :=
  let size := match s.media.encoders.find? (·.slot == i) with | some e => e.plan.bsz | none => 0
  if size < (s.bswr i + 2 ^ 32 - v % 2 ^ 32) % 2 ^ 32 then s else s.setDreg (regPlan i + 0x28) (v % 2 ^ 32)

/-- BSRD_WRITE (R268). -/
def execBsrdWrite (slot : Nat) (v : BitVec 32) (s : State) : Host.Outcome State Fault Refusal :=
  .next (if 10 ≤ slot then s else s.writeBsrd slot v.toNat)

/-! ## The timing protocol (R249, R325) -/

def State.modFw (s : State) (f : Firmware → Firmware) : State := { s with control := { s.control with fw := f s.control.fw } }

/-- PTP_EVENT_TIMESTAMP (R249): a port's hardware stamps an event message, of the one-step or the two-step form and over any of the transports,
with DTC and its fraction. -/
def execPtpEventTimestamp (m : PtpEvent) (s : State) : Host.Outcome State Fault Refusal :=
  .next (if 4 ≤ m.port then s
    else s.modFw (fun f => { f with stamps := f.stamps.filter (·.port != m.port) ++
      [{ port := m.port, time := BitVec.ofNat 96 s.dtc96, oneStep := m.oneStep, transport := m.transport }] }))

/-- PTP_ANNOUNCE_TIMEOUT (R325): the PTP port moves to the next port on which Announce messages are heard. -/
def execPtpAnnounceTimeout (heard : BitVec 4) (s : State) : Host.Outcome State Fault Refusal :=
  .next (match s.control.fw.timingPort with
  | none => s
  | some p => match ((List.range 4).map (fun k => (p + 1 + k) % 4)).find? (fun k => heard.getLsbD k) with
    | some q => s.modFw (fun f => { f with timingPort := some q })
    | none => s)

/-- PTP_MESSAGE_RECEIVED (R249, R325): an Announce at bring-up chooses the timing port; a Sync on the timing port feeds the servo, which
writes ADJ, and STEPV while strip mode is off (DESIGN CHOICE, log 11). -/
def execPtpMessageReceived (port : Nat) (m : PtpMessage) (s : State) : Host.Outcome State Fault Refusal :=
  .next (if 4 ≤ port then s
    else match m, s.control.fw.timingPort with
    | .announce, none => s.modFw (fun f => { f with timingPort := some port })
    | .announce, some p =>
      if port < p then
        let (k, s1) := s.fresh
        if Config.ptpBetter k then s1.modFw (fun f => { f with timingPort := some port }) else s1
      else s
    | .sync, some p =>
      if port != p then s
      else
        let (k, s1) := s.fresh
        let v := Config.ptpServo k
        let s2 := s1.writeAdj (v.setWidth 32)
        if s2.stripMode then s2 else s2.writeStepv (v >>> 32)
    | _, _ => s)

end Sys2Proof.Machine
end

