-- ==== Sys2Proof/Machine/System.lean ====
section
/-! DEFINITION. The device in its system: page walks, fault records and the host's answers, soft errors, retirement, checkpoints, bring-up,
attestation, heat and power (R155, R158, R161, R304, R324, R328 to R332). -/

namespace Sys2Proof.Machine

/-! ## Page walks (R155, R158) -/

/-- The elements of a list whose places are not among those given. -/
def dropAt {α : Type} (l : List α) (ks : List Nat) : List α := ((List.range l.length).zip l).filterMap (fun x => if ks.contains x.1 then none else some x.2)

/-- The table entries of levels 4 to 1 that a walk reads, as the page-walk cache holds them: a valid entry that points to a table (R153, R158). -/
def State.walkEntries (s : State) (cluster asid va : Nat) : List WalkEntry :=
  let reads := match s.walkStart cluster asid va with
    | some (level, table) => s.walkReads va level table
    | none =>
      let e := s.store.mem.val (s.dreg regAstb + 8 * asid) 8
      if !(bit e 63) || bits e 62 52 != 0 || bits e 11 0 != 0 then [] else s.walkReads va 4 (bits e 51 12 * 4096)
  reads.filterMap (fun (level, a) =>
    let e := s.store.mem.val a 8
    if level == 0 || !(bit e 0) || bit e 1 || entryBad level e then none
    else some { cluster := cluster, asid := asid, level := level - 1, va := va, table := bits e 51 0 / 4096 * 4096 })

/-- PAGE_WALK (R155, R158): cached translations and table entries are dropped; a miss in the L2 TLB of a cluster walks, below the lowest cached
entry, and caches the entries and the leaf it finds; a core of the cluster takes the translation into its L1 TLB (DESIGN CHOICE, log 17). -/
def execPageWalk (cluster : Nat) (asid : BitVec 16) (va : BitVec 57) (turn : TlbTurn) (s : State) :
    Host.Outcome State Fault Refusal :=
  .next (
    if 64 ≤ cluster || s.control.fw.powerOff then s
    else
      let a := asid.toNat
      let v := va.toNat
      let s1 := { s with store := { s.store with tlb := dropAt s.store.tlb turn.evict, walks := dropAt s.store.walks turn.evictWalks } }
      let into (s : State) (t : Trans) : State :=
        match turn.core with
        | none => s
        | some c =>
          let k := 4 * cluster + c % 4
          if (s.cached (.core k) a v).elim false (·.core.isSome) then s
          else { s with store := { s.store with tlb := s.store.tlb ++ [{ t with core := some k }] } }
      match s1.cached (.unit cluster) a v with
      | some t => into s1 t
      | none =>
        let s2 := s1.walkSeen (.unit cluster) a v
        let s3 := { s2 with store := { s2.store with walks := s2.store.walks ++ (s2.walkEntries cluster a v).filter (fun x => !(s2.store.walks.contains x)) } }
        match s2.walk cluster a v with
        | .found t => into { s3 with store := { s3.store with tlb := s3.store.tlb ++ [t] } } t
        | _ => s3)

/-! ## Fault records (R324) -/

/-- The fault buffer: the number of its entries, its base, records consumed and records written. -/
def State.faultBuffer (s : State) : Nat × Nat × Nat × Nat :=
  let r := s.dreg regFb
  let w := s.dreg (regFb + 8)
  (bits r 63 52, bits r 51 5 * 32, w / 2 ^ 32, w % 2 ^ 32)

/-- The four words of a record. -/
def State.faultWords (s : State) (asid kind level fid addr unit index count : Nat) : List Nat :=
  [asid * 2 ^ 48 + kind * 2 ^ 44 + level % 8 * 2 ^ 41 + fid, addr, s.dtcNs, unit % 2 ^ 16 * 2 ^ 48 + index % 2 ^ 16 * 2 ^ 32 + count % 2 ^ 32]

/-- Put a record into the buffer; none when the buffer is unusable or full, or its memory is not there. -/
def State.faultWrite (s : State) (ws : List Nat) : Option State :=
  let (n, base, rd, wr) := s.faultBuffer
  let a := base + 32 * (wr % 2 ^ n)
  if n < 4 || 20 < n || 2 ^ n ≤ (wr + 2 ^ 32 - rd) % 2 ^ 32 || s.populated a != some 0 then none
  else
    let s1 := (s.memWrite 0 a (recBytes ws)).watch agentDevice none a 32 false true (fun _ => true)
    some (s1.2.setDreg (regFb + 8) (rd * 2 ^ 32 + (wr + 1) % 2 ^ 32))

/-- FAULT_RECORD (R324): the oldest replayable fault without a record gets one, else the oldest entry of the device error log. -/
def execFaultRecord (s : State) : Host.Outcome State Fault Refusal :=
  .next (match s.store.faults.find? (fun f => !f.written) with
  | some f =>
    match s.faultWrite (s.faultWords f.asid f.kind f.level f.fid f.va 0 0 0) with
    | some s1 => { s1 with store := { s1.store with faults := s1.store.faults.map (fun x => if x == f then { x with written := true } else x) } }
    | none => s
  | none =>
    match s.store.errs with
    | e :: rest => match s.faultWrite (s.faultWords e.asid e.kind 0 0 e.addr e.unit e.index e.count) with
      | some s1 => { s1 with store := { s1.store with errs := rest } }
      | none => s
    | [] => s)

/-- A write of the register at 0x2100 (R320). -/
def State.writeFaultBuffer (s : State) (v : Nat) : State := s.setDreg regFb (v / 32 * 32)

/-- FAULT_BUFFER_CONFIG (R324). -/
def execFaultBufferConfig (v : BitVec 64) (s : State) : Host.Outcome State Fault Refusal := .next (s.writeFaultBuffer v.toNat)

/-! ## The host's answers (R161) -/

/-- Does a thread wait on a record: for a fetch, a read of its word, a trap record, a refill, or a queue whose spill region is there? -/
def State.waitsOn (s : State) (t : Thread) (w : Wait) (fid : Nat) : Bool :=
  match w with
  | .fetch k | .record k | .word k _ => k == fid
  | .operand r => s.store.faults.any (fun f => f.fid == fid && f.kind == 6 && f.asid == s.asidOf t.name && f.va / 4096 == (s.tsaOf t.name + 4 * r) / 4096)
  | .push _ _ _ _ | .pop _ _ _ _ => s.store.faults.any (fun f => f.fid == fid && f.kind == 6 && f.asid == s.asidOf t.name)
  | _ => false

/-- Clusters of the agents that wait on a record. -/
def State.faultClusters (s : State) (fid : Nat) : List Nat :=
  ((s.store.outst.filter (·.fid == some fid)).map (fun o => clusterOf o.thread.core) ++
   (s.work.threads.filter (fun t => (match t.st with | .blocked w => s.waitsOn t w fid | _ => false) ||
     (match t.callXfer with | some x => x.fid == some fid | none => false))).map (fun t => clusterOf t.name.core) ++
   (s.engines.copies.filter (·.fid == some fid)).map (fun c => clusterOf c.core) ++
   (s.engines.units.filter (·.fid == some fid)).map (·.cluster) ++ (s.engines.evals.filter (·.fid == some fid)).map (·.cluster)).dedup

/-- The record that an answer settles: one the host has been told of, with the answer's place in the trail logs open (DEDUCED, log 35). -/
def State.answered (s : State) (fid : Nat) : Option FaultRec :=
  (s.store.faults.find? (fun f => f.fid == fid && f.written)).filter (fun _ =>
    (s.faultClusters fid).all (fun p => s.trailOk p (trailWord 4 p 0 0 0 (5 * 2 ^ 30)) false (some fid)))

/-- The answer in the trail logs, and the record settled. -/
def State.settleFault (s : State) (fid : Nat) : State :=
  let s1 := (s.faultClusters fid).foldl (fun s p => s.trail p (trailWord 4 p 0 0 0 (5 * 2 ^ 30)) fid) s
  { s1 with store := { s1.store with faults := s1.store.faults.filter (·.fid != fid) } }

/-- RETRY: what waited on the record goes on, and is translated afresh when it is next performed. In a stopped cluster a thread becomes
READY at thaw (R36). -/
def State.retryFault (s : State) (fid : Nat) : State :=
  let here (x : Option Nat) : Bool := x == some fid
  let free (x : Option Nat) : Option Nat := if here x then none else x
  let s1 : State := { s with
    store := { s.store with outst := (s.store.outst.filter (fun (o : Outstanding) => !(o.kind == OutKind.header && here o.fid))).map (fun (o : Outstanding) => { o with fid := free o.fid }) }
    engines := { s.engines with
      copies := s.engines.copies.map (fun (c : Copy) => { c with fid := free c.fid })
      units := s.engines.units.map (fun (u : MatUnit) => { u with fid := free u.fid })
      evals := s.engines.evals.map (fun (e : Eval) => { e with fid := free e.fid }) } }
  let s2 := s1.modThreads (fun t => t.callXfer.isSome) (fun t => { t with callXfer := t.callXfer.map (fun x => { x with fid := free x.fid }) })
  s2.work.threads.foldl (fun s t =>
    if t.st == .blocked (.fetch fid) || t.st == .blocked (.record fid) then
      (if s.stopped t.name.core then s.deferTo (clusterOf t.name.core) (.met t.name)
      else if t.st == .blocked (.fetch fid) then s.fetchAgain t.name
      else s.tretAgain t.name)
    else s) s2

/-- The queues of the cores serve their blocked threads again, after a fault of kind 6 has its answer. -/
def State.serveQueues (s : State) (f : FaultRec) : State :=
  if f.kind != 6 then s else (s.engines.marks.filter (·.queue)).map (·.core) |>.dedup |>.foldl (fun s c => s.serveCore c) s

/-- FAULT_ANSWER_RETRY (R161). -/
def execFaultAnswerRetry (fid : BitVec 32) (s : State) : Host.Outcome State Fault Refusal :=
  .next (match s.answered fid.toNat with
  | some f => ((s.settleFault fid.toNat).retryFault fid.toNat).serveQueues f
  | none => s)

/-- PAGE_FATAL with reason 6 at a virtual address. -/
def failTrap (f : FaultRec) (va : Nat) : TrapInfo := { trapOf .pageFatal (6 + 256 * f.level) with vaddr := BitVec.ofNat 64 va }

/-- The address whose translation an access waits for: its own, or of a SAMP the texel's (R161, R290). -/
def State.parkedVa (s : State) (o : Outstanding) : Nat :=
  if o.kind != .sample then o.va.toNat
  else match s.sample { name := o.thread, level := o.level, pc := o.pc, word := o.word } o.va.toNat o.data o.sx with
    | .park _ a => a
    | _ => o.va.toNat

/-- Each thread with an access parked on the record takes PAGE_FATAL at its next boundary, once; the accesses are gone. -/
def State.failAccesses (s : State) (f : FaultRec) : State :=
  let mine := s.store.outst.filter (·.fid == some f.fid)
  let s1 := { s with store := { s.store with outst := s.store.outst.filter (·.fid != some f.fid) } }
  ((mine.map (·.thread)).dedup).foldl (fun t n => match mine.find? (·.thread == n) with
    | some o => t.trapBoundary n (failTrap f (s.parkedVa o)) o.pc o.word
    | none => t) s1

/-- A blocked thread whose fetch, read of its word, record read or call-stack transfer waits on the record traps where it stands. -/
def State.failThread (s : State) (f : FaultRec) (t : Thread) : State :=
  let n := t.name
  let word (va : Nat) : State :=
    let (pc, pa, pb) := s.position n
    s.trapAt n (failTrap f va) pc (s.peek n.core (s.asidOf n) t.level (wordAddr pc.ca pc.wi)) pa pb
  match t.st with
  | .blocked (.word k va) => if k == f.fid then word va else s
  | .blocked (.fetch k) =>
    if k != f.fid then s
    else
      let (pa, pb) := match t.solo with | some x => (x.pa, x.pb) | none => (0, 0)
      s.trapAt n (failTrap f (if t.pc.ca.toNat / 4096 == f.va / 4096 then t.pc.ca.toNat else f.va)) t.pc 0 pa pb
  | .blocked (.record k) => if k == f.fid then s.wakeTrap n (failTrap f f.va) else s
  | _ =>
    match t.callXfer with
    | some x =>
      if x.fid == some f.fid then
        (s.modThread n (fun t => { t with callXfer := none })).wakeTrap n (failTrap f (s.tsaOf n + 512 + 8 * x.entry))
      else s
    | none => s

/-- A parked transfer ends with COPY_ERROR at the line where it parked (R163, R201, R204). -/
def State.failCopy (s : State) (c : Copy) : State :=
  let e := engineError .copyError c.fva
  let c := { c with fid := none }
  if c.readDone then ((s.transferError c.thread c.key e).creditAll c.creditRead 0 (some (e.cause.code, e.vaddr.toNat))).copyOver c
  else match c.shape with
    | some x => s.readOver (({ c with err := some e } : Copy).delivery x) 0
    | none => s.readOver { c with err := some e } 0

/-- The operand of a unit that waits on a record ends its fetch in an error at the line where it parked (R163, R224). -/
def MatUnit.fail (u : MatUnit) : MatUnit :=
  let bad (o : Operand) : Operand := match o.fva with
    | some va => if o.ready then o else { o with ready := true, err := some (engineError .copyError va), fva := none }
    | none => o
  { u with fid := none, b := bad u.b, left := u.left.map (fun q => { q with a := bad q.a }) }

/-- Threads that wait for a spilled register on the record's page take PAGE_FATAL at the word (R104). -/
def State.failRefills (s : State) (f : FaultRec) : State :=
  if f.kind != 6 then s else
  s.work.packs.foldl (fun s p => p.threads.foldl (fun s n => match s.thread? n with
    | none => s
    | some t =>
      match (List.range 127).find? (fun r => s.wants t r && (s.tsaOf n + 4 * r) / 4096 == f.va / 4096 && s.asidOf n == f.asid) with
      | some r =>
        let w := s.peek p.core f.asid t.level (wordAddr p.ca p.wi)
        s.trapAt n { failTrap f (s.tsaOf n + 4 * r) with oreg := r } { ca := p.ca, wi := p.wi } w p.pa p.pb
      | none => s) s) s

/-- The first address on the record's page of a queue's spill entry, if the entry has one there. -/
def FaultRec.within (f : FaultRec) (va n : Nat) : Option Nat :=
  if va / 4096 ≤ f.va / 4096 && f.va / 4096 ≤ (va + n - 1) / 4096 then some (max va (f.va / 4096 * 4096)) else none

/-- The thread that waits for a spill or a refill of a queue on the record's page takes PAGE_FATAL at its word: the head popper of an array that
is empty, else the head pusher (R118, R161; DEDUCED, log 50). -/
def State.failQueue (s : State) (f : FaultRec) (r : QRef) : State :=
  let q := s.readQueue r.g.core r.a
  if s.queueAsid r != f.asid then s
  else match (s.poppers r).head?, f.within (q.spillSlot ((q.tail + 2 ^ 32 - q.scnt) % 2 ^ 32)) q.size with
    | some (n, _, _), some va => if q.inArray == 0 && q.scnt != 0 then s.wakeTrap n (failTrap f va) else s
    | _, _ => match (s.pushers r).head?, f.within (q.spillSlot q.tail) q.size with
      | some (n, _, _), some va => if q.sv && (q.scnt != 0 || q.cap ≤ q.inArray) then s.wakeTrap n (failTrap f va) else s
      | _, _ => s

def State.failQueues (s : State) (f : FaultRec) : State :=
  if f.kind != 6 then s else
  (s.engines.marks.filter (·.queue)).foldl (fun s m => match s.groupAt m.core m.addr with
    | some g => s.failQueue f { g := g, a := m.addr }
    | none => s) s

/-- FAIL: what waited on the record fails. -/
def State.failFault (s : State) (f : FaultRec) : State :=
  let s1 := s.work.threads.foldl (fun s t => s.failThread f t) (s.failAccesses f)
  let s2 := (s1.engines.copies.filter (·.fid == some f.fid)).foldl (fun s c => s.failCopy c) s1
  let s3 : State := { s2 with engines := { s2.engines with units := s2.engines.units.map (fun u => if u.fid == some f.fid then u.fail else u) } }
  let s4 := (s3.engines.evals.filter (·.fid == some f.fid)).foldl (fun s e => s.evalFault { e with fid := none } .copyError e.itemVa) s3
  ((s4.failRefills f).failQueues f).serveQueues f

/-- FAULT_ANSWER_FAIL (R161). -/
def execFaultAnswerFail (fid : BitVec 32) (s : State) : Host.Outcome State Fault Refusal :=
  .next (match s.answered fid.toNat with
  | some f => (s.settleFault fid.toNat).failFault f
  | none => s)

/-! ## Soft errors (R304, R329) -/

/-- SERVICE_REQUEST: bit 19 of CAP3 and a kind 15 record (R329). -/
def State.serviceRequest (s : State) (index : Nat) : State :=
  (s.setDreg regCap (setBits (s.dreg regCap) 51 51 1)).deviceError 15 0 0 index 1

/-- CORRECTED_ERROR (R329): the count of a unit within the last second; the unit of index i is taken to belong to cluster i (PRESUMED, log 36). -/
def execCorrectedError (unit index : Nat) (s : State) : Host.Outcome State Fault Refusal :=
  .next (
    let mine (x : Nat × Nat × Nat) : Bool := x.1 == unit && x.2.1 == index
    let near := (s.control.fw.corrected ++ [(unit, index, s.dtcNs)]).filter (fun x => s.dtcNs ≤ x.2.2 + 10 ^ 9)
    let n := (near.filter mine).length
    if n ≤ Config.correctedThreshold then s.modFw (fun f => { f with corrected := near })
    else
      let s1 := s.modFw (fun f => { f with corrected := near.filter (fun x => !(mine x)) })
      let s2 := { s1 with store := { s1.store with errs := s1.store.errs ++ [({ kind := 13, asid := 0, addr := 0, unit := unit, index := index, count := n } : ErrRec)] } }
      if s2.control.fw.retired.any (fun r => partitionOf r.1 == partitionOf index) then s2.serviceRequest index else s2)

/-- Drop the clean copies of a line (R304). -/
def State.refetchLine (s : State) (pa : Nat) : State :=
  { s with store := { s.store with l1 := s.store.l1.filter (fun l => !(l.tag == pa / 128 && l.dirty == 0)) } }

/-- Poison units (R304). -/
def State.poisonUnits (s : State) (us : List Nat) : State :=
  { s with store := { s.store with poison := s.store.poison ++ us.filter (fun u => !(s.store.poison.contains u)) } }

/-- The dirty data of one 64-byte unit of a core's line is lost: the unit is poisoned at its home; the line's other unit is written back and the
line leaves L1 (R304). -/
def State.loseLine (s : State) (core pa : Nat) : State :=
  match s.store.l1.find? (fun l => l.core == core && l.tag == pa / 128 && (l.bytes (pa / 64 % 2 * 64) 64 != [])) with
  | none => s
  | some l =>
    let s1 := s.writeHalf l (1 - pa / 64 % 2)
    let s2 := { s1 with store := { s1.store with l1 := s1.store.l1.filter (fun x => !(x.core == core && x.tag == pa / 128)) } }
    (s2.poisonUnits [pa / 64]).deviceError 14 0 pa 0 1

/-- UNCORRECTABLE_ERROR (R304). -/
def execUncorrectableError (w : EccPlace) (s : State) : Host.Outcome State Fault Refusal :=
  .next (match w with
  | .cleanLine pa => (s.refetchLine pa.toNat).deviceError 14 0 pa.toNat 0 1
  | .dirtyLine core pa => s.loseLine core pa.toNat
  | .memory pa =>
    if s.populated pa.toNat != some 0 then s else (s.poisonUnits [pa.toNat / 64]).deviceError 14 0 pa.toNat 0 1
  | .register n r =>
    let s1 := s.modThread n (fun t => match t.reg? r with | some (.live _) => { t with regs := putReg t.regs r .bad } | _ => t)
    s1.deviceError 14 0 0 n.core 1
  | .scratch core off =>
    if 256 ≤ core || 2 ^ 20 ≤ off then s
    else (s.poisonUnits [scratchUnits + (core * 2 ^ 20 + off) / 64]).deviceError 14 0 0 core 1
  | .accumulator cluster row =>
    let s1 := match s.engines.pitches.find? (fun p => p.cluster == cluster && p.base ≤ row && row < p.base + p.rows) with
      | some p => s.pitchError cluster p.number (trapOf .eccUncorr (row - p.base))
      | none => s
    s1.deviceError 14 0 0 cluster 1
  | .ringSram ring slot =>
    let r := s.ring ring
    let lo := r.base + slot * r.slotBytes
    if !r.val || r.slots ≤ slot then s
    else (s.poisonUnits ((List.range (r.slotBytes / 64 + 1)).filterMap (fun k =>
      if lo / 64 * 64 + 64 * k < lo + r.slotBytes then some (awningUnits + lo / 64 + k) else none))).deviceError 14 0 0 ring 1
  | .refStore slot => (s.modEncoder slot (fun e => { e with nextKey := true })).deviceError 14 0 0 slot 1)

/-- UNIT_RETIREMENT (R329): firmware clears a cluster's capability bit; on an OL9-S a disabled cluster that passes its test replaces it. -/
def execUnitRetirement (cluster : Nat) (testOk : Bool) (s : State) : Host.Outcome State Fault Refusal :=
  .next (
    if 64 ≤ cluster || !(bit (s.dreg regCle) cluster) then s
    else
      let s1 := s.setDreg regCle (setBits (s.dreg regCle) cluster cluster 0)
      match s.control.fw.spares with
      | q :: rest =>
        let s2 := s1.modFw (fun f => { f with spares := rest, retired := f.retired ++ [(cluster, testOk)] })
        if testOk then (s2.setDreg regCle (setBits (s2.dreg regCle) q q 1)).setDreg (regCores q) (s2.dreg (regCores cluster)) else s2.serviceRequest cluster
      | [] => (s1.modFw (fun f => { f with retired := f.retired ++ [(cluster, false)] })).serviceRequest cluster)

/-! ## Checkpoints (R327, R328) -/

/-- Is a checkpoint in progress? -/
def State.ckBusy (s : State) : Bool := bit (s.dreg (regCk + 16)) 63

/-- The image base. -/
def State.ckDest (s : State) : Nat := bits (s.dreg (regCk + 8)) 51 30 * 2 ^ 30

/-- Is an address in persistent-class memory? Bit 8 of CAP2 speaks for every expander (PRESUMED, log 16). -/
def State.persistent (s : State) (pa : Nat) : Bool := bit s.cap2 8 && 0x100000000000 ≤ pa && pa < 0x190000000000 && s.populated pa == some 0

/-- Set BUSY, CKMS and CKS. -/
def State.setCk (s : State) (busy : Bool) (ms cks : Nat) : State := s.setDreg (regCk + 16) (b2n busy * 2 ^ 63 + ms % 2 ^ 31 * 2 ^ 32 + cks)

/-- Duration of the last checkpoint. -/
def State.ckMs (s : State) : Nat := bits (s.dreg (regCk + 16)) 62 32

/-- A write of GO (R328): refused, or admission stops, host writes are held, and every cluster stops. Before bring-up has opened the launch
queue it is ignored without a CKS code: the manual does not say what it does then (DESIGN CHOICE, log 60). The image that stood at the
destination has no valid header from then on. -/
def State.checkpointGo (s : State) (halt : Bool) : State :=
  let gib := 2 ^ 30
  if s.ckBusy || s.control.fw.phase != 7 then s
  else if s.stripMode then s.setCk false s.ckMs 1
  else if !(bit s.cap2 8) then s.setCk false s.ckMs 2
  else if !(s.persistent s.ckDest) || !(s.persistent (s.ckDest + 3073 * gib - 1)) then s.setCk false s.ckMs 3
  else
    let s1 := s.setCk true s.ckMs 0
    let s2 := { s1 with control := { s1.control with
      checkpointHalt := true, checkpointStay := halt
      image := s1.control.image.map (fun x => { x with valid := x.valid && (x.dest + 3073 * gib ≤ s.ckDest || s.ckDest + 3073 * gib ≤ x.dest) }) } }
    ((List.range 64).filter (fun p => bit (s.dreg regCle) p)).foldl (fun s p =>
      if (s.stop? p).isSome then s else (s.triggerStop p 1 0).modStop p (fun x => { x with checkpoint := true })) s2

/-- CHECKPOINT_GO (R328). -/
def execCheckpointGo (halt : Bool) (s : State) : Host.Outcome State Fault Refusal := .next (s.checkpointGo halt)

/-- End the checkpoint's own stops. -/
def State.ckThaw (s : State) : State := (s.control.stops.filter (·.checkpoint)).foldl (fun s x => s.thaw x) s

/-- The image as it stands in the expanders (R328): LPDDR contents, with its poisoned units, from the second GiB on; the first GiB, whose
layout the manual does not give, holds free bytes, and what they stand for is kept as parts of the state (DESIGN CHOICE, log 37). -/
def State.ckCopy (s : State) : State :=
  let base := s.ckDest + 2 ^ 30
  let size := 0x30000000000
  let low := s.store.mem.filter (·.1 < size)
  let rest := s.store.mem.filter (fun x => !(base ≤ x.1 && x.1 < base + size))
  let mem := rest.filter (·.1 < base) ++ low.map (fun x => (x.1 + base, x.2)) ++ rest.filter (fun x => base + size ≤ x.1)
  let bad := (s.store.poison.filter (fun u => 64 * u < size)).map (· + base / 64)
  let (k, s1) := s.fresh
  { s1 with store := { s1.store with
    mem := Mem.write mem s.ckDest ((List.range (2 ^ 30)).map (Config.imageByte k))
    poison := s.store.poison.filter (fun u => !(s.ckDest ≤ 64 * u && 64 * u < base + size)) ++ bad } }

/-- The parts of the state that an image holds. -/
def State.imageOf (s : State) : Checkpoint :=
  { dest := s.ckDest, clock := s.clock, store := { s.store with mem := [] }, work := s.work, engines := s.engines, media := s.media, valid := true }

/-- May the image be written: every stop is complete, and the copies in progress have finished or are parked? -/
def State.ckReady (s : State) : Bool := s.ckBusy && s.control.stops.all (·.complete) && !(s.engines.copies.any (fun c => c.started && c.fid.isNone))

/-- The device resumes after a checkpoint: CKS and CKMS, the clusters unless HALT was written, and the held writes. -/
def State.ckResume (s : State) (ms cks : Nat) : State :=
  let s1 := s.setCk false ms cks
  let s2 := if s1.control.checkpointStay then s1
    else { s1 with control := { s1.control with checkpointHalt := false } }.ckThaw
  { s2 with agenda := s2.control.heldWrites.map (fun i => .event i) ++ s2.agenda, control := { s2.control with heldWrites := [], checkpointStay := false } }

/-- CHECKPOINT_COMPLETE (R328): the image is written and valid after so many ms, or a port error ended it. -/
def execCheckpointComplete (ms : Nat) (portError : Bool) (s : State) : Host.Outcome State Fault Refusal :=
  .next (
    if !s.ckReady then s
    else if portError then
      ({ s with control := { s.control with image := s.control.image.map (fun x => { x with valid := false }) } } : State).ckResume ms 4
    else
      let s1 := s.ckCopy
      ({ s1 with control := { s1.control with image := some ((s1.setCk false ms 0).ckThaw.imageOf) } } : State).ckResume ms 0)

/-- Memory that a restore leaves as it is: expanders and RDMA windows. -/
def Mem.outside (m : Mem) : Mem := m.filter (fun x => 0x30000000000 ≤ x.1)

/-- LPDDR contents that an image at a base holds: its 3,072 GiB after the first GiB (R328). -/
def Mem.imaged (m : Mem) (dest : Nat) : Mem :=
  (m.filter (fun x => dest + 2 ^ 30 ≤ x.1 && x.1 < dest + 2 ^ 30 + 0x30000000000)).map (fun x => (x.1 - (dest + 2 ^ 30), x.2))

/-- CHECKPOINT_RESTORE (R328): firmware restores a valid image at bring-up, before a launch is admitted: LPDDR from the image's bytes, and the
state its first GiB holds. What the part itself fixes stands: its capability words and its address-space table. -/
def execCheckpointRestore (s : State) : Host.Outcome State Fault Refusal :=
  .next (match s.control.image with
  | some x =>
    if !x.valid || s.control.fw.phase != 7 || !s.work.launches.isEmpty || s.dreg (regLq + 8) % 2 ^ 32 != 0 then s
    else
      let fixed := [regCle, regCap, regAstb] ++ (List.range 64).map regCores
      let low := (s.store.poison.filter (fun u => x.dest + 2 ^ 30 ≤ 64 * u && 64 * u < x.dest + 2 ^ 30 + 0x30000000000)).map (· - (x.dest + 2 ^ 30) / 64)
      let st := { x.store with mem := s.store.mem.imaged x.dest ++ s.store.mem.outside
                               poison := low ++ x.store.poison.filter (2 ^ 50 ≤ ·) ++
                                 s.store.poison.filter (fun u => 0x30000000000 ≤ 64 * u && u < 2 ^ 50) }
      let s1 := { s with clock := x.clock, store := st, work := x.work, engines := x.engines, media := x.media }
      fixed.foldl (fun t a => t.setDreg a (s.dreg a)) s1
  | none => s)

/-- Is an event a host write, which a checkpoint holds (R328)? -/
def hostWrite : Instr → Bool
  | .hostRdmaAccess w pa _ _ => w && !(regCk ≤ pa.toNat && pa.toNat < regCk + 8)
  | .launchQueueWrite _ | .faultAnswerRetry _ | .faultAnswerFail _ | .faultBufferConfig _ | .planEnable _ _ | .planDisable _ | .bsrdWrite _ _
  | .ringDescriptorWrite _ _ _ | .holdRequest _ _ _ _ | .restoreGo _ | .trailEnable _ _ | .thaw _ | .dump _ | .debugStep _ | .freezeRequest _ _
  | .clusterStopTrigger _ _ _ => true
  | _ => false

/-- Hold a host write that comes during a checkpoint; none when the event takes place now. -/
def State.hostHeld (s : State) (i : Instr) : Option State :=
  if s.ckBusy && hostWrite i then some { s with control := { s.control with heldWrites := s.control.heldWrites ++ [i] } } else none

/-! ## Bring-up, identity (R330, R331) -/

/-- The capability words of a configuration: an OL9-S (1) has no CXL port and no persistent tier, an OL9-C (2) no media partition, serialiser or
encoder; reserved bits and SERVICE_REQUEST are zero (R1, R321). -/
def bootCaps (b : BootFound) : Nat × Nat :=
  let part := bits b.cap3.toNat 31 28
  let c2 := b.cap2.toNat / 2 ^ 8 * 2 ^ 8
  (if part == 1 then setBits (setBits c2 20 13 0) 8 8 0 else if part == 2 then setBits c2 31 21 0 else c2, bits b.cap3.toNat 31 20 * 2 ^ 20)

/-- The lowest n set bits of a word. -/
def lowBits (n v : Nat) : Nat := (((List.range 64).filter (bit v)).take n).foldl (fun x p => x + 2 ^ p) 0

/-- The clusters of a configuration that bring-up enables: at most 48 of an OL9-S, whose others are its spares (R1, R329). -/
def bootClusters (b : BootFound) : Nat := if bits b.cap3.toNat 31 28 == 1 then lowBits 48 b.cle.toNat else b.cle.toNat

/-- BRING_UP (R331): the boot ROM verifies the image and firmware brings the device up, or it stays in recovery. In recovery the image
is the one uploaded. System software pins its carve-outs with it: the manual gives no other step for that (DESIGN CHOICE, log 61). -/
def execBringUp (b : BootFound) (s : State) : Host.Outcome State Fault Refusal :=
  .next (
    let fw := s.control.fw
    if (fw.phase == 7 && !fw.powerOff) || 2 < bits b.cap3.toNat 31 28 then s
    else
      let img := if fw.recovery then fw.image else some b.image
      match img with
      | none => s
      | some m =>
        if !m.signatureVerifies || m.version < Config.fuseVersion then s.modFw (fun f => { f with recovery := true, image := none, powerOff := false })
        else if !b.sramTestOk then s.modFw (fun f => { f with recovery := false, image := some m, phase := 2, powerOff := false })
        else
          let spare := bits b.cap3.toNat 31 28 == 1
          let cle := bootClusters b
          let (k, s0) := s.fresh
          let s1 := s0.modFw (fun f =>
            { f with phase := 7, recovery := false, image := some m, powerOff := false, report := []
                     measurements := (List.range 8).map (fun i => Config.measurement (8 * k + i) m.digest)
                     spares := if spare then (List.range 64).filter (fun p => !(bit cle p) && !(f.retired.any (·.1 == p))) else [] })
          let s2 := (List.range 64).foldl (fun s p => if bit cle p then s.setDreg (regCores p) b.cores.toNat else s) s1
          let s3 := { s2 with store := { s2.store with carveouts := b.carveouts } }
          ((s3.setDreg regCle cle).setDreg regCap ((bootCaps b).2 * 2 ^ 32 + (bootCaps b).1)).setDreg regAstb (bits b.astb.toNat 51 12 * 4096))

/-- Pieces of 32 bytes in an LMS signature with the parameter sets of R330: 2,668 bytes. -/
def signaturePieces : Nat := 84

/-- ATTESTATION_REQUEST (R330): measurements, nonce, CAP0 to CAP3 and identity, signed; refused once the key's counter is exhausted. -/
def execAttestationRequest (nonce : BitVec 256) (s : State) : Host.Outcome State Fault Refusal :=
  .next (
    let fw := s.control.fw
    if fw.phase != 7 then s
    else if Config.attestationLimit ≤ fw.attested then s.modFw (fun f => { f with report := [] })
    else
      let caps : BitVec 256 := BitVec.ofNat 256 (s.dreg regCap * 2 ^ 64 + s.dreg regCle)
      let (k, s1) := s.fresh
      s1.modFw (fun f =>
        { f with attested := f.attested + 1
                 report := f.measurements ++ [nonce, caps, Config.partIdentity] ++
                   (List.range signaturePieces).map (fun i => Config.lmsSignature (signaturePieces * k + i)) }))

/-- FIRMWARE_UPLOAD (R330): in recovery the Ethernet ports serve firmware upload, and nothing else. -/
def execFirmwareUpload (image : FwImage) (s : State) : Host.Outcome State Fault Refusal :=
  .next (if s.control.fw.recovery then s.modFw (fun f => { f with image := some image }) else s)

/-! ## Heat and power (R332), connections (R216) -/

/-- THERMAL_HOLD (R332): at 100 degrees non-STRIP issue is held, until the die falls to 95. -/
def execThermalHold (celsius : Nat) (s : State) : Host.Outcome State Fault Refusal :=
  .next (if 100 ≤ celsius then s.modFw (fun f => { f with thermalHold := true })
    else if celsius ≤ 95 then s.modFw (fun f => { f with thermalHold := false })
    else s)

/-- Power is removed: what is not persistent is lost (R328, R332). Host memory behind the RDMA windows is not the device's. -/
def State.powerDown (s : State) : State :=
  let keep (x : Host.Cell) : Bool := s.persistent x.1 || 0x4000000000000 ≤ x.1
  let f := s.control.fw
  let mem := s.store.mem.filter keep
  { State.reset with
    store := { Store.reset with mem := mem, poison := s.store.poison.filter (fun u => u < 2 ^ 50 && s.persistent (64 * u)) }
    control := { Control.reset with
      image := s.control.image
      fw := { Firmware.reset with powerOff := true, tripped := true, attested := f.attested, retired := f.retired, powerCap := f.powerCap } }
    agenda := s.agenda
    freeCtr := s.freeCtr }

/-- THERMAL_TRIP (R332): at 110 degrees power is removed and the trip is recorded. -/
def execThermalTrip (celsius : Nat) (s : State) : Host.Outcome State Fault Refusal := .next (if 110 ≤ celsius then s.powerDown else s)

/-- POWER_CAP_WRITE (R332): a cap of 600 to 1,800 W. -/
def execPowerCapWrite (watts : Nat) (s : State) : Host.Outcome State Fault Refusal :=
  .next (if 600 ≤ watts && watts ≤ 1800 then s.modFw (fun f => { f with powerCap := watts }) else s)

/-- RDMA_CONNECTION_SETUP (R216): a peer, and whether it negotiated chunk transfer. -/
def execRdmaConnectionSetup (peer : Nat) (chunks : Bool) (s : State) : Host.Outcome State Fault Refusal :=
  .next (s.modFw (fun f => { f with peers := f.peers.filter (·.1 != peer) ++ [(peer, chunks)] }))

end Sys2Proof.Machine
end

