-- ==== Sys2Proof/Machine/Regs.lean ====
section
/-! DEFINITION. The device registers as they are read and written, by their access codes, and the host's RDMA accesses (R5, R188, R220,
R240, R247, R252, R263, R272, R284, R302, R303, R306 to R308, R314, R319, R320, R327). -/

namespace Sys2Proof.Machine

/-! ## Reads -/

/-- The words of a pitch as registers show it (R220). -/
def State.pitchWord (s : State) (cluster n word : Nat) : Nat :=
  match s.pitch? cluster n with
  | none => 0
  | some p =>
    match word with
    | 0 => 2 ^ 63 + p.cls * 2 ^ 61 + p.pri * 2 ^ 59 + (p.units32 - 1) * 2 ^ 48 + p.slot * 2 ^ 42 + p.role * 2 ^ 40 + p.base * 2 ^ 30 +
        p.queue.length * 2 ^ 23 + b2n p.gram.isSome * 2 ^ 22 + p.lid
    | 1 => match p.err with | some e => e.cause.code * 2 ^ 56 + e.tval.toNat | none => 0
    | 2 => match p.err with | some e => e.vaddr.toNat % 2 ^ 57 | none => 0
    | _ => 0

/-- READ a device register (R5): a write-only field reads as zero. -/
def State.regRead (s : State) (r : DevReg) : Nat :=
  match r with
  | .fixed a => s.dreg a
  | .dtcn => s.dtcNs % 2 ^ 64
  | .dtcfr => s.dtc96 % 2 ^ 32
  | .adj => s.clock.adj.toNat
  | .stepv | .answer | .ckGo => 0
  | .stref => b2n s.clock.stref
  | .lqb => s.dreg regLq
  | .lqt => s.dreg (regLq + 8)
  | .lqerr => s.dreg (regLq + 16)
  | .fb => s.dreg regFb
  | .fbr => s.dreg (regFb + 8)
  | .cmapb => s.dreg regCmapb
  | .ckDest => s.dreg (regCk + 8)
  | .ckStat => s.dreg (regCk + 16)
  | .tile a _ => s.dreg a
  | .pitch c n w => s.pitchWord c n w
  | .freeze c => s.dreg (regFreeze c)
  | .plan i o => if o == 0x38 then 0 else s.dreg (regPlan i + o)
  | .ring r w => s.dreg (regRing r + 8 * w)
  | .bin k w => if 2 ≤ w then 0 else s.dreg (regBin k + 8 * w)
  | .occl a => s.dreg a
  | .hold c k => setBits (s.dreg (regHold c k)) 1 1 (b2n (s.held c k))
  | .rimg c => s.dreg (regRestore c)
  | .rgo c => s.dreg (regRestore c + 8)
  | .rstat c => s.dreg (regRestore c + 16)
  | .debug p o => s.dbg p o

/-! ## Writes -/

/-- The host's answer to a fault (R161, R324). -/
def State.answer (s : State) (fid : Nat) (fail : Bool) : State :=
  match s.answered fid with
  | some f => if fail then (s.settleFault fid).failFault f else (s.settleFault fid).retryFault fid
  | none => s

/-- A write of the first debug register: SE, STOP and DUMP, which stays set until thaw (R5, R306, R310; DEDUCED, log 41). `src` is the source a stop
names. -/
def State.writeDebug0 (s : State) (p src w w1 mask : Nat) : State :=
  let s1 := s.setDbg p 0 (setBits (setBits (s.dbg p 0) 61 61 (w / 2 ^ 61)) 60 60 (b2n (bit (s.dbg p 0) 60 || bit w1 60)))
  let s2 := if !(bit mask 63) then s1
    else if bit w 63 then s1.triggerStop p src 0
    else match s1.stop? p with
      | some x => if x.complete then s1.askThaw x else s1
      | none => s1
  match s2.stop? p with
  | some x => if bit w1 60 && x.complete then s2.dump p else s2
  | none => s2

/-- A write of the step register: the thread's name, and GO, which stays set until SDONE and starts a step while STOPPED (R5, R306, R312; DEDUCED, log
41). -/
def State.writeDebug8 (s : State) (p w w1 : Nat) : State :=
  let s1 := s.setDbg p 8 (setBits (setBits (s.dbg p 8) 51 32 (bits w 51 32)) 63 63 (b2n (bit (s.dbg p 8) 63 || bit w1 63)))
  match s1.stop? p with
  | some x => if bit w1 63 && x.complete && x.stepping.isNone then s1.goStep p x else s1
  | none => s1

/-- A write of a register of a debug unit. -/
def State.writeDbgReg (s : State) (p o src w w1 mask : Nat) : State :=
  match o with
  | 0x00 => s.writeDebug0 p src w w1 mask
  | 0x08 => s.writeDebug8 p w w1
  | 0x10 => s.setDbg p o (setBits (setBits w 59 52 0) 11 0 0)
  | 0x18 => if w / 2 ^ 32 % 64 == 0 then s.setDbg p o (w / 2 ^ 32 * 2 ^ 32 + s.dbg p o % 2 ^ 32) else s
  | 0x20 => s.setDbg p o (w % 2 ^ 32)
  | 0x28 => s.setDbg p o (w / 2 ^ 58 * 2 ^ 58)
  | 0x30 => if bit mask 63 then s.writeTrail p w else s.setDbg p o (setBits (setBits w 55 52 0) 11 0 0)
  | 0x38 => if w / 2 ^ 32 % 16 == 0 then s.setDbg p o (w / 2 ^ 32 * 2 ^ 32 + s.dbg p o % 2 ^ 32) else s
  | _ =>
    if o < 0x180 then s.setDbg p o (if o % 16 == 8 then w / 2 ^ 48 * 2 ^ 48 else w)
    else if o < 0x240 then s.setDbg p o (setBits (setBits w 56 52 0) 2 0 0)
    else s.setDbg p o (setBits w 6 0 0)

/-- WRITE the bits of `mask` in a device register, by the access codes of its fields (R5). `machine` is a machine-level access; `src` is
what a cluster stop would name as its source. -/
def State.regWrite (s : State) (r : DevReg) (machine : Bool) (src : Nat) (v mask : Word64) : State :=
  let old : Word64 := BitVec.ofNat 64 (s.regRead r)
  let w := ((old &&& ~~~mask) ||| (v &&& mask)).toNat
  let w1 := (v &&& mask).toNat
  let low := bit mask.toNat 0
  let high := bit mask.toNat 32
  match r with
  | .fixed _ | .dtcn | .dtcfr | .pitch _ _ _ | .ckStat | .rstat _ => s
  | .adj => if machine && low then s.writeAdj (BitVec.ofNat 32 w) else s
  | .stepv => if machine then s.writeStepv (BitVec.ofNat 64 w1) else s
  | .stref => if machine && bit w1 0 then { s with clock := { s.clock with stref := false } } else s
  | .lqb => s.setDreg regLq (bits w 51 16 * 2 ^ 16)
  | .lqt => if high then s.writeLqt (w / 2 ^ 32) else s
  | .lqerr => if bit w1 0 then s.setDreg (regLq + 16) 0 else s
  | .fb => s.writeFaultBuffer w
  | .fbr => s.setDreg (regFb + 8) (w / 2 ^ 32 * 2 ^ 32 + s.dreg (regFb + 8) % 2 ^ 32)
  | .answer => if low then s.answer (w1 % 2 ^ 32) (bit w1 63) else s
  | .cmapb => s.setDreg regCmapb (bits w 51 12 * 4096)
  | .ckGo => if bit w1 0 then s.checkpointGo (bit w1 1) else s
  | .ckDest => s.setDreg (regCk + 8) (bits w 51 30 * 2 ^ 30)
  | .tile a hi => s.setDreg a (if hi then w else setBits w 51 48 0)
  | .freeze c => if low then s.writeFreeze c (bit w 0) else s
  | .plan i o =>
    match o with
    | 0 => s.writePlan i w
    | 8 => s.setDreg (regPlan i + 8) (w / 2 ^ 48 * 2 ^ 48 + s.dreg (regPlan i + 8) % 2 ^ 48)
    | 0x28 => if low then s.writeBsrd i (w % 2 ^ 32) else s
    | _ => s
  | .ring r k => s.ringDescWrite r k w
  | .bin k j =>
    match j with
    | 0 => s.setDreg (regBin k) (setBits (setBits w 62 62 (b2n (bit (s.dreg (regBin k)) 62 && !(bit w1 62)))) 61 57 0)
    | 1 => s.setDreg (regBin k + 8) (setBits (setBits w 47 37 0) 25 16 0)
    | _ => s
  | .occl a => s.setDreg a w
  | .hold c k => if low then s.writeHold c k (bit w 0) (bit w 2) else s
  | .rimg c => s.setDreg (regRestore c) (bits w 56 0)
  | .rgo c =>
    let s1 := s.setDreg (regRestore c + 8) (w / 2 ^ 48 * 2 ^ 48 + b2n (bit w1 0 || bit (s.dreg (regRestore c + 8)) 0))
    if bit w1 0 then s1.restore c else s1
  | .debug p o => s.writeDbgReg p o src w w1 mask.toNat

/-- Mask of an access of n bytes at an address within its register. -/
def regMask (pa n : Nat) : Word64 := if n == 8 then BitVec.allOnes 64 else if pa % 8 == 4 then 0xFFFFFFFF00000000 else 0xFFFFFFFF

/-- Read 4 or 8 bytes at an address of the register range; what no register stands at reads as zero (DESIGN CHOICE, log 39). -/
def State.devRead (s : State) (pa n : Nat) : Nat :=
  (devReg (pa / 8 * 8 - 0xF000000000000)).elim 0 (fun r => if n == 8 then s.regRead r else s.regRead r / 2 ^ (8 * (pa % 8)) % 2 ^ 32)

/-- Write 4 or 8 bytes at an address of the register range; where no register stands nothing happens (DESIGN CHOICE, log 39). -/
def State.devWrite (s : State) (pa n v : Nat) (machine : Bool) (src : Nat) : State :=
  (devReg (pa / 8 * 8 - 0xF000000000000)).elim s (fun r =>
    s.regWrite r machine src (BitVec.ofNat 64 (if n == 8 then v else v % 2 ^ 32 * 2 ^ (8 * (pa % 8)))) (regMask pa n))

/-! ## Events -/

/-- REGISTER_WRITE (R5): a 64-bit write at a privilege level; below supervisor level a register is read only. -/
def execRegisterWrite (pa : BitVec 52) (v : BitVec 64) (level : BitVec 2) (s : State) : Host.Outcome State Fault Refusal :=
  .next (if level == 0 || pa.toNat < 0xF000000000000 || pa.toNat % 8 != 0 then s else s.devWrite pa.toNat 8 v.toNat (2 ≤ level.toNat) 1)

/-- May the host reach an address with so many bytes (R319): memory, or a supervisor-level register? -/
def State.hostReaches (s : State) (pa n : Nat) : Bool :=
  match s.populated pa, s.populated (pa + n - 1) with
  | some 0, some 0 => true
  | some 1, some 1 => (n == 4 || n == 8) && pa % n == 0 &&
      (devReg (pa / 8 * 8 - 0xF000000000000)).elim false (fun r => !r.machine)
  | _, _ => false

/-- HOST_RDMA_ACCESS (R319): a read or write of at most 16 bytes. One that breaks protection gets an error response and a kind 14 record.
In recovery the Ethernet ports do not serve it (R330). A write has its place in the trail log of its home's cluster (R316). -/
def execHostRdmaAccess (write : Bool) (pa : BitVec 52) (size : Nat) (data : BitVec 128) (s : State) : Host.Outcome State Fault Refusal :=
  .next (
    let a := pa.toNat
    let p := homeCluster a
    let w0 := trailWord 4 p 0 0 0 (6 * 2 ^ 30)
    if s.control.fw.recovery || s.control.fw.powerOff || size == 0 || 16 < size then s
    else if !(s.hostReaches a size) then s.deviceError 14 0 a 0 1
    else if s.populated a == some 1 then
      if !write then s
      else if !(s.trailOk p w0 false (some a)) then s
      else (s.trail p w0 a).devWrite a size data.toNat false 4
    else if !write then (s.watch agentHost none a size true false (fun _ => true)).2
    else if !(s.trailOk p w0 false (some a)) then s
    else (((s.trail p w0 a).memWrite 0 a (leBytes data.toNat size)).watch agentHost none a size false true (fun _ => true)).2)

end Sys2Proof.Machine
end

