-- ==== Sys2Proof/Machine/Mem.lean ====
section
/-! DEFINITION. Loads, stores, atomics, reductions, fences and cache control: one request for every access, how it is checked, when
it waits, and how it is performed (R47, R144 to R149, R157, R160 to R162, R165 to R181, R304, R308, R339 to R343, R361, R362, R379,
R388 to R392, R420, R430, R439). -/

namespace Sys2Proof.Machine

/-! ## Requests -/

/-- Kind of an access in the conflict records (R173). -/
def Outstanding.acc (o : Outstanding) : Acc :=
  match o.kind with
  | .store => .write
  | .red | .atomic => .atomic
  | _ => .read

/-- Does an access write (R157, R183)? -/
def Outstanding.writes (o : Outstanding) : Bool := o.kind == .store || o.kind == .red || o.kind == .atomic

/-- Synchronising at its scope (R165). -/
def Outstanding.sync (o : Outstanding) : Bool := o.ord != 0
def Outstanding.acquires (o : Outstanding) : Bool := o.ord.testBit 0
def Outstanding.releases (o : Outstanding) : Bool := o.ord.testBit 1

/-- Registers of the result. -/
def Outstanding.regs (o : Outstanding) : Nat := max 1 (o.bytes / 4)

/-- Address as a trap record gives it: virtual, or scratch offset and core role (R296). -/
def Outstanding.vaddr (o : Outstanding) : Word64 :=
  match o.peer with
  | some (role, off) => BitVec.ofNat 64 (off + role * 2 ^ 32)
  | none => BitVec.ofNat 64 o.va.toNat

/-- The request of a word for a thread. -/
def reqOf (c : Ctx) (s : State) (t : Thread) (o : MrOp) (kind : OutKind) (va : Nat) (peer : Option (Nat × Nat)) (data aop : Nat) : Outstanding :=
  { id := s.work.waitOrder, thread := t.name, lid := t.lid, asid := s.asidOf t.name, region := t.region, level := t.level, kind := kind
    va := BitVec.ofNat 57 va, bytes := 2 ^ o.width.toNat, pol := o.pol.toNat, ord := o.ord.toNat, scope := o.scope.toNat, dst := o.d
    sx := o.sx, aop := aop, data := BitVec.ofNat 256 data, pc := c.pc, word := c.word, fid := none, peer := peer }

/-- A word's request with its full 64-bit address. -/
abbrev ReqFn := Ctx → State → Thread → Nat × Outstanding

def reqLd (o : MrOp) : ReqFn := fun c s t =>
  let a := globalAddr c t o (mrOff o 24)
  (a, reqOf c s t o .load a none 0 0)

def reqSt (o : MrOp) : ReqFn := fun c s t =>
  let a := globalAddr c t o (mrOff o 24)
  (a, reqOf c s t o .store a none (dataOf c t o.d (widthRegs o.width)) 0)

def reqLds (o : MrOp) : ReqFn := fun c s t =>
  let a := scratchAddr c t o (mrOff o 21)
  (a, reqOf c s t o .load 0 (some (mrRole s t o, a)) 0 0)

def reqSts (o : MrOp) : ReqFn := fun c s t =>
  let a := scratchAddr c t o (mrOff o 21)
  (a, reqOf c s t o .store 0 (some (mrRole s t o, a)) (dataOf c t o.d (widthRegs o.width)) 0)

/-- Registers of an atomic's operands (R340). -/
def atomRegs (aop : Nat) (o : MrOp) : Nat := (if o.width == 2 then 1 else 2) * (if aop == 9 then 2 else 1)

def reqAtom (o : MrOp) : ReqFn := fun c s t =>
  let a := globalAddr c t o (mrOff o 20)
  let aop := aopOf false o.off
  (a, reqOf c s t o .atomic a none (dataOf c t o.d (atomRegs aop o)) aop)

def reqAtoms (o : MrOp) : ReqFn := fun c s t =>
  let a := scratchAddr c t o (mrOff o 17)
  let aop := aopOf true o.off
  (a, reqOf c s t o .atomic 0 (some (mrRole s t o, a)) (dataOf c t o.d (atomRegs aop o)) aop)

def reqRed (o : MrOp) : ReqFn := fun c s t =>
  let a := globalAddr c t o (mrOff o 20)
  let aop := aopOf false o.off
  (a, reqOf c s t o .red a none (dataOf c t o.d (atomRegs aop o)) aop)

/-- LDW names its channel and always its own scratch (R391). -/
def reqLdw (o : MrOp) : ReqFn := fun c s t =>
  let a := scratchAddr c t o (mrOff o 21)
  let role := match s.groupOf t.name with | some g => g.role | none => 0
  (a, { reqOf c s t o .load 0 (some (role, a)) 0 0 with lch := some (bits o.off.toNat 23 21) })

/-! ## The reduction ALU (R339, R340) -/

/-- New value of an atomic or reduction on w bits. -/
def atomNew (aop w old data : Nat) : Nat :=
  let v := data % 2 ^ w
  let f := if w == 32 then fp32 else fp64
  match aop with
  | 0 => (old + v) % 2 ^ w
  | 1 => if sext w v < sext w old then v else old
  | 2 => min old v
  | 3 => if sext w old < sext w v then v else old
  | 4 => max old v
  | 5 => old &&& v
  | 6 => old ||| v
  | 7 => old ^^^ v
  | 8 => v
  | 9 => if old == v then data / 2 ^ w % 2 ^ w else old
  | 10 => if v ≤ old then 0 else old + 1
  | 11 => if old == 0 || v < old then v else old - 1
  | 12 => (fpArith f ctlRn [old, v] (fun l => match l with | [a, b] => a.add .rne b | _ => .nan false)).1
  | 13 => (fpPick f ctlRn false true old v).1
  | _ => (fpPick f ctlRn true true old v).1

/-! ## Where a scratch access goes (R145) -/

/-- What a scratch access finds at its core role. -/
inductive Reach where
  | ok (core a : Nat)
  | wait
  | trap (t : TrapInfo)

/-- The allocation a scratch access reaches, checked against its size (R144, R145). -/
def State.reach (s : State) (o : Outstanding) : Reach :=
  match o.peer, s.groupOf o.thread, s.launch? o.lid with
  | some (role, off), some g, some l =>
    let bad (r : Nat) : Reach := .trap { protOf r with vaddr := o.vaddr }
    match s.peerOf l g role with
    | .unbound => bad 8
    | .gone => bad 9
    | .pending => .wait
    | .run h =>
      if h.exiting && role != g.role then bad 9
      else if h.size < off + o.bytes then bad 4
      else .ok h.core (h.base + off)
  | _, _, _ => .trap { protOf 8 with vaddr := o.vaddr }

/-- Channel of the STREAM buffer that scratchpad bytes lie in, with the offset its delivery has reached (R391, R392). -/
def State.streamAt (s : State) (core a n : Nat) : Option Nat :=
  s.engines.tiles.findSome? (fun t => t.bufs.findSome? (fun b =>
    if b.owner == .stream && b.core == core && overlap a n b.lo b.size then
      some (bits (s.dreg (regTile (clusterOf core) t.handle)) 54 52) else none))

/-- Must an LDW wait for its bytes (R392)? -/
def State.ldwWaits (s : State) (o : Outstanding) (core a : Nat) : Bool :=
  match o.lch, o.peer with
  | some ch, some (_, off) => (s.streamAt core a o.bytes).isSome && s.wptr o.thread ch < off + o.bytes
  | _, _ => false

/-! ## Order within a thread (R147, R162, R170, R172) -/

/-- Do an earlier access and a later one of the same thread touch common bytes? Accesses to one location, reads among them, are performed in
program order (R147). A SAMP is taken to read anything (DEDUCED, log 62), and common bytes are told by virtual and, where known, physical address. -/
def clash (e o : Outstanding) : Bool :=
  match e.peer, o.peer with
  | some (r, a), some (q, b) => r == q && overlap a e.bytes b o.bytes && (e.lch.isNone || o.writes)
  | none, none =>
    e.kind == .sample || o.kind == .sample || overlap e.va.toNat e.bytes o.va.toNat o.bytes ||
      (match e.tr, o.tr with | some x, some y => overlap x.1 e.bytes y.1 o.bytes | _, _ => false)
  | _, _ => false

/-- Is an access one to a page of device registers, or one that may turn out to be (R157)? -/
def Outstanding.device (o : Outstanding) : Bool :=
  o.peer.isNone && (o.kind == .load || o.kind == .store || o.kind == .red || o.kind == .atomic) &&
  (match o.tr with | some (_, leaf) => bits leaf 57 56 == 1 | none => true)

/-- Is an access one that the conflict records may hold: on scratch, or translated to a CHECKED page (R174)? -/
def Outstanding.checked (o : Outstanding) : Bool :=
  o.peer.isSome || (match o.tr with | some (_, leaf) => bit leaf 61 | none => false)

/-- Is an access parked, stalled, waiting for a member to start, or still to be checked, so that the thread's region stays open for it
(R161, R162, R166)? An LDW belongs to the region in which it issued. -/
def Outstanding.unsettled (o : Outstanding) : Bool :=
  o.fid.isSome || o.stall.isSome || (o.lch.isNone && o.checked) || (o.peer.isNone && o.tr.isNone)

/-- Must a later access of a thread wait for an earlier one: common bytes; an acquire before it; a release after anything; synchronising
accesses in program order, and not past what the region stays open for; device registers in program order (R147, R157, R161, R162,
R170, R172)? -/
def holds (e o : Outstanding) : Bool :=
  clash e o || e.acquires || o.releases || (e.sync && (o.sync || o.checked)) || (o.sync && e.unsettled) ||
  ((match o.tr with | some (_, leaf) => bits leaf 57 56 == 1 | none => false) && e.device)

/-- Must an access of a word wait for that of a lower thread of the pack: common bytes, which one of them writes (R178)? -/
def follows (e o : Outstanding) : Bool :=
  e.batch == o.batch && (e.writes || o.writes) &&
  (match e.peer, o.peer, e.tr, o.tr with
  | some (r, a), some (q, b), _, _ => r == q && overlap a e.bytes b o.bytes
  | none, none, some x, some y => overlap x.1 e.bytes y.1 o.bytes
  | _, _, _, _ => false)

/-- Must an access wait for an earlier one, of its thread or of a lower thread of its pack at the same word? -/
def State.behind (s : State) (o : Outstanding) : Bool :=
  (s.outOf o.thread).any (fun e => e.id < o.id && holds e o) ||
  (o.batch != 0 && s.store.outst.any (fun e => e.id < o.id && e.thread != o.thread && follows e o))

/-- Must a synchronising word wait at its word: the thread's open region has an access that is parked or still to be checked (R161, R162)? -/
def State.openAccess (s : State) (n : ThreadName) : Bool := (s.outOf n).any (·.unsettled)

/-- Must a FENCE wait: for every access when it releases, for the reads before it when it acquires, and for what the region stays open for and
for synchronising accesses (R162, R166, R170 to R172)? -/
def State.syncWaits (s : State) (n : ThreadName) (acquire release : Bool) : Bool :=
  (s.outOf n).any (fun e => release || e.unsettled || e.sync || (acquire && (e.kind == .load || e.kind == .atomic || e.kind == .sample)))

/-! ## Performing an access -/

/-- What performing an access comes to. -/
inductive Perf where
  /-- Performed; the watchpoints it fires on its thread. -/
  | ok (s : State) (fired : List Nat)
  | trap (s : State) (info : TrapInfo)
  /-- A detection stall on a granule, with its cause (R179). -/
  | stall (g : Nat) (scratch : Option Nat) (why : Nat)

/-- Extended value of a load (R388). -/
def Outstanding.extend (o : Outstanding) (x : Nat) : Nat :=
  if o.sx && o.bytes < 4 then wrapInt 32 (sext (8 * o.bytes) x) else x

/-- Write a result to the thread's registers; an exited thread has none. -/
def State.writeResult (s : State) (o : Outstanding) (x : Nat) : State :=
  s.modThread o.thread (fun t => if t.st == .exited then t else t.setRegs o.dst.toNat (cutRegs x o.regs))

/-- The region of an access as it is checked: the thread's open one, or of an LDW the one in which it issued (R161, R166). -/
def State.regionFor (s : State) (o : Outstanding) : Word32 :=
  match s.thread? o.thread with
  | some t => if o.lch.isSome && o.region.toNat < t.region.toNat then o.region else t.region
  | none => o.region

/-- The conflict check of an access, for a plain access at program level (R173, R177, R181). -/
def State.conflictCheck (s : State) (o : Outstanding) (scratch : Option Nat) (a : Nat) : ConAll :=
  if o.level == 0 && !o.sync then s.checkGranules o.thread (s.regionFor o) o.acc scratch (granules a o.bytes) else .ok s

/-- ECC_UNCORR of an access; a write that is not performed is logged too (R304). -/
def State.eccTrap (s : State) (o : Outstanding) (pa unit : Nat) : Perf :=
  let s1 := if o.kind == .store || o.kind == .red then s.logError o.lid Cause.eccUncorr.code unit else s
  .trap s1 { trapOf .eccUncorr 0 with vaddr := o.vaddr, paddr := pa }

/-- The SCRATCH entry of an atomic or a synchronising access (R316). -/
def scratchEntry (o : Outstanding) (core a : Nat) : Option Entry :=
  let n := o.thread
  let k (x : Nat) : Option Entry := some (clusterOf core, trailWord 3 (clusterOf n.core) n.core n.slot n.wti (x * 2 ^ 30), some a)
  if o.kind == .atomic then k 0 else if o.sync then k 1 else none

/-- Log an operation that has an entry. -/
def State.trailFor (s : State) (e : Option Entry) (v : Nat) : State :=
  match e with | some (p, w0, _) => s.trail p w0 v | none => s

/-- May an operation proceed that may have an entry (R317, R318)? -/
def State.entryOk (s : State) (e : Option Entry) (strip : Bool) : Bool :=
  match e with | some (p, w0, w1) => s.trailOk p w0 strip w1 | none => true

/-- PERFORM a scratch access (R170, R178, R183, R304, R308, R341). -/
def State.performScratch (s : State) (o : Outstanding) (core a : Nat) : Perf :=
  match s.ownerCheck core a o.bytes o.writes with
  | some info => .trap s { info with vaddr := o.vaddr }
  | none =>
  match s.conflictCheck o (some core) a with
  | .conflict g e => .trap s (s.conflictTrap o.acc o.vaddr g 0 e)
  | .stall g why => .stall g (some core) why
  | .ok s1 =>
    if s1.scratchPoisoned core a o.bytes then s1.eccTrap o 0 (a / 64 * 64)
    else
      let n := o.thread
      let s1 := s1.trailFor (scratchEntry o core a) a
      let s1 := if o.releases then s1.release n.core o.scope else s1
      let old := s1.scratchVal core a o.bytes
      let s2 := match o.kind with
        | .store => s1.scratchStore o.lid core a (leBytes o.data.toNat o.bytes)
        | .atomic => (s1.scratchStore o.lid core a (leBytes (atomNew o.aop (8 * o.bytes) old o.data.toNat) o.bytes)).writeResult o old
        | _ => s1.writeResult o (o.extend old)
      let r := s2.watch (agentThread n) (some core) a o.bytes (!(o.kind == .store)) o.writes (fun _ => true)
      .ok (if o.acquires then r.2.acquire n.core o.scope else r.2) r.1

/-- The HOME entry of a synchronising access, an atomic or a reduction (R316). -/
def homeEntry (o : Outstanding) (pa : Nat) : Option Entry :=
  let k (x : Nat) : Option Entry := some (homeCluster pa, homeWord o.thread x, some (pa / 16 * 16))
  match o.kind with
  | .atomic => k 1
  | .red => k 2
  | _ => if o.sync then k 0 else none

/-- Is an access performed in the core's L1: PRIV, on an unchecked page and in no carve-out, and no atomic or reduction (R146, R148 to R150)? -/
def State.inL1 (s : State) (o : Outstanding) (pa leaf : Nat) : Bool :=
  o.pol == 0 && !(s.toHome pa leaf) && (o.kind == .load || o.kind == .store)

/-- PERFORM an access to device registers, uncached (R157). -/
def State.performDevice (s : State) (o : Outstanding) (pa : Nat) : State :=
  if o.writes then s.devWrite pa o.bytes o.data.toNat (o.level == 2) 1
  else s.writeResult o (o.extend (s.devRead pa o.bytes))

/-- The access itself, in L1 or at the home. -/
def State.performData (s : State) (o : Outstanding) (pa leaf : Nat) : State :=
  let core := o.thread.core
  let line : LineStore := { thread := o.thread, lid := o.lid, region := o.region, va := o.va, bytes := o.bytes, data := BitVec.ofNat 128 o.data.toNat, order := o.id }
  match o.kind with
  | .store =>
    let b := leBytes o.data.toNat o.bytes
    if s.inL1 o pa leaf then s.privWrite core pa b [line] else s.homeWrite core pa b o.lid
  | .red | .atomic =>
    let (b, s1) := s.homeRead core pa o.bytes
    let s2 := s1.homeWrite core pa (leBytes (atomNew o.aop (8 * o.bytes) (leVal b) o.data.toNat) o.bytes) o.lid
    if o.kind == .atomic then s2.writeResult o (leVal b) else s2
  | _ =>
    let (b, s1) := if s.inL1 o pa leaf then s.privRead core pa o.bytes else s.homeRead core pa o.bytes
    s1.writeResult o (o.extend (leVal b))

/-- Is the unit an access reads or writes in part poisoned? A line the core holds is read without its home (R304). -/
def State.accessPoisoned (s : State) (o : Outstanding) (pa leaf : Nat) : Bool :=
  s.poisoned pa o.bytes && !(s.inL1 o pa leaf && s.lineHeld o.thread.core pa)

/-- Has a thread ended? What it stores from then on is released at once, as its end is a release (R165, R170). -/
def State.ended (s : State) (n : ThreadName) : Bool := match s.thread? n with | some t => t.st == .exited | none => true

/-- PERFORM a global access that was translated (R146 to R149, R157, R170, R177, R304, R308, R341, R420). -/
def State.performMem (s : State) (o : Outstanding) (pa leaf : Nat) : Perf :=
  if bits leaf 57 56 == 1 then
    let s1 := if o.releases then s.release o.thread.core o.scope else s
    let s2 := s1.performDevice o pa
    .ok (if o.acquires then s2.acquire o.thread.core o.scope else s2) []
  else
  match (if bit leaf 61 then s.conflictCheck o none pa else .ok s) with
  | .conflict g e => .trap s (s.conflictTrap o.acc o.vaddr g (16 * g) e)
  | .stall g why => .stall g none why
  | .ok s1 =>
    if s1.accessPoisoned o pa leaf then s1.eccTrap o pa (pa / 64 * 64)
    else
      let s1 := s1.trailFor (homeEntry o pa) (pa / 16 * 16)
      let core := o.thread.core
      let s2 := if o.releases then s1.release core o.scope else s1
      let s3 := s2.performData o pa leaf
      let l1 := s.inL1 o pa leaf
      let r := s3.watch { agentThread o.thread with l1 := if l1 then some core else none } none pa o.bytes (!(o.kind == .store)) o.writes
        (fun p => !l1 || p == clusterOf core)
      let s4 := if o.releases then r.2.release core o.scope else r.2
      let s5 := if o.writes && s.ended o.thread then s4.release core 5 else s4
      .ok (if o.acquires then s5.acquire core o.scope else s5) r.1

/-! ## At the word -/

/-- Where an access is performed. -/
inductive Spot where
  | mem (pa leaf : Nat)
  | scr (core a : Nat)

/-- What becomes of a thread's access at its word. -/
inductive Plan? where
  | trap (info : TrapInfo)
  /-- Parked on a replayable fault at a level (R161). -/
  | park (level : Nat)
  /-- Outstanding, with the translation of a global access. -/
  | out (tr : Option (Nat × Nat))
  /-- Performed before the word retires. -/
  | now (x : Spot)

/-- The checks at the word, and where the access goes (R342, R389, R391, R430). Global accesses that are neither checked, synchronising,
atomic nor of device registers are performed after the word (R47). -/
def State.plan (s : State) (addr : Nat) (o : Outstanding) : Plan? :=
  if addr % o.bytes != 0 then .trap { trapOf .misalign (addr % 2 ^ 32) with vaddr := if o.peer.isSome then o.vaddr else BitVec.ofNat 64 addr }
  else if o.peer.isSome then
    match s.reach o with
    | .trap info => .trap info
    | .wait => .out none
    | .ok core a =>
      match o.lch, s.streamAt core a o.bytes with
      | some ch, some chn =>
        if ch != chn then .trap { protOf 17 with vaddr := o.vaddr }
        else if s.ldwWaits o core a then .out none else .now (.scr core a)
      | _, _ => .now (.scr core a)
  else if 2 ^ 57 ≤ addr then .trap { protOf 5 with vaddr := BitVec.ofNat 64 addr }
  else
    match s.xlat (.core o.thread.core) o.asid addr o.level { write := o.writes, thread := true, bytes := o.bytes } with
    | .park l => .park l
    | .trap info => .trap info
    | .ok pa leaf =>
      let mt := bits leaf 57 56 == 1
      if mt && (o.kind == .atomic || o.kind == .red) then .trap { protOf 7 with vaddr := BitVec.ofNat 64 addr }
      else if mt || bit leaf 61 || o.sync || o.kind == .atomic then .now (.mem pa leaf)
      else .out (some (pa, leaf))

/-- Size of the page through which an access was translated (R432). -/
def State.pageOf (s : State) (o : Outstanding) (tr : Option (Nat × Nat)) : Nat :=
  match tr, s.translate (.core o.thread.core) o.asid o.va.toNat with
  | some _, .found x => x.size
  | _, _ => 0

/-- Fault kind of an access (R324). -/
def Outstanding.faultKind (o : Outstanding) : Nat := if o.kind == .store then 1 else if o.writes then 3 else 0

/-- Put an access among the outstanding ones. -/
def State.putOut (s : State) (o : Outstanding) : State :=
  let (k, s1) := s.nextOrder
  { s1 with store := { s1.store with outst := s1.store.outst ++ [{ o with id := k }] } }

/-- Is there room for the access in the counts of R47, and may a synchronising one close the region (R162)? -/
def memNeed (req : ReqFn) : Ctx → State → Thread → Bool := fun c s t =>
  let o := (req c s t).2
  (o.kind == .store || o.kind == .red || s.loadsOut t.name < 63) && (o.kind == .load || s.storesOut t.name < 63) &&
  !(o.sync && s.openAccess t.name)

/-- What becomes of an access at its word, with the accesses it must follow (R147, R162, R170, R172, R178). A plain access that finds a poisoned
unit has its outcome at the word (R293, R304). -/
def State.planned (s : State) (addr : Nat) (o : Outstanding) : Plan? :=
  match s.plan addr o with
  | .now (.mem pa leaf) => if s.behind { o with tr := some (pa, leaf) } then .out (some (pa, leaf)) else .now (.mem pa leaf)
  | .now (.scr core a) => if s.behind o then .out none else .now (.scr core a)
  | .out (some (pa, leaf)) =>
    if s.accessPoisoned o pa leaf && !(s.behind { o with tr := some (pa, leaf) }) then .now (.mem pa leaf) else .out (some (pa, leaf))
  | x => x

/-- The trail entry of an access performed at its word. -/
def memEntry (req : ReqFn) : Ctx → State → Thread → Option Entry := fun c s t =>
  let (addr, o0) := req c s t
  let o := { o0 with batch := s.work.waitOrder + 1 }
  match s.planned addr o with
  | .now (.mem pa leaf) => if bits leaf 57 56 == 1 then none else homeEntry o pa
  | .now (.scr core a) => scratchEntry o core a
  | _ => none

/-- A synchronising access closes its thread's region as its word retires (R12, R165, R166). -/
def State.closeIf (s : State) (o : Outstanding) : State := if o.sync then s.closeRegion o.thread else s

/-- One thread's access at its word (R160, R161, R178, R179); `batch` marks the accesses of the word: the place in their order
at which it began, plus one. -/
def memThread (req : ReqFn) (batch : Nat) : Ctx → State → Thread → TRes := fun c s t =>
  let (addr, o0) := req c s t
  let o := { o0 with batch := batch }
  let (_, sk) := s.nextOrder
  let out (s : State) (o : Outstanding) : TRes := .ok ((s.putOut o).closeIf o)
  let finish (x : Perf) : TRes := match x with
    | .ok s1 fired => .ok (s1.closeIf o) .next (watchCause fired)
    | .trap s1 info => .trap s1 info
    | .stall g scratch why => .leave s (.stall g scratch why o.acc o.vaddr)
  let seen (s : State) : State := s.walkSeen (.core t.name.core) o.asid addr
  match s.planned addr o with
  | .trap info => .trap s info
  | .park l =>
    let (fid, s1) := (seen s).parkFault o.asid o.faultKind l addr
    out s1 { o with fid := some fid }
  | .out none => out s o
  | .out tr => out (seen s) { o with tr := tr, page := s.pageOf o tr }
  | .now (.mem pa leaf) => finish ((seen sk).performMem o pa leaf)
  | .now (.scr core a) => finish (sk.performScratch o core a)

/-- A word that accesses memory: thread by thread in ascending index (R178). -/
def memBody (req : ReqFn) : BodyFn := gated (memEntry req) (fun c s => eachThread (memNeed req) (memThread req (s.work.waitOrder + 1)) (fun _ s _ => s) c s)

/-- LD (R388). -/
def bodyLd (o : MrOp) : BodyFn := memBody (reqLd o)
/-- ST (R430). -/
def bodySt (o : MrOp) : BodyFn := memBody (reqSt o)
/-- LDS (R388). -/
def bodyLds (o : MrOp) : BodyFn := memBody (reqLds o)
/-- STS (R430). -/
def bodySts (o : MrOp) : BodyFn := memBody (reqSts o)
/-- ATOM (R339). -/
def bodyAtom (o : MrOp) : BodyFn := memBody (reqAtom o)
/-- ATOMS (R339). -/
def bodyAtoms (o : MrOp) : BodyFn := memBody (reqAtoms o)
/-- RED (R420). -/
def bodyRed (o : MrOp) : BodyFn := memBody (reqRed o)
/-- LDW (R391). -/
def bodyLdw (o : MrOp) : BodyFn := memBody (reqLdw o)

/-! ## FENCE (R379), WSET (R439) -/

/-- FENCE (R379): it retires when its release part is performed. -/
def bodyFence (o : MrOp) : BodyFn := eachThread
  (fun _ s t => !(s.syncWaits t.name (o.ord.getLsbD 0) (o.ord.getLsbD 1)))
  (fun _ s t =>
    let core := t.name.core
    let s1 := if o.ord.getLsbD 1 then s.release core o.scope.toNat else s
    let s2 := s1.closeRegion t.name
    .ok (if o.ord.getLsbD 0 then s2.acquire core o.scope.toNat else s2))

/-- WSET (R439): the lowest active thread writes. -/
def bodyWset (o : MrOp) : BodyFn := fun c s =>
  let lowest := (c.actives s).head?
  eachThread noNeed (fun c s t =>
    if some t.name != lowest then .ok s
    else
      let n := bits o.off.toNat 4 0
      let v := cutRegs (dataOf c t o.d (widthRegs o.width)) (widthRegs o.width)
      let put (l : List Word32) : List Word32 := (v.zip (List.range v.length)).foldl (fun l x => setAt l (n + x.2) x.1) l
      .ok (s.modGroup t.name.core t.name.slot (fun g => { g with uniform := put g.uniform }))) (fun _ s _ => s) c s

/-! ## CCTL (R361, R362) -/

/-- Instruction invalidates of a core: the older values of the words of some lines are no longer fetched by it (R50). -/
def State.iinv (s : State) (core : Nat) (line : Nat → Bool) : State :=
  { s with store := { s.store with stale := s.store.stale.map (fun e =>
      if line (e.1 / 128) && !(e.2.2.contains core) then (e.1, e.2.1, e.2.2 ++ [core]) else e) } }

/-- A write-back of a core: one line, kept or dropped, or every line; or an instruction invalidate, or a fill. -/
def State.cacheOp (s : State) (core cop pa : Nat) : State :=
  match cop with
  | 0 =>
    match s.store.l1.find? (fun l => l.core == core && l.tag == pa / 128) with
    | some l => (s.writeBack l).putLine { l with dirty := 0, stores := [] }
    | none => s
  | 1 => s.evict core (fun l => l.tag == pa / 128)
  | 2 => s.iinv core (· == pa / 128)
  | 3 => s.cleanCore core
  | 4 => s.iinv core (fun _ => true)
  | _ => if s.poisoned (pa / 128 * 128) 128 then s else s.putLine (s.lineOf core (pa / 128))

/-- The request of a write-back: it follows the thread's stores to the line. -/
def reqCctl (o : MrOp) : ReqFn := fun c s t =>
  let cop := copOf o.off
  let a := globalAddr c t o (mrOff o 20)
  let q := reqOf c s t o .cctl (if cop == 3 then 0 else a / 128 * 128) none 0 cop
  (a, { q with bytes := if cop == 3 then 2 ^ 57 else 128 })

/-- Does a leaf's page hold cached lines (R361)? -/
def lineCached (leaf : Nat) : Bool := !(bit leaf 59) && bits leaf 57 56 == 0

/-- WB, WBINV and IINV at the word: reason 5, then the translation without its permission bits (R361). -/
def cctlLine (o : MrOp) : Ctx → State → Thread → TRes := fun c s t =>
  let (a, q) := reqCctl o c s t
  let core := t.name.core
  if 2 ^ 57 ≤ a then .trap s { protOf 5 with vaddr := BitVec.ofNat 64 a }
  else match s.translate (.core core) q.asid a with
  | .fatal r l => .trap s { trapOf .pageFatal (r + 256 * l) with vaddr := BitVec.ofNat 64 a }
  | .fault l =>
    if q.aop == 2 then .park q.asid 2 l a
    else
      let (fid, s1) := s.parkFault q.asid 1 l a
      .ok (s1.putOut { q with fid := some fid })
  | .found x =>
    let s := s.walkSeen (.core core) q.asid a
    let pa := x.pa + (a - x.va)
    let tr := some (pa / 128 * 128, x.leaf.toNat)
    if !(lineCached x.leaf.toNat) then .ok s
    else if q.aop != 2 && s.behind { q with tr := tr } then .ok (s.putOut { q with tr := tr, page := x.size })
    else .ok (s.cacheOp core q.aop pa)

/-- Room among the stores of R47. -/
def cctlNeed : Ctx → State → Thread → Bool := fun _ s t => s.storesOut t.name < 63

/-- CCTL.WB (R361). -/
def bodyCctlWb (o : MrOp) : BodyFn := eachThread cctlNeed (cctlLine o)
/-- CCTL.WBINV (R361). -/
def bodyCctlWbinv (o : MrOp) : BodyFn := eachThread cctlNeed (cctlLine o)
/-- CCTL.IINV (R361). -/
def bodyCctlIinv (o : MrOp) : BodyFn := eachThread noNeed (cctlLine o)

/-- CCTL.WBALL (R361). -/
def bodyCctlWball (o : MrOp) : BodyFn := eachThread cctlNeed (fun c s t =>
  let q := (reqCctl o c s t).2
  if s.behind q then .ok (s.putOut { q with tr := some (0, 0) }) else .ok (s.cacheOp t.name.core 3 0))

/-- CCTL.IINVALL (R361). -/
def bodyCctlIinvall (_ : MrOp) : BodyFn := eachThread noNeed (fun _ s t => .ok (s.cacheOp t.name.core 4 0))

/-- CCTL.PF (R361): a prefetch never faults; on a page without cached lines, and into L2, it shows nothing. -/
def bodyCctlPf (o : MrOp) : BodyFn := eachThread noNeed (fun c s t =>
  let (a, q) := reqCctl o c s t
  if 2 ^ 57 ≤ a || o.pol != 0 then .ok s
  else match s.translate (.core t.name.core) q.asid a with
  | .found x => if lineCached x.leaf.toNat && !(bit x.leaf.toNat 61) then .ok (s.cacheOp t.name.core 5 (x.pa + (a - x.va))) else .ok s
  | _ => .ok s)

/-! ## Outstanding accesses performed -/

/-- Replace or remove an outstanding access. -/
def State.dropOut (s : State) (k : Nat) : State := { s with store := { s.store with outst := s.store.outst.filter (·.id != k) } }

def State.modOut (s : State) (k : Nat) (f : Outstanding → Outstanding) : State :=
  { s with store := { s.store with outst := s.store.outst.map (fun (o : Outstanding) => if o.id == k then f o else o) } }

/-- An access performed after its word: it is over, its trap is taken at the thread's next instruction boundary, or it waits (R161). -/
def State.settleOut (s : State) (o : Outstanding) (x : Perf) : State :=
  match x with
  | .ok s1 fired => (watchCause fired).foldl (fun s info => s.trapBoundary o.thread info o.pc o.word) (s1.dropOut o.id)
  | .trap s1 info => (s1.dropOut o.id).trapBoundary o.thread info o.pc o.word
  | .stall g _ why => s.modOut o.id (fun o => { o with stall := some (g, why) })

/-- An outstanding SAMP: its four registers (R426). Watchpoints that its reads fire are due at the thread's next instruction boundary (R309). -/
def State.performSample (s : State) (o : Outstanding) : State :=
  let n := o.thread
  match s.sample { name := n, level := o.level, pc := o.pc, word := o.word } o.va.toNat o.data o.sx with
  | .ok l s1 =>
    let s2 := (s1.dropOut o.id).modThread n (fun t => if t.st == .exited then t else t.setRegs o.dst.toNat l)
    if s2.midWord n then s2 else s2.takeDue n
  | .trap info => (s.dropOut o.id).trapBoundary n info o.pc o.word
  | .park l a =>
    let (fid, s1) := s.parkFault o.asid 0 l a
    s1.modOut o.id (fun o => { o with fid := some fid })

/-- A translated global access at its turn in the trail log. -/
def State.performAt (s : State) (o : Outstanding) (pa leaf : Nat) : State :=
  let o := { o with tr := some (pa, leaf) }
  if s.behind o then s
  else if o.kind == .cctl then (if lineCached leaf then s.cacheOp o.thread.core o.aop pa else s).dropOut o.id
  else if s.entryOk (homeEntry o pa) (s.clsOf o.thread == 0) then s.settleOut o (s.performMem o pa leaf)
  else s

/-- A global access that was parked is translated afresh (R161). -/
def State.retranslate (s : State) (o : Outstanding) : State :=
  let a := o.va.toNat
  let parked (l : Nat) : State :=
    let (fid, s1) := s.parkFault o.asid (if o.kind == .cctl then 1 else o.faultKind) l a
    s1.modOut o.id (fun o => { o with fid := some fid })
  let fail (info : TrapInfo) : State := (s.dropOut o.id).trapBoundary o.thread { info with vaddr := BitVec.ofNat 64 a } o.pc o.word
  if o.kind == .cctl then
    match s.translate (.core o.thread.core) o.asid a with
    | .found x => (s.walkSeen (.core o.thread.core) o.asid a).performAt o (x.pa + (a - x.va)) x.leaf.toNat
    | .fault l => parked l
    | .fatal r l => fail (trapOf .pageFatal (r + 256 * l))
  else match s.xlat (.core o.thread.core) o.asid a o.level { write := o.writes, thread := true, bytes := o.bytes } with
    | .park l => parked l
    | .trap info => fail info
    | .ok pa leaf =>
      if bits leaf 57 56 == 1 && (o.kind == .atomic || o.kind == .red) then fail (protOf 7)
      else (s.walkSeen (.core o.thread.core) o.asid a).performAt o pa leaf

/-- A scratch access that waited for a member or for its bytes. -/
def State.performPeer (s : State) (o : Outstanding) : State :=
  match s.reach o with
  | .wait => s
  | .trap info => (s.dropOut o.id).trapBoundary o.thread info o.pc o.word
  | .ok core a =>
    if s.ldwWaits o core a || s.behind o || !(s.entryOk (scratchEntry o core a) (s.clsOf o.thread == 0)) then s else s.settleOut o (s.performScratch o core a)

/-- MEMORY_ACCESS_PERFORMED (R47, R146, R161, R170): lines leave L1, and an outstanding access that waits for nothing more is performed. -/
def execMemoryAccessPerformed (k : Nat) (evict : List Nat) (s : State) : Host.Outcome State Fault Refusal :=
  .next (
    let go := (s.store.l1.zip (List.range s.store.l1.length)).filterMap (fun x => if evict.contains x.2 then some x.1 else none)
    let s := go.foldl (fun s l => s.evict l.core (fun x => x.tag == l.tag)) s
    match s.store.outst.find? (·.id == k) with
    | none => s
    | some o =>
      if o.fid.isSome || o.kind == .header || s.control.fw.powerOff then s
      else if o.kind == .sample then (if s.behind o then s else s.performSample o)
      else if o.peer.isSome then s.performPeer o
      else match o.tr with
        | some (pa, leaf) => s.performAt o pa leaf
        | none => if s.behind o then s else s.retranslate o)

/-! ## The ends of a detection stall (R179) -/

/-- Does the check that a thread waits on stall still? -/
def State.stillStalls (s : State) (t : Thread) : Bool :=
  match t.st with
  | .blocked (.stall g scratch _ kind _) =>
    (match s.checkGranule t.name t.region kind scratch g with | .stall _ => true | _ => false)
  | _ => false

/-- DETECTION_STALL_END (R179): the thread goes on at its word, where the check is made again. -/
def execDetectionStallEnd (n : ThreadName) (s : State) : Host.Outcome State Fault Refusal :=
  .next (match s.thread? n with
  | none => s
  | some t => match t.st with
    | .blocked (.stall _ _ _ _ _) => if s.stillStalls t || s.stopped n.core then s else s.fetchAgain n
    | _ => s)

/-- MMX_CAPACITY on a granule, with its full address where it is one of memory (R179). -/
def capacityTrap (g why : Nat) (va : Word64) (scratch : Bool) : TrapInfo :=
  { trapOf .mmxCapacity (bits (g * 16) 31 4 * 16 + why) with vaddr := va, paddr := if scratch then 0 else 16 * g }

/-- MMX_CAPACITY_TIMEOUT (R161, R179): a stall of 2^20 cycles ends, at the word or, of an access that waits after its word, at the
next instruction boundary. -/
def execMmxCapacityTimeout (n : ThreadName) (s : State) : Host.Outcome State Fault Refusal :=
  .next (match s.thread? n with
  | none => s
  | some t => match t.st with
    | .blocked (.stall g scratch why _ va) =>
      if t.held < 2 ^ 20 || s.stopped n.core then s
      else
        let (pa, pb) := match t.solo with | some x => (x.pa, x.pb) | none => (0, 0)
        s.trapAt n (capacityTrap g why va scratch.isSome) t.pc (s.peek n.core (s.asidOf n) t.level (wordAddr t.pc.ca t.pc.wi)) pa pb
    | _ =>
      match (s.outOf n).find? (fun o => o.stall.isSome && 2 ^ 20 ≤ o.held) with
      | some o => match o.stall with
        | some (g, why) => (s.dropOut o.id).trapBoundary n (capacityTrap g why o.vaddr o.peer.isSome) o.pc o.word
        | none => s
      | none => s)

/-- LD (R388). -/
def execLd (o : MrOp) (s : State) : Host.Outcome State Fault Refusal := .next (runWord (.ld o) (bodyLd o) s)

/-- ST (R430). -/
def execSt (o : MrOp) (s : State) : Host.Outcome State Fault Refusal := .next (runWord (.st o) (bodySt o) s)

/-- LDS (R388). -/
def execLds (o : MrOp) (s : State) : Host.Outcome State Fault Refusal := .next (runWord (.lds o) (bodyLds o) s)

/-- STS (R430). -/
def execSts (o : MrOp) (s : State) : Host.Outcome State Fault Refusal := .next (runWord (.sts o) (bodySts o) s)

/-- ATOM (R339). -/
def execAtom (o : MrOp) (s : State) : Host.Outcome State Fault Refusal := .next (runWord (.atom o) (bodyAtom o) s)

/-- ATOMS (R339). -/
def execAtoms (o : MrOp) (s : State) : Host.Outcome State Fault Refusal := .next (runWord (.atoms o) (bodyAtoms o) s)

/-- RED (R420). -/
def execRed (o : MrOp) (s : State) : Host.Outcome State Fault Refusal := .next (runWord (.red o) (bodyRed o) s)

/-- FENCE (R379). -/
def execFence (o : MrOp) (s : State) : Host.Outcome State Fault Refusal := .next (runWord (.fence o) (bodyFence o) s)

/-- CCTL_WB (R361). -/
def execCctlWb (o : MrOp) (s : State) : Host.Outcome State Fault Refusal := .next (runWord (.cctlWb o) (bodyCctlWb o) s)

/-- CCTL_WBINV (R361). -/
def execCctlWbinv (o : MrOp) (s : State) : Host.Outcome State Fault Refusal := .next (runWord (.cctlWbinv o) (bodyCctlWbinv o) s)

/-- CCTL_IINV (R361). -/
def execCctlIinv (o : MrOp) (s : State) : Host.Outcome State Fault Refusal := .next (runWord (.cctlIinv o) (bodyCctlIinv o) s)

/-- CCTL_WBALL (R361). -/
def execCctlWball (o : MrOp) (s : State) : Host.Outcome State Fault Refusal := .next (runWord (.cctlWball o) (bodyCctlWball o) s)

/-- CCTL_IINVALL (R361). -/
def execCctlIinvall (o : MrOp) (s : State) : Host.Outcome State Fault Refusal := .next (runWord (.cctlIinvall o) (bodyCctlIinvall o) s)

/-- CCTL_PF (R361). -/
def execCctlPf (o : MrOp) (s : State) : Host.Outcome State Fault Refusal := .next (runWord (.cctlPf o) (bodyCctlPf o) s)

/-- LDW (R391). -/
def execLdw (o : MrOp) (s : State) : Host.Outcome State Fault Refusal := .next (runWord (.ldw o) (bodyLdw o) s)

/-- WSET (R439). -/
def execWset (o : MrOp) (s : State) : Host.Outcome State Fault Refusal := .next (runWord (.wset o) (bodyWset o) s)

end Sys2Proof.Machine
end

