-- ==== Sys2Proof/Machine/Vec.lean ====
section
/-! DEFINITION. The meanings of the integer, bitwise, shift, move and predicate words (R334, R336, R348, R349, R356, R363, R384 to
R386, R393, R404, R405, R407, R409, R411 to R414, R427, R428). -/

namespace Sys2Proof.Machine

/-! ## NOP and PFX -/

/-- NOP (R407): no effect; every thread retires. -/
def bodyNop : BodyFn := eachThread noNeed (fun _ s _ => .ok s)

def execNop (s : State) : Host.Outcome State Fault Refusal := .next (runWord .nop bodyNop s)

/-- PFX (R411): its halves are set pending for the next two words by the word's retirement. -/
def bodyPfx : BodyFn := eachThread noNeed (fun _ s _ => .ok s)

def execPfx (h1 h0 : BitVec 28) (s : State) : Host.Outcome State Fault Refusal := .next (runWord (.pfx h1 h0) bodyPfx s)

/-! ## Integer arithmetic (R384) -/

/-- Exact result of an R384 row on each element, stored wrapped or clamped. -/
def intRow (f : Nat → Int → Int → Int → Int) (x : VIn) : VOut :=
  let w := elemBits x.ty
  let sg := tySigned x.ty
  let rd (v i : Nat) : Int := readInt sg w (elem w v i)
  { val := joinElems w ((List.range (elemCount x.ty)).map (fun i =>
      let r := f w (rd x.a i) (rd x.b i) (rd x.c i)
      wrapInt w (if x.ctl.sat then clampInt sg w r else r))) }

def fnIadd : VIn → VOut := intRow (fun _ a b _ => a + b)
def fnIsub : VIn → VOut := intRow (fun _ a b _ => a - b)
def fnImul : VIn → VOut := intRow (fun _ a b _ => a * b)
def fnImulh : VIn → VOut := intRow (fun w a b _ => a * b / (2 ^ w : Nat))
def fnImad : VIn → VOut := intRow (fun _ a b c => a * b + c)
def fnImin : VIn → VOut := intRow (fun _ a b _ => if b < a then b else a)
def fnImax : VIn → VOut := intRow (fun _ a b _ => if a < b then b else a)
def fnIabs : VIn → VOut := intRow (fun _ a _ _ => a.natAbs)

/-- IADC (R385). -/
def fnIadc (x : VIn) : VOut :=
  let n := elemBits x.ty
  let sum := x.a + x.b + b2n (x.t.pred x.sub)
  { val := sum % 2 ^ n, preds := [(x.sub, decide (2 ^ n ≤ sum))] }

/-- Condition codes 0 to 5 on integers (R386). -/
def intCond (sub : Nat) (a b : Int) : Bool :=
  match sub with
  | 0 => decide (a = b)
  | 1 => decide (a ≠ b)
  | 2 => decide (a < b)
  | 3 => decide (a ≤ b)
  | 4 => decide (b < a)
  | _ => decide (b ≤ a)

/-- ICMP (R386). -/
def fnIcmp (x : VIn) : VOut :=
  let n := elemBits x.ty
  let sg := tySigned x.ty
  { preds := [(x.d, intCond x.sub (readInt sg n x.a) (readInt sg n x.b))] }

/-- LEA (R393). -/
def fnLea (x : VIn) : VOut :=
  let i : Int := readInt (x.ty == 0) 32 x.b
  { val := wrapInt 64 ((x.a : Int) + i * (2 ^ x.sub : Nat)) }

/-! ## Bitwise, shifts and fields -/

/-- Complement on n bits. -/
def notN (n x : Nat) : Nat := 2 ^ n - 1 - x % 2 ^ n

def fnAnd (x : VIn) : VOut := { val := x.a &&& (if x.sub == 0 then x.b else notN (elemBits x.ty) x.b) }
def fnOr (x : VIn) : VOut := { val := x.a ||| (if x.sub == 0 then x.b else notN (elemBits x.ty) x.b) }
def fnXor (x : VIn) : VOut :=
  let v := x.a ^^^ x.b
  { val := if x.sub == 0 then v else notN (elemBits x.ty) v }

/-- Shifts (R427). -/
def fnShl (x : VIn) : VOut :=
  let n := elemBits x.ty
  let k := bits x.b 7 0
  { val := if k < n then x.a * 2 ^ k % 2 ^ n else 0 }

def fnShr (x : VIn) : VOut :=
  let n := elemBits x.ty
  let k := bits x.b 7 0
  { val := if k < n then x.a / 2 ^ k else 0 }

def fnSar (x : VIn) : VOut :=
  let n := elemBits x.ty
  let k := bits x.b 7 0
  { val := wrapInt n (sext n x.a / (2 ^ min k n : Nat)) }

/-- BFE (R348). -/
def fnBfe (x : VIn) : VOut :=
  let n := elemBits x.ty
  let p := bits x.b 7 0
  let w := min (bits x.b 15 8) n
  if w == 0 then {} else
  let f := (readInt (tySigned x.ty) n x.a / (2 ^ p : Nat) % (2 ^ w : Nat)).toNat
  { val := if tySigned x.ty then wrapInt n (sext w f) else f }

/-- BFI (R349). -/
def fnBfi (x : VIn) : VOut :=
  let n := elemBits x.ty
  let p := bits x.b 7 0
  let w := bits x.b 15 8
  if w == 0 || n ≤ p then { val := x.c } else
  let w := min w (n - p)
  let m := (2 ^ w - 1) * 2 ^ p
  { val := (x.c &&& notN n m) ||| (x.a * 2 ^ p % 2 ^ n &&& m) }

/-- Number of 1 bits among the n low bits. -/
def popcount (x : Nat) : Nat → Nat
  | 0 => 0
  | k + 1 => b2n (x.testBit k) + popcount x k

def fnPopc (x : VIn) : VOut := { val := popcount x.a (elemBits x.ty) }

/-- Leading bits equal to `v` among the n low bits, from the top. -/
def leadRun (v : Bool) (x : Nat) : Nat → Nat
  | 0 => 0
  | k + 1 => if x.testBit k == v then 1 + leadRun v x k else 0

/-- CLZ (R363). -/
def fnClz (x : VIn) : VOut :=
  let n := elemBits x.ty
  { val := if tySigned x.ty then leadRun (x.a.testBit (n - 1)) x.a (n - 1) else leadRun false x.a n }

/-- The n low bits in reverse order. -/
def reverseBits (x : Nat) : Nat → Nat
  | 0 => 0
  | k + 1 => b2n (x.testBit k) + 2 * reverseBits x k

/-- BREV (R356). -/
def fnBrev (x : VIn) : VOut := { val := reverseBits x.a (elemBits x.ty) }

/-! ## Moves and predicates -/

/-- MOV of a register or literal (R404, SUB 0). -/
def fnMov (x : VIn) : VOut := { val := x.a }

/-- MOVI (R405). -/
def fnMovi (x : VIn) : VOut := { val := if x.ty == 2 then wrapInt 64 (sext 32 x.imm) else x.imm }

/-- SEL (R428). -/
def fnSel (x : VIn) : VOut := { val := if x.t.pred x.sub then x.a else x.b }

/-- PLOP (R412). -/
def fnPlop (x : VIn) : VOut :=
  let k := 4 * b2n (x.t.pred x.fa) + 2 * b2n (x.t.pred (bits x.imm 11 8)) + b2n (x.t.pred (bits x.imm 15 12))
  { preds := [(x.d, bit (bits x.imm 7 0) k)] }

/-- PMOV (R413). -/
def fnPmov (x : VIn) : VOut :=
  match x.sub with
  | 0 => { val := ((List.range 16).map (fun i => b2n (x.t.pred i) * 2 ^ i)).sum }
  | 1 => { preds := (List.range 16).map (fun i => (i, bit x.a i)) }
  | 2 => { preds := [(x.d, x.a != 0)] }
  | _ => { val := b2n (x.t.pred x.fa) }

/-- Uniform register of a workgroup. -/
def Workgroup.uni (g : Workgroup) (k : Nat) : Word32 := g.uniform.getD k 0

/-- MOV (R404): SUB 1 reads the uniform registers of the thread's workgroup. -/
def bodyMov (o : VOp) : BodyFn := fun c s =>
  match vecSpec c.instr with
  | none => .stall
  | some (_, sp) =>
    eachThread noNeed (fun c s t =>
      let v := if o.sub == 0 then (vecIn c o sp t).a
        else match s.groupOf t.name with
          | some g => (g.uni o.a.toNat).toNat + (if dstCount sp == 2 then 2 ^ 32 * (g.uni (o.a.toNat + 1)).toNat else 0)
          | none => 0
      vecWrite o sp s t { val := v }) (vecOff o sp) c s

def bodyIadd (_ : VOp) : BodyFn := vecBody fnIadd
def bodyIadc (_ : VOp) : BodyFn := vecBody fnIadc
def bodyIsub (_ : VOp) : BodyFn := vecBody fnIsub
def bodyImul (_ : VOp) : BodyFn := vecBody fnImul
def bodyImulh (_ : VOp) : BodyFn := vecBody fnImulh
def bodyImad (_ : VOp) : BodyFn := vecBody fnImad
def bodyImin (_ : VOp) : BodyFn := vecBody fnImin
def bodyImax (_ : VOp) : BodyFn := vecBody fnImax
def bodyIabs (_ : VOp) : BodyFn := vecBody fnIabs
def bodyIcmp (_ : VOp) : BodyFn := vecBody fnIcmp
def bodyLea (_ : VOp) : BodyFn := vecBody fnLea
def bodyAnd (_ : VOp) : BodyFn := vecBody fnAnd
def bodyOr (_ : VOp) : BodyFn := vecBody fnOr
def bodyXor (_ : VOp) : BodyFn := vecBody fnXor
def bodyShl (_ : VOp) : BodyFn := vecBody fnShl
def bodyShr (_ : VOp) : BodyFn := vecBody fnShr
def bodySar (_ : VOp) : BodyFn := vecBody fnSar
def bodyBfe (_ : VOp) : BodyFn := vecBody fnBfe
def bodyBfi (_ : VOp) : BodyFn := vecBody fnBfi
def bodyPopc (_ : VOp) : BodyFn := vecBody fnPopc
def bodyClz (_ : VOp) : BodyFn := vecBody fnClz
def bodyBrev (_ : VOp) : BodyFn := vecBody fnBrev
def bodyMovi (_ : VOp) : BodyFn := vecBody fnMovi
def bodySel (_ : VOp) : BodyFn := vecBody fnSel
def bodyPlop (_ : VOp) : BodyFn := vecBody fnPlop
def bodyPmov (_ : VOp) : BodyFn := vecBody fnPmov

/-- IADD (R384). -/
def execIadd (o : VOp) (s : State) : Host.Outcome State Fault Refusal := .next (runWord (.iadd o) (bodyIadd o) s)

/-- IADC (R385). -/
def execIadc (o : VOp) (s : State) : Host.Outcome State Fault Refusal := .next (runWord (.iadc o) (bodyIadc o) s)

/-- ISUB (R384). -/
def execIsub (o : VOp) (s : State) : Host.Outcome State Fault Refusal := .next (runWord (.isub o) (bodyIsub o) s)

/-- IMUL (R384). -/
def execImul (o : VOp) (s : State) : Host.Outcome State Fault Refusal := .next (runWord (.imul o) (bodyImul o) s)

/-- IMULH (R384). -/
def execImulh (o : VOp) (s : State) : Host.Outcome State Fault Refusal := .next (runWord (.imulh o) (bodyImulh o) s)

/-- IMAD (R384). -/
def execImad (o : VOp) (s : State) : Host.Outcome State Fault Refusal := .next (runWord (.imad o) (bodyImad o) s)

/-- IMIN (R384). -/
def execImin (o : VOp) (s : State) : Host.Outcome State Fault Refusal := .next (runWord (.imin o) (bodyImin o) s)

/-- IMAX (R384). -/
def execImax (o : VOp) (s : State) : Host.Outcome State Fault Refusal := .next (runWord (.imax o) (bodyImax o) s)

/-- IABS (R384). -/
def execIabs (o : VOp) (s : State) : Host.Outcome State Fault Refusal := .next (runWord (.iabs o) (bodyIabs o) s)

/-- ICMP (R386). -/
def execIcmp (o : VOp) (s : State) : Host.Outcome State Fault Refusal := .next (runWord (.icmp o) (bodyIcmp o) s)

/-- LEA (R393). -/
def execLea (o : VOp) (s : State) : Host.Outcome State Fault Refusal := .next (runWord (.lea o) (bodyLea o) s)

/-- AND (R336). -/
def execAnd (o : VOp) (s : State) : Host.Outcome State Fault Refusal := .next (runWord (.and o) (bodyAnd o) s)

/-- OR (R409). -/
def execOr (o : VOp) (s : State) : Host.Outcome State Fault Refusal := .next (runWord (.or o) (bodyOr o) s)

/-- XOR (R409). -/
def execXor (o : VOp) (s : State) : Host.Outcome State Fault Refusal := .next (runWord (.xor o) (bodyXor o) s)

/-- SHL (R427). -/
def execShl (o : VOp) (s : State) : Host.Outcome State Fault Refusal := .next (runWord (.shl o) (bodyShl o) s)

/-- SHR (R427). -/
def execShr (o : VOp) (s : State) : Host.Outcome State Fault Refusal := .next (runWord (.shr o) (bodyShr o) s)

/-- SAR (R427). -/
def execSar (o : VOp) (s : State) : Host.Outcome State Fault Refusal := .next (runWord (.sar o) (bodySar o) s)

/-- BFE (R348). -/
def execBfe (o : VOp) (s : State) : Host.Outcome State Fault Refusal := .next (runWord (.bfe o) (bodyBfe o) s)

/-- BFI (R349). -/
def execBfi (o : VOp) (s : State) : Host.Outcome State Fault Refusal := .next (runWord (.bfi o) (bodyBfi o) s)

/-- POPC (R414). -/
def execPopc (o : VOp) (s : State) : Host.Outcome State Fault Refusal := .next (runWord (.popc o) (bodyPopc o) s)

/-- CLZ (R363). -/
def execClz (o : VOp) (s : State) : Host.Outcome State Fault Refusal := .next (runWord (.clz o) (bodyClz o) s)

/-- BREV (R356). -/
def execBrev (o : VOp) (s : State) : Host.Outcome State Fault Refusal := .next (runWord (.brev o) (bodyBrev o) s)

/-- MOV (R404). -/
def execMov (o : VOp) (s : State) : Host.Outcome State Fault Refusal := .next (runWord (.mov o) (bodyMov o) s)

/-- MOVI (R405). -/
def execMovi (o : VOp) (s : State) : Host.Outcome State Fault Refusal := .next (runWord (.movi o) (bodyMovi o) s)

/-- SEL (R428). -/
def execSel (o : VOp) (s : State) : Host.Outcome State Fault Refusal := .next (runWord (.sel o) (bodySel o) s)

/-- PLOP (R412). -/
def execPlop (o : VOp) (s : State) : Host.Outcome State Fault Refusal := .next (runWord (.plop o) (bodyPlop o) s)

/-- PMOV (R413). -/
def execPmov (o : VOp) (s : State) : Host.Outcome State Fault Refusal := .next (runWord (.pmov o) (bodyPmov o) s)

end Sys2Proof.Machine
end

