-- ==== Sys2Proof/Machine/Wake.lean ====
section
/-! DEFINITION. The event in which a BLOCKED thread's wait condition is met (R36). -/

namespace Sys2Proof.Machine

/-- The queue that a waiting thread names by its offset is served. -/
def State.wakeQueue (s : State) (n : ThreadName) (q : Nat) : State :=
  match s.groupOf n with
  | some g => let r : QRef := { g := g, a := g.base + q }; s.serveQueue r ((s.pushers r).length + (s.poppers r).length + 1)
  | none => s

/-- A barrier wait whose phase has completed (R201, R359). -/
def State.recheckBarrier (s : State) (n : ThreadName) (off : Nat) (phase : Bool) (scope : Nat) : State :=
  match s.groupOf n with
  | some g => if (s.readBar g.core (g.base + off)).ph != phase then s.wakeBarrier n scope else s
  | none => s

/-- A wait at a clause header: its counts are tested, or the header is read where that is still to do (R44, R47). -/
def State.wakeHeader (s : State) (t : Thread) : State :=
  match t.hdr with
  | none => if s.wgHeld t.name.core t.name.slot then s else s.enter t.name enterFuel
  | some h =>
    if s.waitsMet t h then s.modThread t.name (fun t => { t with st := .ready, readyAt := s.now, waited := 0, held := 0 }) else s

/-- Is a fault record still outstanding? -/
def State.faultOpen (s : State) (fid : Nat) : Bool := s.store.faults.any (·.fid == fid)

/-- The wait of a BLOCKED thread, tested and ended where its condition is met. Call-stack transfers, timed waits and detection stalls end
by events of their own; a thread that holds its pack at a word goes on as the word is tried again. -/
def State.wakeWait (s : State) (t : Thread) (w : Wait) : State :=
  let n := t.name
  match w with
  | .header => s.wakeHeader t
  | .rendezvous => if t.hdr.isNone then s.wakeHeader t else s.meet n.core
  | .operand _ | .word _ _ => s
  | .calls => s
  | .fetch fid => if s.faultOpen fid then s else s.fetchAgain n
  | .stall _ _ _ _ _ => s
  | .barrier off phase scope => s.recheckBarrier n off phase scope
  | .batches _ _ _ _ => s.wakeBatches n
  | .push q _ _ _ => s.wakeQueue n q
  | .pop q _ _ _ => s.wakeQueue n q
  | .ring r consumer d order => s.wakeRing n r consumer d order
  | .time _ => s
  | .rowQueue _ _ => s.wakeApop n
  | .record fid => if s.faultOpen fid then s else s.tretAgain n
  | .met scope => (s.acquire n.core scope).wake n .next []

/-- THREAD_WAKE (R36): in a stopped cluster a condition takes effect at thaw. -/
def execThreadWake (n : ThreadName) (s : State) : Host.Outcome State Fault Refusal :=
  .next (match s.thread? n with
  | none => s
  | some t => match t.st with
    | .blocked w => if s.stopped n.core || s.control.fw.powerOff then s else s.wakeWait t w
    | _ => s)

end Sys2Proof.Machine
end

