-- ==== Sys2Proof/Machine/Xfn.lean ====
section
/-! DEFINITION. The meanings of the XFN words, and the event that writes an XFN result (R140 to R142, R335, R374, R394, R395,
R419). -/

namespace Sys2Proof.Machine

/-- Result pattern with its flags, no predicate. -/
def flagged (r : Flagged Nat) : VOut := { val := r.1, flags := r.2 }

/-- LOGC (R394): `RoundQ823` of log2 |x|; inexact unless |x| is a power of two. -/
def fnLogc (x : VIn) : VOut :=
  let (v, fl) := srcFp fp32 x.ctl x.a
  match v with
  | .nan _ => { val := 0, preds := [(x.sub, false)], flags := fl ||| flagIV }
  | .inf neg => { val := 0x7FFFFFFF, preds := [(x.sub, neg)], flags := fl }
  | .fin neg num den =>
    if num == 0 then { val := 0x80000000, preds := [(x.sub, neg)], flags := fl ||| flagDZ }
    else
      -- nearest multiple of 2^-23: floor at one bit more, halved upward; no tie arises
      let q := (log2Fixed num den 24 + 1) / 2
      { val := wrapInt 32 q, preds := [(x.sub, neg)], flags := fl ||| flagIf (!(isPow2 num den)) flagNX }

/-- EXPC of a Q8.23 integer (R140). -/
def expcOf (c : FpCtl) (n : Int) : Flagged Nat := roundEx fp32 c (exp2Q823 n)

/-- EXPC (R374). -/
def fnExpc (x : VIn) : VOut := flagged (expcOf x.ctl (sext 32 x.a))

/-- LSCL (R395). -/
def fnLscl (x : VIn) : VOut :=
  let a := sext 8 (bits x.b 15 8)
  let b := bits x.b 7 0
  if b == 0 then { val := 0, flags := flagIV } else
  let (r, _, clamped) := roundQ823 (.ratio (sext 32 x.a * a) (b * 2 ^ 23))
  { val := wrapInt 32 r, flags := flagIf clamped flagOF }

/-- FSIN (R374). -/
def fnFsin (x : VIn) : VOut :=
  let (v, fl) := srcFp fp32 x.ctl x.a
  match v with
  | .nan _ => { val := fp32.nan, flags := fl }
  | .inf _ => { val := fp32.nan, flags := fl ||| flagIV }
  | .fin neg num den => let (b, fr) := roundEx fp32 x.ctl (sin2pi neg num den); { val := b, flags := fl ||| fr }

/-- FCOS (R374). -/
def fnFcos (x : VIn) : VOut :=
  let (v, fl) := srcFp fp32 x.ctl x.a
  match v with
  | .nan _ => { val := fp32.nan, flags := fl }
  | .inf _ => { val := fp32.nan, flags := fl ||| flagIV }
  | .fin _ num den => let (b, fr) := roundEx fp32 x.ctl (cos2pi num den); { val := b, flags := fl ||| fr }

/-- 1/x of a real with its flags (R140). -/
def rcpOf (c : FpCtl) : Ex → Flagged Nat
  | .nan _ => (fp32.nan, 0)
  | .inf neg => (fp32.zero neg, 0)
  | .fin neg num den =>
    if num == 0 then let (b, fr) := roundEx fp32 c (.inf neg); (b, fr ||| flagDZ)
    else roundEx fp32 c (.fin neg den num)

/-- RCP (R419). -/
def fnRcp (x : VIn) : VOut :=
  let (v, fl) := srcFp fp32 x.ctl x.a
  let (b, fr) := rcpOf x.ctl v
  { val := b, flags := fl ||| fr }

/-- RSQ (R419). -/
def fnRsq (x : VIn) : VOut :=
  let (v, fl) := srcFp fp32 x.ctl x.a
  match v with
  | .nan _ => { val := fp32.nan, flags := fl }
  | .inf neg => if neg then { val := fp32.nan, flags := fl ||| flagIV } else { val := 0, flags := fl }
  | .fin neg num den =>
    if num == 0 then let (b, fr) := roundEx fp32 x.ctl (.inf neg); { val := b, flags := fl ||| fr ||| flagDZ }
    else if neg then { val := fp32.nan, flags := fl ||| flagIV }
    else let (b, fr) := roundEx fp32 x.ctl (rsqrtEx num den); { val := b, flags := fl ||| fr }

/-! ## ACTV (R141) -/

/-- C_L, log2 e in Q8.23, and the constants of GELU. -/
def actvCl : Ex := .fin false 0x00B8AA3B (2 ^ 23)
def actvK0 : Ex := fp32.val 0x3F4C422A
def actvK1 : Ex := fp32.val 0x3D372713
def exOne : Ex := .fin false 1 1

/-- An intermediate step: the rounded value and whether it was inexact. -/
def actvStep (x : Ex) : Ex × Bool :=
  let (b, fl) := roundEx fp32 ctlRn x
  (fp32.val b, fl &&& flagNX != 0)

/-- `RoundQ823` inside ACTV. -/
def actvQ (x : Ex) : Int × Bool :=
  let (r, inexact, clamped) := roundQ823 x
  (r, inexact && !clamped)

/-- 1 + EXPC(t), rounded. -/
def actvW (t : Int) : Ex × Bool :=
  let (e, n1) := actvStep (exp2Q823 t)
  let (w, n2) := actvStep (exOne.add .rne e)
  (w, n1 || n2)

/-- `Sigm` up to its last step: the value w whose reciprocal is the result. -/
def sigmW (z : Ex) : Ex × Bool :=
  let (t, n1) := actvQ (z.negate.mul actvCl)
  let (w, n2) := actvW t
  (w, n1 || n2)

/-- `Tanh` up to its last step: the exact value 1 - 2·v under a mode. -/
def tanhLast (mode : RMode) (z : Ex) : Ex × Bool :=
  let (t, n1) := actvQ (((Ex.fin false 2 1).mul z).mul actvCl)
  let (w, n2) := actvW t
  let (b, fv) := rcpOf ctlRn w
  (exOne.add mode (((Ex.fin false 2 1).mul (fp32.val b)).negate), n1 || n2 || fv &&& flagNX != 0)

/-- The limits of ACTV at an infinity. -/
def actvLimit (sub : Nat) (neg : Bool) : Ex :=
  match sub, neg with
  | 0, false | 1, false | 2, false => .inf false
  | 3, false | 4, false => exOne
  | 0, true | 3, true => .fin false 0 1
  | 1, true | 2, true => .fin true 0 1
  | _, _ => .fin true 1 1

/-- The last step of ACTV on a finite input, and whether an earlier step rounded. -/
def actvFinal (sub : Nat) (c : FpCtl) (x : Ex) : Flagged Nat × Bool :=
  match sub with
  | 0 => (roundEx fp32 c (if x.neg || x.isZero then .fin false 0 1 else x), false)
  | 1 =>
    let (a, n1) := actvStep (x.mul x)
    let (b, n2) := actvStep (a.mul x)
    let (cc, n3) := actvStep ((actvK1.mul b).add .rne x)
    let (d, n4) := actvStep (actvK0.mul cc)
    let (g0, n5) := tanhLast .rne d
    let (g, n6) := actvStep g0
    let (h, n7) := actvStep (exOne.add .rne g)
    (roundEx fp32 c (((Ex.fin false 1 2).mul x).mul h), n1 || n2 || n3 || n4 || n5 || n6 || n7)
  | 2 =>
    let (w, n1) := sigmW x
    let (b, fv) := rcpOf ctlRn w
    (roundEx fp32 c (x.mul (fp32.val b)), n1 || fv &&& flagNX != 0)
  | 3 => let (w, n1) := sigmW x; (rcpOf c w, n1)
  | _ => let (v, n1) := tanhLast c.mode x; (roundEx fp32 c v, n1)

/-- ACTV (R335). -/
def fnActv (x : VIn) : VOut :=
  let (v, fl) := srcFp fp32 x.ctl x.a
  match v with
  | .nan _ => { val := fp32.nan, flags := fl }
  | .inf neg => { val := (roundEx fp32 x.ctl (actvLimit x.sub neg)).1, flags := fl }
  | .fin _ _ _ =>
    let ((b, fr), rounded) := actvFinal x.sub x.ctl v
    { val := b, flags := fl ||| fr ||| flagIf rounded flagNX }

/-! ## Meanings -/

/-- May an XFN word issue for a thread: its count stays at most 63 (R47). -/
def xfnNeed : Ctx → State → Thread → Bool := fun _ _ t => t.xfn.length < 63

/-- An XFN word: the result is outstanding until written (R142); flags and the predicate of LOGC are set now. -/
def xfnBody (f : VIn → VOut) : BodyFn := fun c s =>
  match vecSpec c.instr with
  | none => .stall
  | some (o, sp) =>
    let logc := match c.instr with | .logc o => some o.sub.toNat | _ => none
    eachThread xfnNeed (fun c s t =>
        let r := f (vecIn c o sp t)
        .ok (s.modThread t.name (fun t =>
          (({ t with xfn := t.xfn ++ [{ reg := o.d.toNat, value := BitVec.ofNat 32 r.val }] } : Thread).setPreds r.preds).addFlags r.flags))
          .next (fpAfter t.fctl r.flags))
      (fun c s t =>
        let s := vecOff o sp c s t
        match logc with
        | some p => if pfZ c.half then s.modThread t.name (fun t => t.setPred p false) else s
        | none => s) c s

def bodyLogc (_ : VOp) : BodyFn := xfnBody fnLogc
def bodyExpc (_ : VOp) : BodyFn := xfnBody fnExpc
def bodyLscl (_ : VOp) : BodyFn := xfnBody fnLscl
def bodyFsin (_ : VOp) : BodyFn := xfnBody fnFsin
def bodyFcos (_ : VOp) : BodyFn := xfnBody fnFcos
def bodyActv (_ : VOp) : BodyFn := xfnBody fnActv
def bodyRcp (_ : VOp) : BodyFn := xfnBody fnRcp
def bodyRsq (_ : VOp) : BodyFn := xfnBody fnRsq

/-- LOGC (R394). -/
def execLogc (o : VOp) (s : State) : Host.Outcome State Fault Refusal := .next (runWord (.logc o) (bodyLogc o) s)

/-- EXPC (R374). -/
def execExpc (o : VOp) (s : State) : Host.Outcome State Fault Refusal := .next (runWord (.expc o) (bodyExpc o) s)

/-- LSCL (R395). -/
def execLscl (o : VOp) (s : State) : Host.Outcome State Fault Refusal := .next (runWord (.lscl o) (bodyLscl o) s)

/-- FSIN (R374). -/
def execFsin (o : VOp) (s : State) : Host.Outcome State Fault Refusal := .next (runWord (.fsin o) (bodyFsin o) s)

/-- FCOS (R374). -/
def execFcos (o : VOp) (s : State) : Host.Outcome State Fault Refusal := .next (runWord (.fcos o) (bodyFcos o) s)

/-- ACTV (R335). -/
def execActv (o : VOp) (s : State) : Host.Outcome State Fault Refusal := .next (runWord (.actv o) (bodyActv o) s)

/-- RCP (R419). -/
def execRcp (o : VOp) (s : State) : Host.Outcome State Fault Refusal := .next (runWord (.rcp o) (bodyRcp o) s)

/-- RSQ (R419). -/
def execRsq (o : VOp) (s : State) : Host.Outcome State Fault Refusal := .next (runWord (.rsq o) (bodyRsq o) s)

/-- XFN_RESULT_WRITTEN (R142): the oldest outstanding result of the thread is written. -/
def execXfnResultWritten (n : ThreadName) (s : State) : Host.Outcome State Fault Refusal :=
  .next (s.modThread n (fun t =>
    match t.xfn with
    | [] => t
    | x :: rest => ({ t with xfn := rest } : Thread).setReg x.reg x.value))

end Sys2Proof.Machine
end

