-- ==== Sys2Proof/Machine/Xeq.lean ====
section
/-! DEFINITION. XEQ: each thread's own instruction word (R79, R105, R300, R301, R440, R441). -/

namespace Sys2Proof.Machine

/-- Meanings of the words that XEQ may take from a register pair, but for XEQ itself (R440). -/
def xeqBody (i : Instr) : Option BodyFn :=
  match i with
  | .nop => some bodyNop
  | .iadd o => some (bodyIadd o)
  | .iadc o => some (bodyIadc o)
  | .isub o => some (bodyIsub o)
  | .imul o => some (bodyImul o)
  | .imulh o => some (bodyImulh o)
  | .imad o => some (bodyImad o)
  | .imin o => some (bodyImin o)
  | .imax o => some (bodyImax o)
  | .iabs o => some (bodyIabs o)
  | .icmp o => some (bodyIcmp o)
  | .lea o => some (bodyLea o)
  | .and o => some (bodyAnd o)
  | .or o => some (bodyOr o)
  | .xor o => some (bodyXor o)
  | .shl o => some (bodyShl o)
  | .shr o => some (bodyShr o)
  | .sar o => some (bodySar o)
  | .bfe o => some (bodyBfe o)
  | .bfi o => some (bodyBfi o)
  | .popc o => some (bodyPopc o)
  | .clz o => some (bodyClz o)
  | .brev o => some (bodyBrev o)
  | .fadd o => some (bodyFadd o)
  | .fsub o => some (bodyFsub o)
  | .fmul o => some (bodyFmul o)
  | .ffma o => some (bodyFfma o)
  | .fmin o => some (bodyFmin o)
  | .fmax o => some (bodyFmax o)
  | .fminn o => some (bodyFminn o)
  | .fmaxn o => some (bodyFmaxn o)
  | .fcmp o => some (bodyFcmp o)
  | .fclass o => some (bodyFclass o)
  | .frnd o => some (bodyFrnd o)
  | .frndX o => some (bodyFrndX o)
  | .fcvt o => some (bodyFcvt o)
  | .icvt o => some (bodyIcvt o)
  | .dsubs o => some (bodyDsubs o)
  | .mov o => some (bodyMov o)
  | .movi o => some (bodyMovi o)
  | .sel o => some (bodySel o)
  | .plop o => some (bodyPlop o)
  | .pmov o => some (bodyPmov o)
  | .logc o => some (bodyLogc o)
  | .expc o => some (bodyExpc o)
  | .lscl o => some (bodyLscl o)
  | .fsin o => some (bodyFsin o)
  | .fcos o => some (bodyFcos o)
  | .actv o => some (bodyActv o)
  | .rcp o => some (bodyRcp o)
  | .rsq o => some (bodyRsq o)
  | .ld o => some (bodyLd o)
  | .st o => some (bodySt o)
  | .lds o => some (bodyLds o)
  | .sts o => some (bodySts o)
  | .atom o => some (bodyAtom o)
  | .atoms o => some (bodyAtoms o)
  | .red o => some (bodyRed o)
  | .samp o => some (bodySamp o)
  | .ldw o => some (bodyLdw o)
  | _ => none

/-- A word taken by XEQ under a clause header: its instruction when it is legal (R79, R440). -/
def xeqLegal (hdr : Word64) (outer : Bool) (w : Word64) : Option Instr :=
  match decode w with
  | .error _ => none
  | .ok i =>
    if usesLit i && !(hLit hdr) then none
    else match i with
    | .xeq _ => if outer then some i else none
    | _ => if (xeqBody i).isSome then some i else none

/-- After-the-word causes of threads: the word a record of the cause holds, and the causes (R300). -/
abbrev XAfter := List (ThreadName × Word64 × List TrapInfo)

/-- Is a thread still in the pack? -/
def Ctx.still (c : Ctx) (s : State) (n : ThreadName) : Bool :=
  match s.pack? c.pack.core c.pack.pipe with | some p => p.threads.contains n | none => false

/-- The context of a word that XEQ issues for some threads: no prefix half (R441). -/
def Ctx.inside (c : Ctx) (w : Word64) (i : Instr) (l : List ThreadName) : Ctx :=
  { pack := { c.pack with threads := l, xrem := none }, instr := i, word := w, half := 0, inner := true }

/-- Registers of a word XEQ issues: free of outstanding results, refilled, and within the pools (R47, R102, R104). -/
def Ctx.xeqReady (c : Ctx) (s : State) : Bool := s.operandsReady c && c.regRoom s

/-- The causes after an inner word, whose records name the XEQ (R294, R296, R300). -/
def xafterOf (c : Ctx) (o : Out) : XAfter := if o.after.isEmpty then [] else [(o.name, c.word, o.after)]

/-- What issuing a word of an XEQ comes to. -/
inductive XRes where
  | ok (s : State) (after : XAfter)
  /-- The pack stalls in place. -/
  | stall (s : State)
  /-- Reads of the word park (R161). -/
  | held (l : List (ThreadName × Parked))

/-- Issue a legal word that is no XEQ for some threads. Threads whose operands hold the word are BLOCKED (R35, R104). -/
def xeqIssue (c : Ctx) (s : State) (w : Word64) (i : Instr) (l : List ThreadName) : XRes :=
  match xeqBody i with
  | none => .ok s []
  | some body =>
    let ci := c.inside w i l
    if !(ci.xeqReady s) then .stall (s.holdOperands ci)
    else
      let s1 := ci.lost s
      let cj := c.inside w i (l.filter (c.still s1))
      match body cj s1 with
      | .stall | .full => .stall s
      | .held l => .held l
      | .more s2 => .ok s2 []
      | .done s2 outs => .ok (s2.wordRegs s1 cj outs) (outs.flatMap (xafterOf c))

/-- Distinct words of some threads in ascending value (R441). -/
def distinctWords (l : List (ThreadName × Word64)) : List Word64 :=
  sortBy (fun a b => a.toNat < b.toNat) (l.map (·.2)).dedup

/-- The register pair that an XEQ word names, for a thread. -/
def xeqPair (o : VOp) (t : Thread) : Word64 := BitVec.ofNat 64 (t.regsVal o.a.toNat 2)

/-- The words that threads hold in the pair an XEQ names. -/
def State.xeqWords (s : State) (o : VOp) (l : List ThreadName) : List (ThreadName × Word64) :=
  l.filterMap (fun n => (s.thread? n).map (fun t => (n, xeqPair o t)))

/-- Threads that hold a word. -/
def holders (l : List (ThreadName × Word64)) (w : Word64) : List ThreadName := (l.filter (·.2 == w)).map (·.1)

/-- ILLEGAL_WORD of the threads that hold illegal words, each with its word (R300). -/
def illegalAfter (hdr : Word64) (outer : Bool) (l : List (ThreadName × Word64)) : XAfter :=
  (l.filter (fun x => (xeqLegal hdr outer x.2).isNone)).map (fun x => (x.1, x.2, [trapOf .illegalWord 0]))

/-- Kill the pair of an XEQ word for threads that have had their word, but for registers the word wrote (R58, R440). -/
def State.xeqKill (s : State) (c : Ctx) (x : Instr) (i : Instr) (l : List ThreadName) : State :=
  l.foldl (fun s n =>
    if c.still s n then ((killRegs x).filter (fun v => !(dstRegs i).contains v)).foldl (fun s v => s.spill n v) s else s) s

/-- An XEQ inside the XEQ: its threads' words one after another, with no boundary between them; none of them where one stalls (R105, R441). -/
def xeqNested (c : Ctx) (s : State) (w : Word64) (o : VOp) (l : List ThreadName) : XRes :=
  let ci := c.inside w (.xeq o) l
  if !(ci.xeqReady s) then .stall (s.holdOperands ci)
  else
    let s1 := ci.lost s
    let words := s1.xeqWords o (l.filter (c.still s1))
    let all := (distinctWords words).foldl (fun (acc : XRes) v =>
      match acc, xeqLegal c.pack.hdr false v with
      | .ok a after, some i =>
        (match xeqIssue c a v i (holders words v) with
        | .ok b more => .ok (b.xeqKill c (.xeq o) i (holders words v)) (after ++ more)
        | .stall _ => .stall (s.holdOperands (c.inside v i (holders words v)))
        | .held p => .held p)
      | x, _ => x)
      (.ok s1 (illegalAfter c.pack.hdr false words))
    all

/-- The pack after one of its words, with the threads left to issue and the causes kept. -/
def State.xeqPut (s : State) (c : Ctx) (rem : List ThreadName) (after : XAfter) : State :=
  s.modPack c.pack.core c.pack.pipe (fun p => { p with xrem := some rem, xafter := p.xafter ++ after, stalled := 0 })

/-- The end of the XEQ: every thread still in the pack goes on with the cause it is owed (R300, R301). -/
def xeqFinish (c : Ctx) (s : State) (words : List (ThreadName × Word64)) : Body :=
  match s.pack? c.pack.core c.pack.pipe with
  | none => .more s
  | some p =>
    let causes := p.xafter ++ illegalAfter c.pack.hdr true (words.filter (fun x => p.threads.contains x.1))
    let s1 := words.foldl (fun s x => if (xeqLegal c.pack.hdr true x.2).isNone then s.xeqKill c c.instr .nop [x.1] else s) s
    .done s1 (p.threads.map (fun n =>
      match causes.find? (·.1 == n) with
      | some (_, w, l) => { name := n, fate := .next, after := l, word := some w }
      | none => { name := n, fate := .next, after := [] }))

/-- XEQ (R440, R441): the lowest distinct legal word not yet issued; after the last of them the XEQ retires. -/
def bodyXeq (o : VOp) : BodyFn := fun c s =>
  let rem := match c.pack.xrem with | some l => l | none => c.pack.threads
  let words := s.xeqWords o rem
  let legal := words.filter (fun x => (xeqLegal c.pack.hdr true x.2).isSome)
  match distinctWords legal with
  | [] => xeqFinish c s words
  | w :: rest =>
    let l := holders words w
    match xeqLegal c.pack.hdr true w with
    | none => .stall
    | some i =>
      let run := match i with | .xeq k => xeqNested c s w k l | _ => xeqIssue c s w i l
      match run with
      | .stall s1 => .more (s1.stallPack c.pack)
      | .held p => .held p
      | .ok s1 after =>
        let left := rem.filter (fun n => !(l.contains n))
        let s2 := (s1.xeqKill c c.instr i l).xeqPut c left after
        if rest.isEmpty then xeqFinish c s2 (words.filter (fun x => left.contains x.1)) else .more s2

/-- XEQ (R440). -/
def execXeq (o : VOp) (s : State) : Host.Outcome State Fault Refusal := .next (runWord (.xeq o) (bodyXeq o) s)

end Sys2Proof.Machine
end

