-- ==== Sys2Proof/Machine/Dispatch.lean ====
section
/-! DEFINITION. One arm for each instruction and device event: the call of its meaning. -/

namespace Sys2Proof.Machine

/-- The meaning of each instruction and device event. -/
def exec (i : Instr) (s : State) : Host.Outcome State Fault Refusal :=
  match i with
  | .nop => Sys2Proof.Machine.execNop s
  | .pfx h1 h0 => Sys2Proof.Machine.execPfx h1 h0 s
  | .bra o => Sys2Proof.Machine.execBra o s
  | .brx o => Sys2Proof.Machine.execBrx o s
  | .call o => Sys2Proof.Machine.execCall o s
  | .callx o => Sys2Proof.Machine.execCallx o s
  | .ret o => Sys2Proof.Machine.execRet o s
  | .exit o => Sys2Proof.Machine.execExit o s
  | .switch o => Sys2Proof.Machine.execSwitch o s
  | .loop o => Sys2Proof.Machine.execLoop o s
  | .lpop o => Sys2Proof.Machine.execLpop o s
  | .lpopDrop o => Sys2Proof.Machine.execLpopDrop o s
  | .yield o => Sys2Proof.Machine.execYield o s
  | .waittAbs o => Sys2Proof.Machine.execWaittAbs o s
  | .waittRel o => Sys2Proof.Machine.execWaittRel o s
  | .iadd o => Sys2Proof.Machine.execIadd o s
  | .iadc o => Sys2Proof.Machine.execIadc o s
  | .isub o => Sys2Proof.Machine.execIsub o s
  | .imul o => Sys2Proof.Machine.execImul o s
  | .imulh o => Sys2Proof.Machine.execImulh o s
  | .imad o => Sys2Proof.Machine.execImad o s
  | .imin o => Sys2Proof.Machine.execImin o s
  | .imax o => Sys2Proof.Machine.execImax o s
  | .iabs o => Sys2Proof.Machine.execIabs o s
  | .icmp o => Sys2Proof.Machine.execIcmp o s
  | .lea o => Sys2Proof.Machine.execLea o s
  | .and o => Sys2Proof.Machine.execAnd o s
  | .or o => Sys2Proof.Machine.execOr o s
  | .xor o => Sys2Proof.Machine.execXor o s
  | .shl o => Sys2Proof.Machine.execShl o s
  | .shr o => Sys2Proof.Machine.execShr o s
  | .sar o => Sys2Proof.Machine.execSar o s
  | .bfe o => Sys2Proof.Machine.execBfe o s
  | .bfi o => Sys2Proof.Machine.execBfi o s
  | .popc o => Sys2Proof.Machine.execPopc o s
  | .clz o => Sys2Proof.Machine.execClz o s
  | .brev o => Sys2Proof.Machine.execBrev o s
  | .fadd o => Sys2Proof.Machine.execFadd o s
  | .fsub o => Sys2Proof.Machine.execFsub o s
  | .fmul o => Sys2Proof.Machine.execFmul o s
  | .ffma o => Sys2Proof.Machine.execFfma o s
  | .fmin o => Sys2Proof.Machine.execFmin o s
  | .fmax o => Sys2Proof.Machine.execFmax o s
  | .fminn o => Sys2Proof.Machine.execFminn o s
  | .fmaxn o => Sys2Proof.Machine.execFmaxn o s
  | .fcmp o => Sys2Proof.Machine.execFcmp o s
  | .fclass o => Sys2Proof.Machine.execFclass o s
  | .frnd o => Sys2Proof.Machine.execFrnd o s
  | .frndX o => Sys2Proof.Machine.execFrndX o s
  | .fcvt o => Sys2Proof.Machine.execFcvt o s
  | .icvt o => Sys2Proof.Machine.execIcvt o s
  | .dsubs o => Sys2Proof.Machine.execDsubs o s
  | .mov o => Sys2Proof.Machine.execMov o s
  | .movi o => Sys2Proof.Machine.execMovi o s
  | .sel o => Sys2Proof.Machine.execSel o s
  | .plop o => Sys2Proof.Machine.execPlop o s
  | .pmov o => Sys2Proof.Machine.execPmov o s
  | .perm o => Sys2Proof.Machine.execPerm o s
  | .bcst o => Sys2Proof.Machine.execBcst o s
  | .vote o => Sys2Proof.Machine.execVote o s
  | .redx o => Sys2Proof.Machine.execRedx o s
  | .scanx o => Sys2Proof.Machine.execScanx o s
  | .match o => Sys2Proof.Machine.execMatch o s
  | .xeq o => Sys2Proof.Machine.execXeq o s
  | .logc o => Sys2Proof.Machine.execLogc o s
  | .expc o => Sys2Proof.Machine.execExpc o s
  | .lscl o => Sys2Proof.Machine.execLscl o s
  | .fsin o => Sys2Proof.Machine.execFsin o s
  | .fcos o => Sys2Proof.Machine.execFcos o s
  | .actv o => Sys2Proof.Machine.execActv o s
  | .rcp o => Sys2Proof.Machine.execRcp o s
  | .rsq o => Sys2Proof.Machine.execRsq o s
  | .ld o => Sys2Proof.Machine.execLd o s
  | .st o => Sys2Proof.Machine.execSt o s
  | .lds o => Sys2Proof.Machine.execLds o s
  | .sts o => Sys2Proof.Machine.execSts o s
  | .atom o => Sys2Proof.Machine.execAtom o s
  | .atoms o => Sys2Proof.Machine.execAtoms o s
  | .red o => Sys2Proof.Machine.execRed o s
  | .fence o => Sys2Proof.Machine.execFence o s
  | .cctlWb o => Sys2Proof.Machine.execCctlWb o s
  | .cctlWbinv o => Sys2Proof.Machine.execCctlWbinv o s
  | .cctlIinv o => Sys2Proof.Machine.execCctlIinv o s
  | .cctlWball o => Sys2Proof.Machine.execCctlWball o s
  | .cctlIinvall o => Sys2Proof.Machine.execCctlIinvall o s
  | .cctlPf o => Sys2Proof.Machine.execCctlPf o s
  | .samp o => Sys2Proof.Machine.execSamp o s
  | .ldw o => Sys2Proof.Machine.execLdw o s
  | .wset o => Sys2Proof.Machine.execWset o s
  | .cpy o => Sys2Proof.Machine.execCpy o s
  | .cpys o => Sys2Proof.Machine.execCpys o s
  | .cseal o => Sys2Proof.Machine.execCseal o s
  | .cwaitRel o => Sys2Proof.Machine.execCwaitRel o s
  | .cwaitLnd o => Sys2Proof.Machine.execCwaitLnd o s
  | .town o => Sys2Proof.Machine.execTown o s
  | .binit o => Sys2Proof.Machine.execBinit o s
  | .barv o => Sys2Proof.Machine.execBarv o s
  | .bwait o => Sys2Proof.Machine.execBwait o s
  | .bsync o => Sys2Proof.Machine.execBsync o s
  | .tspawn o => Sys2Proof.Machine.execTspawn o s
  | .qinit o => Sys2Proof.Machine.execQinit o s
  | .qpush o => Sys2Proof.Machine.execQpush o s
  | .qpushC o => Sys2Proof.Machine.execQpushC o s
  | .qpushAmp o => Sys2Proof.Machine.execQpushAmp o s
  | .qpushClose o => Sys2Proof.Machine.execQpushClose o s
  | .qpop o => Sys2Proof.Machine.execQpop o s
  | .qpopE o => Sys2Proof.Machine.execQpopE o s
  | .macq o => Sys2Proof.Machine.execMacq o s
  | .mrel o => Sys2Proof.Machine.execMrel o s
  | .mma o => Sys2Proof.Machine.execMma o s
  | .mzero o => Sys2Proof.Machine.execMzero o s
  | .mdrn o => Sys2Proof.Machine.execMdrn o s
  | .mlda o => Sys2Proof.Machine.execMlda o s
  | .apop o => Sys2Proof.Machine.execApop o s
  | .geval o => Sys2Proof.Machine.execGeval o s
  | .gcfg o => Sys2Proof.Machine.execGcfg o s
  | .rast o => Sys2Proof.Machine.execRast o s
  | .bina o => Sys2Proof.Machine.execBina o s
  | .binaClr o => Sys2Proof.Machine.execBinaClr o s
  | .occr o => Sys2Proof.Machine.execOccr o s
  | .occrClr o => Sys2Proof.Machine.execOccrClr o s
  | .rgacq o => Sys2Proof.Machine.execRgacq o s
  | .rgrelPub o => Sys2Proof.Machine.execRgrelPub o s
  | .rgrelRel o => Sys2Proof.Machine.execRgrelRel o s
  | .rghold o => Sys2Proof.Machine.execRghold o s
  | .sread o => Sys2Proof.Machine.execSread o s
  | .swrite o => Sys2Proof.Machine.execSwrite o s
  | .trap o => Sys2Proof.Machine.execTrap o s
  | .tret o => Sys2Proof.Machine.execTret o s
  | .tretEnd o => Sys2Proof.Machine.execTretEnd o s
  | .bkpt o => Sys2Proof.Machine.execBkpt o s
  | .tlbiPage o => Sys2Proof.Machine.execTlbiPage o s
  | .tlbiAsid o => Sys2Proof.Machine.execTlbiAsid o s
  | .tlbiAll o => Sys2Proof.Machine.execTlbiAll o s
  | .ctxsvCopy o => Sys2Proof.Machine.execCtxsvCopy o s
  | .ctxsvRel o => Sys2Proof.Machine.execCtxsvRel o s
  | .ctxsvWg o => Sys2Proof.Machine.execCtxsvWg o s
  | .ctxldRegs o => Sys2Proof.Machine.execCtxldRegs o s
  | .ctxldFull o => Sys2Proof.Machine.execCtxldFull o s
  | .ctxldWg o => Sys2Proof.Machine.execCtxldWg o s
  | .roleq o => Sys2Proof.Machine.execRoleq o s
  | .launchQueueWrite lqt => Sys2Proof.Machine.execLaunchQueueWrite lqt s
  | .launchAdmission => Sys2Proof.Machine.execLaunchAdmission s
  | .gangStart lid w => Sys2Proof.Machine.execGangStart lid w s
  | .workgroupExited core slot => Sys2Proof.Machine.execWorkgroupExited core slot s
  | .pickerDecision core pipe => Sys2Proof.Machine.execPickerDecision core pipe s
  | .agingPromotion core slot crew ca => Sys2Proof.Machine.execAgingPromotion core slot crew ca s
  | .starvedBucket core slot crew ca => Sys2Proof.Machine.execStarvedBucket core slot crew ca s
  | .classPreemption core pipe => Sys2Proof.Machine.execClassPreemption core pipe s
  | .threadWake t => Sys2Proof.Machine.execThreadWake t s
  | .waittWake t => Sys2Proof.Machine.execWaittWake t s
  | .registerSpill t regs => Sys2Proof.Machine.execRegisterSpill t regs s
  | .registerRefill t r => Sys2Proof.Machine.execRegisterRefill t r s
  | .callStackTransfer t => Sys2Proof.Machine.execCallStackTransfer t s
  | .pageWalk cluster asid va turn => Sys2Proof.Machine.execPageWalk cluster asid va turn s
  | .faultRecord => Sys2Proof.Machine.execFaultRecord s
  | .faultAnswerRetry fid => Sys2Proof.Machine.execFaultAnswerRetry fid s
  | .faultAnswerFail fid => Sys2Proof.Machine.execFaultAnswerFail fid s
  | .faultBufferConfig v => Sys2Proof.Machine.execFaultBufferConfig v s
  | .detectionStallEnd t => Sys2Proof.Machine.execDetectionStallEnd t s
  | .mmxCapacityTimeout t => Sys2Proof.Machine.execMmxCapacityTimeout t s
  | .tspawnTimeout core pipe => Sys2Proof.Machine.execTspawnTimeout core pipe s
  | .rowQueueTimeout cluster => Sys2Proof.Machine.execRowQueueTimeout cluster s
  | .taskDispatch cluster entry coreRole => Sys2Proof.Machine.execTaskDispatch cluster entry coreRole s
  | .stripAdmission slot => Sys2Proof.Machine.execStripAdmission slot s
  | .chainFinish slot n => Sys2Proof.Machine.execChainFinish slot n s
  | .ringPublish ring slot => Sys2Proof.Machine.execRingPublish ring slot s
  | .slotSettleAtExit ring slot => Sys2Proof.Machine.execSlotSettleAtExit ring slot s
  | .serialiserStripNeed unit => Sys2Proof.Machine.execSerialiserStripNeed unit s
  | .serialiserLine unit => Sys2Proof.Machine.execSerialiserLine unit s
  | .linkTraining unit rate lanes bpc => Sys2Proof.Machine.execLinkTraining unit rate lanes bpc s
  | .encoderSuperblockRow slot => Sys2Proof.Machine.execEncoderSuperblockRow slot s
  | .bsrdWrite slot v => Sys2Proof.Machine.execBsrdWrite slot v s
  | .planEnable slot v => Sys2Proof.Machine.execPlanEnable slot v s
  | .planDisable slot => Sys2Proof.Machine.execPlanDisable slot s
  | .dtcTick => Sys2Proof.Machine.execDtcTick s
  | .adjWrite v => Sys2Proof.Machine.execAdjWrite v s
  | .stepvWrite v => Sys2Proof.Machine.execStepvWrite v s
  | .ptpEventTimestamp message => Sys2Proof.Machine.execPtpEventTimestamp message s
  | .ptpAnnounceTimeout heard => Sys2Proof.Machine.execPtpAnnounceTimeout heard s
  | .copyLanding core ch => Sys2Proof.Machine.execCopyLanding core ch s
  | .passGrant cluster => Sys2Proof.Machine.execPassGrant cluster s
  | .passComplete cluster => Sys2Proof.Machine.execPassComplete cluster s
  | .grammarEvaluation cluster => Sys2Proof.Machine.execGrammarEvaluation cluster s
  | .evaluationEnd cluster => Sys2Proof.Machine.execEvaluationEnd cluster s
  | .evaluationRowPush cluster pitch => Sys2Proof.Machine.execEvaluationRowPush cluster pitch s
  | .drainExecution cluster => Sys2Proof.Machine.execDrainExecution cluster s
  | .loadBackExecution cluster => Sys2Proof.Machine.execLoadBackExecution cluster s
  | .accumulatorClear cluster => Sys2Proof.Machine.execAccumulatorClear cluster s
  | .pitchRelease cluster pitch => Sys2Proof.Machine.execPitchRelease cluster pitch s
  | .freezeRequest cluster on => Sys2Proof.Machine.execFreezeRequest cluster on s
  | .freezeDone cluster => Sys2Proof.Machine.execFreezeDone cluster s
  | .rastOperation cluster => Sys2Proof.Machine.execRastOperation cluster s
  | .handlerContextStart t => Sys2Proof.Machine.execHandlerContextStart t s
  | .holdRequest core slot hold svc => Sys2Proof.Machine.execHoldRequest core slot hold svc s
  | .serviceContextStart core slot => Sys2Proof.Machine.execServiceContextStart core slot s
  | .restoreGo core => Sys2Proof.Machine.execRestoreGo core s
  | .correctedError unit index => Sys2Proof.Machine.execCorrectedError unit index s
  | .uncorrectableError w => Sys2Proof.Machine.execUncorrectableError w s
  | .unitRetirement cluster testOk => Sys2Proof.Machine.execUnitRetirement cluster testOk s
  | .clusterStopTrigger cluster src idx => Sys2Proof.Machine.execClusterStopTrigger cluster src idx s
  | .clusterStopArrival core => Sys2Proof.Machine.execClusterStopArrival core s
  | .stopComplete cluster => Sys2Proof.Machine.execStopComplete cluster s
  | .thaw cluster => Sys2Proof.Machine.execThaw cluster s
  | .dump cluster => Sys2Proof.Machine.execDump cluster s
  | .debugStep cluster => Sys2Proof.Machine.execDebugStep cluster s
  | .sampleRecord core pipe => Sys2Proof.Machine.execSampleRecord core pipe s
  | .traceSummary core => Sys2Proof.Machine.execTraceSummary core s
  | .trailEnable cluster v => Sys2Proof.Machine.execTrailEnable cluster v s
  | .replayDivergence cluster => Sys2Proof.Machine.execReplayDivergence cluster s
  | .checkpointGo halt => Sys2Proof.Machine.execCheckpointGo halt s
  | .checkpointComplete ms portError => Sys2Proof.Machine.execCheckpointComplete ms portError s
  | .hostRdmaAccess write pa size data => Sys2Proof.Machine.execHostRdmaAccess write pa size data s
  | .ringDescriptorWrite ring word v => Sys2Proof.Machine.execRingDescriptorWrite ring word v s
  | .attestationRequest nonce => Sys2Proof.Machine.execAttestationRequest nonce s
  | .bringUp b => Sys2Proof.Machine.execBringUp b s
  | .thermalHold celsius => Sys2Proof.Machine.execThermalHold celsius s
  | .thermalTrip celsius => Sys2Proof.Machine.execThermalTrip celsius s
  | .powerCapWrite watts => Sys2Proof.Machine.execPowerCapWrite watts s
  | .registerWrite pa v level => Sys2Proof.Machine.execRegisterWrite pa v level s
  | .memoryAccessPerformed k evict => Sys2Proof.Machine.execMemoryAccessPerformed k evict s
  | .xfnResultWritten t => Sys2Proof.Machine.execXfnResultWritten t s
  | .checkpointRestore => Sys2Proof.Machine.execCheckpointRestore s
  | .firmwareUpload image => Sys2Proof.Machine.execFirmwareUpload image s
  | .ptpMessageReceived port m => Sys2Proof.Machine.execPtpMessageReceived port m s
  | .rdmaConnectionSetup peer chunks => Sys2Proof.Machine.execRdmaConnectionSetup peer chunks s

end Sys2Proof.Machine
end

