-- ==== Sys2Proof/Machine/Step.lean ====
section
/-! DEFINITION. One step: the next turn of the agenda (DESIGN CHOICE, log 1), and how a single instruction is put before the step. -/

namespace Sys2Proof.Machine

/-- What a pipe's turn leaves to do: the end of a debug step that ran its pack (R312). `before` is the pack as the turn began. -/
def afterTurn (before : Option Pack) (r : Host.Outcome State Fault Refusal) : Host.Outcome State Fault Refusal :=
  match r with
  | .next s => .next (s.afterTurn before)
  | .fault f => .fault f
  | .refused r => .refused r

/-- A pipe's turn: the word of its pack is fetched, decoded and executed. -/
def pipeTurn (s : State) (core pipe : Nat) : Host.Outcome State Fault Refusal :=
  afterTurn (s.pack? core pipe) (match s.issueTurn core pipe with
    | .idle s1 => .next s1
    | .word i s1 => exec i s1)

/-- A device event takes place; a host write that comes during a checkpoint is held (R327). -/
def eventTurn (s : State) (i : Instr) : Host.Outcome State Fault Refusal :=
  match s.hostHeld i with
  | some s1 => .next s1
  | none => exec i s

/-- ONE STEP: the first turn of the agenda. With an empty agenda the only agent that moves is the clock. -/
def step (s : State) : Host.Outcome State Fault Refusal :=
  match s.agenda with
  | [] => exec .dtcTick { s with cur := none }
  | .event i :: rest => eventTurn { s with agenda := rest, cur := none } i
  | .issue core pipe :: rest => pipeTurn { s with agenda := rest, cur := none } core pipe

/-- The state with an instruction placed where the step fetches its next: a launch of one thread in cluster 0, core 0, whose pack
stands before the instruction (DESIGN CHOICE, log 13). -/
def State.withFetchWord (s : State) (nbits w : Nat) : State := s.placeWord (w % 2 ^ max nbits 64)

end Sys2Proof.Machine
end

