-- ==== Sys2Proof/Safety.lean ====
section
/-! DEFINITION. What counts as a safe run, and the terms the statements use: the canonical form of the memories, when a word executes,
and how the one thread of a pack retires it. -/

namespace Sys2Proof

open Machine

/-- The memories and sparse registers of a state stand in canonical form. -/
def canonical (s : State) : Bool :=
  Memory.wf s.store.mem && Memory.wf s.store.scratch && Memory.wf s.store.awning &&
  sparseWf (0 : Word64) s.store.dregs && sparseWf (0 : Word32) s.store.acc

/-- A run of a number of steps that no fault and no refusal cuts short. -/
def runsOn (n : Nat) (s : State) : Prop := ∃ t, core.run n s = .next t

/-- The word `i` of pack `p` executes: the rows of R78 pass, no operand register is outstanding or spilled (R47, R104), the register
pools hold its results (R102), no active thread reads a lost register (R304), and no STEP trap follows it (R48). -/
def runs (i : Instr) (s : State) (p : Pack) : Bool :=
  decide (s.issuing = some p) && p.xrem.isNone && (s.wordFate i p).isNone && s.operandsReady (ctxOf p i) && (ctxOf p i).regRoom s &&
  ((ctxOf p i).actives s).all (fun n => match s.thread? n with
    | some t => ((ctxOf p i).reads.find? (fun v => t.reg? v == some .bad)).isNone
    | none => true) &&
  p.threads.all (fun n => !(hStep p.hdr && s.stepOn n.core))

/-- The word `i` of pack `p` executes, and `t` is the pack's one thread, with its guard or mask true. -/
structure Lone (i : Instr) (s : State) (p : Pack) (t : Thread) : Prop where
  go : runs i s p = true
  threads : p.threads = [t.name]
  found : s.thread? t.name = some t
  active : (ctxOf p i).active t = true

/-- The word `i` of pack `p` retires with what its threads have come to, after an effect that took state `b` to `s`: the order of its
registers' use and the pools of new ones are kept (R102, R103), and each thread goes on as R45 says, or traps after the word (R294). -/
def retired (i : Instr) (p : Pack) (b s : State) (outs : List Out) : State :=
  (s.wordRegs b (ctxOf p i) outs).retire (ctxOf p i) outs (nextHalves i p.pb).1 (nextHalves i p.pb).2

/-- A pack's one thread retires the word with a fate and the causes given to deliver after it: its kill bits take effect first (R58). -/
def finish (i : Instr) (p : Pack) (n : ThreadName) (b s : State) (fate : Fate) (after : List TrapInfo := []) : State :=
  retired i p b (s.kill n i) [{ name := n, fate := fate, after := after }]

/-- Nothing of the debug unit sees an access: no watchpoint is set, and cluster `k` neither logs nor replays (R308, R316). -/
def unwatched (s : State) (k : Nat) : Bool := s.watchpoints.isEmpty && !(s.logging k) && !(s.replaying k)

end Sys2Proof
end

