-- ==== Sys2Proof/Safety/Control.lean ====
section
/-! DEFINITION. What a control-transfer word does to the thread of a pack, clause by clause as its reference entry says. -/

namespace Sys2Proof

open Machine

/-- `ControlRule s p t i s1 fate`: the word `i` of pack `p` takes thread `t` from state `s` to `s1`, and sends it where `fate` says. -/
inductive ControlRule (s : State) (p : Pack) (t : Thread) : Instr → State → Fate → Prop where
  /-- R354, R299: a taken branch leaves the loops that its target lies outside of. -/
  | bra (o : CtOp) :
    ControlRule s p t (.bra o) (s.modThread t.name (fun t => { t with loops := unwind (relTarget p.ca o.off) t.depth t.loops }))
      (.jump (relTarget p.ca o.off))
  /-- R355: the target is the register pair plus 8·OFF32; it is aligned and lies below 2^57. -/
  | brx (o : CtOp) (aligned : pairTarget t o.a o.off % 8 = 0) (low : pairTarget t o.a o.off < 2 ^ 57) :
    ControlRule s p t (.brx o)
      (s.modThread t.name (fun x => { x with loops := unwind (BitVec.ofNat 57 (pairTarget t o.a o.off)) x.depth x.loops }))
      (.jump (BitVec.ofNat 57 (pairTarget t o.a o.off)))
  /-- R360, R9: the clause after this one is pushed in hardware. -/
  | call (o : CtOp) (shallow : t.depth < 8) :
    ControlRule s p t (.call o)
      (s.modThread t.name (fun x => { x with depth := x.depth + 1, calls := ((afterClause p.ca p.hdr).setWidth 64 :: x.calls).take 8 }))
      (.jump (relTarget p.ca o.off))
  | callx (o : CtOp) (shallow : t.depth < 8) (aligned : pairTarget t o.a o.off % 8 = 0) (low : pairTarget t o.a o.off < 2 ^ 57) :
    ControlRule s p t (.callx o)
      (s.modThread t.name (fun x => { x with depth := x.depth + 1, calls := ((afterClause p.ca p.hdr).setWidth 64 :: x.calls).take 8 }))
      (.jump (BitVec.ofNat 57 (pairTarget t o.a o.off)))
  /-- R9, R360: a call at a depth of 8 or more waits for the oldest hardware entry to be written to memory. -/
  | callDeep (o : CtOp) (deep : 8 ≤ t.depth) (room : t.depth < callLimit t) :
    ControlRule s p t (.call o)
      (s.modThread t.name (fun x => { x with
        callXfer := some { entry := t.depth - 8, store := some (t.calls.getLast?.getD 0), target := (relTarget p.ca o.off).setWidth 64, fid := none } }))
      (.wait .calls)
  /-- R422: the newest return address is popped. -/
  | ret (o : CtOp) (called : 0 < t.depth) (shallow : t.depth ≤ 8) (aligned : (t.calls.headD 0).toNat % 8 = 0)
    (low : (t.calls.headD 0).toNat < 2 ^ 57) :
    ControlRule s p t (.ret o) (s.modThread t.name (fun x => { x with depth := x.depth - 1, calls := x.calls.tail }))
      (.jump ((t.calls.headD 0).setWidth 57))
  /-- R422, R9: at a depth above 8 the return waits for the next older entry to be read back from memory. -/
  | retDeep (o : CtOp) (deep : 8 < t.depth) :
    ControlRule s p t (.ret o)
      (s.modThread t.name (fun x => { x with callXfer := some { entry := t.depth - 9, store := none, target := t.calls.headD 0, fid := none } }))
      (.wait .calls)
  /-- R422, R165: RET at depth 0 ends the thread as EXIT does, once its accesses are performed, and with them the stores of a thread that it
  ends as a handler (DEDUCED, log 98). -/
  | retEnd (o : CtOp) (top : t.depth = 0) (ready : endNeed (ctxOf p (.ret o)) s t = true) :
    ControlRule s p t (.ret o) (s.exitThread t.name) .gone
  /-- R373. -/
  | exit (o : CtOp) (ready : endNeed (ctxOf p (.exit o)) s t = true) : ControlRule s p t (.exit o) (s.exitThread t.name) .gone
  /-- R431: an index beyond the table falls through. -/
  | switchPast (o : CtOp) (beyond : o.sub12.toNat + 1 ≤ (if o.a == 127 then hLit32 p.hdr else t.regsVal o.a.toNat 1)) :
    ControlRule s p t (.switch o) s .next
  /-- R431: the table is a DATA clause; its entry is an offset from the present clause. -/
  | switch (o : CtOp) (i : Nat) (h w : Word64) (s1 s2 : State)
    (index : i = (if o.a == 127 then hLit32 p.hdr else t.regsVal o.a.toNat 1)) (inside : i < o.sub12.toNat + 1)
    (header : s.fetch t.name.core (s.asidOf t.name) t.level (relTarget p.ca o.off) = .ok h s1)
    (data : hSig h = 0xA5 ∧ hCls h = 7 ∧ 4 * (o.sub12.toNat + 1) ≤ 8 * (hNi h + 1))
    (entry : s1.fetch t.name.core (s.asidOf t.name) t.level (relTarget p.ca o.off + BitVec.ofNat 57 (8 + 8 * (i / 2))) = .ok w s2) :
    ControlRule s p t (.switch o)
      (s2.modThread t.name (fun x => { x with loops := unwind (relTarget p.ca (w.extractLsb' (32 * (i % 2)) 32)) x.depth x.loops }))
      (.jump (relTarget p.ca (w.extractLsb' (32 * (i % 2)) 32)))
  /-- R397: a count of zero passes over the end clause. -/
  | loopNone (o : CtOp) (zero : (if o.sub12.getLsbD 11 then (if o.a == 127 then hLit32 p.hdr else (t.reg o.a.toNat).toNat) else bits o.sub12.toNat 10 0) = 0) :
    ControlRule s p t (.loop o) s (.over (relTarget p.ca o.off))
  /-- R397: the loop is pushed with its start at the next clause. -/
  | loop (o : CtOp) (n : Nat)
    (count : n = (if o.sub12.getLsbD 11 then (if o.a == 127 then hLit32 p.hdr else (t.reg o.a.toNat).toNat) else bits o.sub12.toNat 10 0))
    (some_ : n ≠ 0) (room : t.loops.length < 4) :
    ControlRule s p t (.loop o)
      (s.modThread t.name (fun x => { x with
        loops := { start := afterClause p.ca p.hdr, stop := relTarget p.ca o.off, count := BitVec.ofNat 32 n, depth := t.depth } :: x.loops }))
      (.jump (afterClause p.ca p.hdr))
  /-- R398: the break form pops the top loop of the present depth and passes over its end clause. -/
  | lpop (o : CtOp) (x : LoopEntry) (r : List LoopEntry) (top : t.loops = x :: r) (mine : x.depth = t.depth) :
    ControlRule s p t (.lpop o) (s.modThread t.name (fun y => { y with loops := r })) (.over x.stop)
  /-- R398: DROP pops it and continues. -/
  | lpopDrop (o : CtOp) (x : LoopEntry) (r : List LoopEntry) (top : t.loops = x :: r) (mine : x.depth = t.depth) :
    ControlRule s p t (.lpopDrop o) (s.modThread t.name (fun y => { y with loops := r })) .next
  /-- R398: with no loop of the present depth nothing is popped. -/
  | lpopNone (o : CtOp) (none_ : ∀ x, t.loops.head? = some x → x.depth ≠ t.depth) : ControlRule s p t (.lpop o) s .next
  | lpopDropNone (o : CtOp) (none_ : ∀ x, t.loops.head? = some x → x.depth ≠ t.depth) : ControlRule s p t (.lpopDrop o) s .next
  /-- R448. -/
  | yield (o : CtOp) : ControlRule s p t (.yield o) s .yielded
  /-- R438: a time that has come does not wait; the time is that of the pair, or the literal (R55). -/
  | waittAbsPast (o : CtOp) (past : (if o.a == 127 then hLit32 p.hdr else t.regsVal o.a.toNat 2) ≤ s.dtcNs) : ControlRule s p t (.waittAbs o) s .next
  | waittAbs (o : CtOp) (future : s.dtcNs < (if o.a == 127 then hLit32 p.hdr else t.regsVal o.a.toNat 2)) :
    ControlRule s p t (.waittAbs o) s (.wait (.time (if o.a == 127 then hLit32 p.hdr else t.regsVal o.a.toNat 2)))
  | waittRelPast (o : CtOp) (zero : o.off = 0) : ControlRule s p t (.waittRel o) s .next
  | waittRel (o : CtOp) (later : o.off ≠ 0) : ControlRule s p t (.waittRel o) s (.wait (.time (s.dtcNs + o.off.toNat)))

end Sys2Proof
end

