-- ==== Sys2Proof/Safety/Memory.lean ====
section
/-! DEFINITION. What a memory word does for the thread of a pack, and what an outstanding access does when it is performed, clause by
clause as the reference entries say. -/

namespace Sys2Proof

open Machine

/-! ## Accesses performed before their word retires -/

/-- A scratchpad access once it may be performed: dirty lines first where it releases, the bytes and the result, then the lines dropped
where it acquires; a synchronising access ends the thread's region (R146, R165, R166, R170, R339, R388, R391, R430). -/
def scratchDone (q : Outstanding) (core a : Nat) (s : State) : State :=
  let s1 := if q.releases then s.release q.thread.core q.scope else s
  let old := s1.scratchVal core a q.bytes
  let s2 := match q.kind with
    | .store => s1.scratchStore q.lid core a (leBytes q.data.toNat q.bytes)
    | .atomic => (s1.scratchStore q.lid core a (leBytes (atomNew q.aop (8 * q.bytes) old q.data.toNat) q.bytes)).writeResult q old
    | _ => s1.writeResult q (q.extend old)
  (if q.acquires then s2.acquire q.thread.core q.scope else s2).closeIf q

/-- A global access at its home or in the core's L1, in the same order; a release writes back again what it has itself made dirty, and what a
thread that has ended stores is released at once (R146 to R149, R165, R170, R339, R388, R420, R430). -/
def memoryDone (q : Outstanding) (pa leaf : Nat) (s : State) : State :=
  let s1 := if q.releases then s.release q.thread.core q.scope else s
  let s2 := s1.performData q pa leaf
  let s3 := if q.releases then s2.release q.thread.core q.scope else s2
  let s4 := if q.writes && s.ended q.thread then s3.release q.thread.core 5 else s3
  if q.acquires then s4.acquire q.thread.core q.scope else s4

/-- An access to device registers (R157). -/
def deviceDone (q : Outstanding) (pa : Nat) (s : State) : State :=
  let s1 := if q.releases then s.release q.thread.core q.scope else s
  let s2 := s1.performDevice q pa
  if q.acquires then s2.acquire q.thread.core q.scope else s2

/-- The state after the table reads that translating an address for a thread makes (R308). -/
def walked (s : State) (t : Thread) (a : Nat) : State := s.walkSeen (.core t.name.core) (s.asidOf t.name) a

/-- The request of a memory word. -/
def requestOf (i : Instr) : Option ReqFn :=
  match i with
  | .ld o => some (reqLd o) | .st o => some (reqSt o) | .lds o => some (reqLds o) | .sts o => some (reqSts o)
  | .atom o => some (reqAtom o) | .atoms o => some (reqAtoms o) | .red o => some (reqRed o) | .ldw o => some (reqLdw o)
  | _ => none

/-- The full address and the request of a memory word for a thread, marked as one of the word's accesses (R178). -/
def accessOf (req : ReqFn) (i : Instr) (s : State) (p : Pack) (t : Thread) : Nat × Outstanding :=
  ((req (ctxOf p i) s t).1, { (req (ctxOf p i) s t).2 with batch := s.work.waitOrder + 1 })

/-- A scratchpad access reaches bytes `a` on of a core (R144, R145). -/
structure ToScratch (s : State) (addr : Nat) (q : Outstanding) (core a : Nat) : Prop where
  aligned : addr % q.bytes = 0
  local_ : q.peer.isSome = true
  reach : s.reach q = .ok core a

/-- It may be performed at once: it awaits no delivery (R391, R392) and need not follow an earlier access (R170); and, with its place in the
order of accesses taken, no tile forbids it (R183), its granules conflict with no other thread (R177), leaving `s1`, and no byte is lost
(R304). -/
structure AtScratch (s : State) (addr : Nat) (q : Outstanding) (core a : Nat) (s1 : State) : Prop extends ToScratch s addr q core a where
  delivered : q.lch = none ∨ s.streamAt core a q.bytes = none
  order : s.behind q = false
  owner : s.nextOrder.2.ownerCheck core a q.bytes q.writes = none
  records : s.nextOrder.2.conflictCheck q (some core) a = .ok s1
  sound : s1.scratchPoisoned core a q.bytes = false

/-- A global access is translated to physical address `pa` under a leaf (R149 to R157). -/
structure AtMemory (s : State) (addr : Nat) (q : Outstanding) (pa leaf : Nat) : Prop where
  aligned : addr % q.bytes = 0
  global : q.peer = none
  canonical : addr < 2 ^ 57
  found : s.xlat (.core q.thread.core) q.asid addr q.level { write := q.writes, thread := true, bytes := q.bytes } = .ok pa leaf

/-- Must a global access be performed before its word retires: on a CHECKED page, synchronising, or an atomic (R162, R165, R177; DESIGN
CHOICE, log 93)? -/
def atOnce (q : Outstanding) (leaf : Nat) : Bool := bit leaf 61 || q.sync || q.kind == .atomic

/-- The counts of R47 have room for a word's access, and no access holds the region open that a synchronising one closes (R162). -/
def countsRoom (s : State) (q : Outstanding) : Prop :=
  (q.kind = .store ∨ q.kind = .red ∨ s.loadsOut q.thread < 63) ∧ (q.kind = .load ∨ s.storesOut q.thread < 63) ∧
  (q.sync = false ∨ s.openAccess q.thread = false)

/-- An access put among the outstanding ones as its word retires: a synchronising one ends the thread's region (R12). -/
def laterOut (s : State) (q : Outstanding) : State := (s.putOut q).closeIf q

/-- `AccessRule s p t i s1`: the memory word `i` of pack `p` takes thread `t` from `s` to `s1`. -/
inductive AccessRule (s : State) (p : Pack) (t : Thread) (i : Instr) : State → Prop where
  /-- Scratchpad words: LDS, STS, ATOMS, LDW. -/
  | scratch (req : ReqFn) (core a : Nat) (s1 : State) (word : requestOf i = some req)
    (may : AtScratch s (accessOf req i s p t).1 (accessOf req i s p t).2 core a s1) (unlogged : unwatched s (clusterOf core) = true) :
    AccessRule s p t i (scratchDone (accessOf req i s p t).2 core a s1)
  /-- R145: the access to a member that has not started waits after its word. -/
  | member (req : ReqFn) (word : requestOf i = some req) (aligned : (accessOf req i s p t).1 % (accessOf req i s p t).2.bytes = 0)
    (local_ : (accessOf req i s p t).2.peer.isSome = true) (waits : s.reach (accessOf req i s p t).2 = .wait) :
    AccessRule s p t i (laterOut s (accessOf req i s p t).2)
  /-- R147, R162, R170: so does a scratchpad access that must follow an earlier one of its thread. -/
  | scratchBehind (req : ReqFn) (core a : Nat) (word : requestOf i = some req)
    (may : ToScratch s (accessOf req i s p t).1 (accessOf req i s p t).2 core a)
    (delivered : (accessOf req i s p t).2.lch = none ∨ s.streamAt core a (accessOf req i s p t).2.bytes = none)
    (order : s.behind (accessOf req i s p t).2 = true) :
    AccessRule s p t i (laterOut s (accessOf req i s p t).2)
  /-- R392: and an LDW whose bytes have not been delivered on its channel. -/
  | delivery (req : ReqFn) (core a ch : Nat) (word : requestOf i = some req)
    (may : ToScratch s (accessOf req i s p t).1 (accessOf req i s p t).2 core a) (channel : (accessOf req i s p t).2.lch = some ch)
    (stream : s.streamAt core a (accessOf req i s p t).2.bytes = some ch) (waits : s.ldwWaits (accessOf req i s p t).2 core a = true) :
    AccessRule s p t i (laterOut s (accessOf req i s p t).2)
  /-- R47, R162: LD, ST and RED that are neither checked nor synchronising are outstanding once translated; one that meets a poisoned unit is
  not, unless it must follow an earlier access (R304). -/
  | later (req : ReqFn) (pa leaf : Nat) (word : requestOf i = some req)
    (may : AtMemory s (accessOf req i s p t).1 (accessOf req i s p t).2 pa leaf) (memory : bits leaf 57 56 ≠ 1)
    (plain : atOnce (accessOf req i s p t).2 leaf = false)
    (sound : s.accessPoisoned (accessOf req i s p t).2 pa leaf = false ∨
      s.behind { (accessOf req i s p t).2 with tr := some (pa, leaf) } = true) :
    AccessRule s p t i (laterOut (walked s t (accessOf req i s p t).1)
      { (accessOf req i s p t).2 with tr := some (pa, leaf), page := s.pageOf (accessOf req i s p t).2 (some (pa, leaf)) })
  /-- R162, R165, R177: checked, synchronising and atomic accesses are performed at the word. -/
  | now (req : ReqFn) (pa leaf : Nat) (s1 : State) (word : requestOf i = some req)
    (may : AtMemory s (accessOf req i s p t).1 (accessOf req i s p t).2 pa leaf) (memory : bits leaf 57 56 ≠ 1)
    (once : atOnce (accessOf req i s p t).2 leaf = true)
    (order : s.behind { (accessOf req i s p t).2 with tr := some (pa, leaf) } = false)
    (records : (if bit leaf 61 then s.nextOrder.2.conflictCheck (accessOf req i s p t).2 none pa else .ok s.nextOrder.2) = .ok s1)
    (sound : s1.accessPoisoned (accessOf req i s p t).2 pa leaf = false)
    (unlogged : unwatched s (homeCluster pa) = true) :
    AccessRule s p t i ((memoryDone (accessOf req i s p t).2 pa leaf s1).closeIf (accessOf req i s p t).2)
  /-- R147, R162, R170, R172: one that must follow an earlier access of its thread waits after its word. -/
  | behind (req : ReqFn) (pa leaf : Nat) (word : requestOf i = some req)
    (may : AtMemory s (accessOf req i s p t).1 (accessOf req i s p t).2 pa leaf) (memory : bits leaf 57 56 ≠ 1)
    (once : atOnce (accessOf req i s p t).2 leaf = true)
    (order : s.behind { (accessOf req i s p t).2 with tr := some (pa, leaf) } = true) :
    AccessRule s p t i (laterOut (walked s t (accessOf req i s p t).1)
      { (accessOf req i s p t).2 with tr := some (pa, leaf), page := s.pageOf (accessOf req i s p t).2 (some (pa, leaf)) })
  /-- R157: an access to device registers. -/
  | device (req : ReqFn) (pa leaf : Nat) (word : requestOf i = some req)
    (may : AtMemory s (accessOf req i s p t).1 (accessOf req i s p t).2 pa leaf) (device : bits leaf 57 56 = 1)
    (simple : (accessOf req i s p t).2.kind = .load ∨ (accessOf req i s p t).2.kind = .store)
    (order : s.behind { (accessOf req i s p t).2 with tr := some (pa, leaf) } = false) (unseen : s.watchpoints = []) :
    AccessRule s p t i ((deviceDone (accessOf req i s p t).2 pa s.nextOrder.2).closeIf (accessOf req i s p t).2)
  /-- R161: a global access that takes a replayable fault parks, and its word retires. -/
  | parked (req : ReqFn) (level : Nat) (word : requestOf i = some req) (aligned : (accessOf req i s p t).1 % (accessOf req i s p t).2.bytes = 0)
    (global : (accessOf req i s p t).2.peer = none) (canonical : (accessOf req i s p t).1 < 2 ^ 57)
    (fault : s.xlat (.core (accessOf req i s p t).2.thread.core) (accessOf req i s p t).2.asid (accessOf req i s p t).1
      (accessOf req i s p t).2.level { write := (accessOf req i s p t).2.writes, thread := true, bytes := (accessOf req i s p t).2.bytes }
        = .park level) :
    AccessRule s p t i
      (let q := (accessOf req i s p t).2
       let s1 := (walked s t (accessOf req i s p t).1).parkFault q.asid q.faultKind level (accessOf req i s p t).1
       laterOut s1.2 { q with fid := some s1.1 })

/-! ## Fences, cache control, uniform registers -/

/-- The cache words that name a line. -/
def lineWord (i : Instr) : Option MrOp := match i with | .cctlWb o | .cctlWbinv o | .cctlIinv o => some o | _ => none

/-- A list with the values `v` put at place `n` and after it. -/
def putRun (l : List Word32) (n : Nat) (v : List Word32) : List Word32 :=
  (v.zip (List.range v.length)).foldl (fun l x => setAt l (n + x.2) x.1) l

/-- `CacheRule s p t i s1`: FENCE, CCTL and WSET. -/
inductive CacheRule (s : State) (p : Pack) (t : Thread) : Instr → State → Prop where
  /-- R379: the release part, the end of the region, the acquire part. -/
  | fence (o : MrOp) (waits : s.syncWaits t.name (o.ord.getLsbD 0) (o.ord.getLsbD 1) = false) :
    CacheRule s p t (.fence o)
      (let s1 := (if o.ord.getLsbD 1 then s.release t.name.core o.scope.toNat else s).closeRegion t.name
       if o.ord.getLsbD 0 then s1.acquire t.name.core o.scope.toNat else s1)
  /-- R361: WB, WBINV and IINV act on the line of the translated address. -/
  | line (i : Instr) (o : MrOp) (a : Nat) (x : Trans) (word : lineWord i = some o) (room : s.storesOut t.name < 63 ∨ i = .cctlIinv o)
    (addr : a = globalAddr (ctxOf p i) t o (mrOff o 20)) (low : a < 2 ^ 57)
    (found : s.translate (.core t.name.core) (s.asidOf t.name) a = .found x) (cached : lineCached x.leaf.toNat = true)
    (order : copOf o.off = 2 ∨
      (walked s t a).behind { (reqCctl o (ctxOf p i) s t).2 with tr := some ((x.pa + (a - x.va)) / 128 * 128, x.leaf.toNat) } = false) :
    CacheRule s p t i ((walked s t a).cacheOp t.name.core (copOf o.off) (x.pa + (a - x.va)))
  /-- R361: on a page without cached lines nothing happens. -/
  | lineNone (i : Instr) (o : MrOp) (a : Nat) (x : Trans) (word : lineWord i = some o) (room : s.storesOut t.name < 63 ∨ i = .cctlIinv o)
    (addr : a = globalAddr (ctxOf p i) t o (mrOff o 20)) (low : a < 2 ^ 57)
    (found : s.translate (.core t.name.core) (s.asidOf t.name) a = .found x) (uncached : lineCached x.leaf.toNat = false) :
    CacheRule s p t i (walked s t a)
  /-- R361, R47: a write-back waits, counted among the stores, for the thread's earlier accesses to the line. -/
  | lineLater (i : Instr) (o : MrOp) (a : Nat) (x : Trans) (word : lineWord i = some o) (room : s.storesOut t.name < 63 ∨ i = .cctlIinv o)
    (addr : a = globalAddr (ctxOf p i) t o (mrOff o 20)) (low : a < 2 ^ 57)
    (found : s.translate (.core t.name.core) (s.asidOf t.name) a = .found x) (cached : lineCached x.leaf.toNat = true)
    (back : copOf o.off ≠ 2)
    (order : (walked s t a).behind { (reqCctl o (ctxOf p i) s t).2 with tr := some ((x.pa + (a - x.va)) / 128 * 128, x.leaf.toNat) } = true) :
    CacheRule s p t i ((walked s t a).putOut
      { (reqCctl o (ctxOf p i) s t).2 with tr := some ((x.pa + (a - x.va)) / 128 * 128, x.leaf.toNat), page := x.size })
  | wball (o : MrOp) (room : s.storesOut t.name < 63) (order : s.behind (reqCctl o (ctxOf p (.cctlWball o)) s t).2 = false) :
    CacheRule s p t (.cctlWball o) (s.cleanCore t.name.core)
  | wballLater (o : MrOp) (room : s.storesOut t.name < 63) (order : s.behind (reqCctl o (ctxOf p (.cctlWball o)) s t).2 = true) :
    CacheRule s p t (.cctlWball o) (s.putOut { (reqCctl o (ctxOf p (.cctlWball o)) s t).2 with tr := some (0, 0) })
  /-- R50, R361: the core fetches no older value of any code word from then on. -/
  | iinvall (o : MrOp) : CacheRule s p t (.cctlIinvall o) (s.iinv t.name.core (fun _ => true))
  /-- R361: a prefetch into L1 fetches the line, and never faults. -/
  | pf (o : MrOp) (a : Nat) (x : Trans) (addr : a = globalAddr (ctxOf p (.cctlPf o)) t o (mrOff o 20)) (low : a < 2 ^ 57) (here : o.pol = 0)
    (found : s.translate (.core t.name.core) (s.asidOf t.name) a = .found x) (cached : lineCached x.leaf.toNat = true)
    (unchecked : bit x.leaf.toNat 61 = false) :
    CacheRule s p t (.cctlPf o) (s.cacheOp t.name.core 5 (x.pa + (a - x.va)))
  | pfNone (o : MrOp) (out : 2 ^ 57 ≤ globalAddr (ctxOf p (.cctlPf o)) t o (mrOff o 20) ∨ o.pol ≠ 0) : CacheRule s p t (.cctlPf o) s
  | pfFault (o : MrOp) (level : Nat)
    (fault : s.translate (.core t.name.core) (s.asidOf t.name) (globalAddr (ctxOf p (.cctlPf o)) t o (mrOff o 20)) = .fault level) :
    CacheRule s p t (.cctlPf o) s
  /-- R439: the registers of the workgroup, from the data of the thread. -/
  | wset (o : MrOp) :
    CacheRule s p t (.wset o)
      (s.modGroup t.name.core t.name.slot (fun g => { g with
        uniform := putRun g.uniform (bits o.off.toNat 4 0) (cutRegs (dataOf (ctxOf p (.wset o)) t o.d (widthRegs o.width)) (widthRegs o.width)) }))

end Sys2Proof
end

