-- ==== Sys2Proof/Safety/ThreadEvents.lean ====
section
/-! DEFINITION. What the events of threads, pipes, accesses and trap handlers do where they are enabled, clause by clause. -/

namespace Sys2Proof

open Machine

/-- A thread that goes on from where it stands, ready from now (R36). -/
def readied (s : State) (n : ThreadName) : State := s.modThread n (fun t => { t with st := .ready, readyAt := s.now, waited := 0, held := 0 })

/-- An outstanding access that may be performed: it awaits no answer, and no earlier access of its thread (R47, R161, R170). -/
structure MayPerform (s : State) (o : Outstanding) : Prop where
  found : s.store.outst.find? (·.id == o.id) = some o
  unparked : o.fid = none
  order : s.behind o = false
  powered : s.control.fw.powerOff = false

/-- The state after the table reads of a translation for a thread (R308). -/
def reached (s : State) (t : Thread) (va : Nat) : State := s.walkSeen (.core t.name.core) (s.asidOf t.name) va

/-- A pipe of a core whose turn it is to decide, that takes no order from a replay, once the headers of the core have been read (R44, R98). -/
structure FreePipe (s : State) (core pipe : Nat) (s1 : State) : Prop where
  runs : s.pickerRuns core = true
  free : s.pack? core pipe = none
  turn : s.inPipeOrder core pipe = true
  entered : s.enterAll core = s1
  calm : unwatched s1 (clusterOf core) = true

/-- `ThreadEvent s i u`: an event of threads, packs and accesses takes a state `s` in which it is enabled to `u`. -/
inductive ThreadEvent (s : State) : Instr → State → Prop where
  /-- R98, R15: the pack of the bucket chosen begins on the pipe. -/
  | pick (core pipe : Nat) (s1 : State) (b : Bucket) (why : Why) (p : Pack) (at_ : FreePipe s core pipe s1)
    (choice : s1.decide_ core pipe = .take b why) (pack : b.pack core pipe 32 = some p) : ThreadEvent s (.pickerDecision core pipe) ((s1.takePack b p).decidedBy core pipe)
  /-- R105: the suspended pack chosen resumes at its word. -/
  | resume (core pipe : Nat) (s1 : State) (p : Pack) (at_ : FreePipe s core pipe s1) (choice : s1.decide_ core pipe = .resume p) :
    ThreadEvent s (.pickerDecision core pipe) ((s1.resumePack p pipe).decidedBy core pipe)
  /-- R39: the next decision of the first pipe that may make it takes a bucket that has waited 65,536 cycles behind INTERACTIVE issue. -/
  | aged (core pipe : Nat) (s1 : State) (b : Bucket) (p : Pack) (lowest : s.pipeFor core b.slot b.crew b.ca .aged = some pipe) (at_ : FreePipe s core pipe s1)
    (choice : s1.decide_ core pipe = .take b .aged) (pack : b.pack core pipe 32 = some p) :
    ThreadEvent s (.agingPromotion core b.slot b.crew b.ca) ((s1.takePack b p).decidedBy core pipe)
  /-- R100: it takes a bucket that has waited 1,024 cycles in its class. -/
  | starved (core pipe : Nat) (s1 : State) (b : Bucket) (p : Pack) (lowest : s.pipeFor core b.slot b.crew b.ca .starved = some pipe) (at_ : FreePipe s core pipe s1)
    (choice : s1.decide_ core pipe = .take b .starved) (pack : b.pack core pipe 32 = some p) :
    ThreadEvent s (.starvedBucket core b.slot b.crew b.ca) ((s1.takePack b p).decidedBy core pipe)
  /-- R96, R105: a pack of another class leaves its pipe for STRIP work that is ready. -/
  | preempt (core pipe : Nat) (s1 : State) (p : Pack) (runs : s.pickerRuns core = true) (entered : s.enterAll core = s1)
    (there : s1.pack? core pipe = some p) (class_ : p.cls ≠ 0) (boundary : p.spawned = []) (strip : ∃ b ∈ s1.buckets core, b.cls = 0) :
    ThreadEvent s (.classPreemption core pipe) (s1.cutPack core pipe false)
  /-- R36, R47: a thread BLOCKED at a header whose waits are met is READY. -/
  | headerMet (t : Thread) (h : Word64) (found : s.thread? t.name = some t) (st : t.st = .blocked .header) (header : t.hdr = some h)
    (met : s.waitsMet t h = true) (moves : s.stopped t.name.core = false) (powered : s.control.fw.powerOff = false) :
    ThreadEvent s (.threadWake t.name) (readied s t.name)
  /-- R161: a fetch whose fault record has been answered is made again. -/
  | fetchAnswered (t : Thread) (fid : Nat) (found : s.thread? t.name = some t) (st : t.st = .blocked (.fetch fid))
    (answered : s.faultOpen fid = false) (moves : s.stopped t.name.core = false) (powered : s.control.fw.powerOff = false) :
    ThreadEvent s (.threadWake t.name) (readied s t.name)
  /-- R201, R359: a barrier wait whose phase has completed is an acquire, and the word retires. -/
  | phaseMet (t : Thread) (g : Workgroup) (off scope : Nat) (phase : Bool) (found : s.thread? t.name = some t)
    (st : t.st = .blocked (.barrier off phase scope)) (group : s.groupOf t.name = some g) (met : (s.readBar g.core (g.base + off)).ph ≠ phase)
    (moves : s.stopped t.name.core = false) (powered : s.control.fw.powerOff = false) :
    ThreadEvent s (.threadWake t.name) ((s.acquire t.name.core scope).wake t.name .next [])
  /-- R438: a timed wait ends when its nanosecond has come. -/
  | timeCome (t : Thread) (ns : Nat) (found : s.thread? t.name = some t) (st : t.st = .blocked (.time ns)) (come : ns ≤ s.dtcNs)
    (moves : s.stopped t.name.core = false) (calm : unwatched s (clusterOf t.name.core) = true) :
    ThreadEvent s (.waittWake t.name) (s.wake t.name .next [])
  /-- R103, R104: the victim whose turn it is spills its least recently used LIVE registers, up to eight; the core goes on spilling until
  4,096 are free. What is due to the thread is taken once it stands between words (R309). -/
  | spill (t : Thread) (s1 : State) (found : s.thread? t.name = some t) (needed : s.spills t.name.core = true)
    (victim : ∃ x ∈ s.victims t.name.core, x.name = t.name) (turn : ∀ x ∈ s.victims t.name.core, s.spillBefore x t = false)
    (spilt : s1 = let u := (s.victimRegs t).foldl (fun s v => s.spill t.name v) s; if s.midWord t.name then u else u.takeDue t.name) :
    ThreadEvent s (.registerSpill t.name (s.victimRegs t))
      { s1 with work := { s1.work with spilling :=
        (if (s1.freeRegs t.name.core).2 < 4096 then [t.name.core] else []) ++ s1.work.spilling.filter (· != t.name.core) } }
  /-- R101, R104: a register that the present word waits for comes back from its spill slot and is allocated again. -/
  | refill (t : Thread) (p : Pack) (r pa tr : Nat) (found : s.thread? t.name = some t)
    (issuing : s.work.packs.find? (fun p => p.threads.contains t.name) = some p) (wanted : s.wants t r = true)
    (reach : s.xlat (.core t.name.core) (s.asidOf t.name) (s.tsaOf t.name + 4 * r) 1 { write := false, thread := true, bytes := 4 } = .ok pa tr)
    (sound : s.poisoned pa 4 = false) (calm : s.watchpoints = []) :
    ThreadEvent s (.registerRefill t.name r)
      (((s.homeRead t.name.core pa 4).2.modThread t.name
        (fun x => { x with regs := putReg x.regs r (.live (BitVec.ofNat 32 (leVal (s.homeRead t.name.core pa 4).1))) })).allocRegs s t.name [r])
  /-- R104, R161: one whose slot meets a replayable fault is BLOCKED on the refill, its record of the spill kind. -/
  | refillParked (t : Thread) (p : Pack) (r l : Nat) (found : s.thread? t.name = some t)
    (issuing : s.work.packs.find? (fun p => p.threads.contains t.name) = some p) (wanted : s.wants t r = true)
    (reach : s.xlat (.core t.name.core) (s.asidOf t.name) (s.tsaOf t.name + 4 * r) 1 { write := false, thread := true, bytes := 4 } = .park l) :
    ThreadEvent s (.registerRefill t.name r)
      ((s.parkFault (s.asidOf t.name) 6 l (s.tsaOf t.name + 4 * r)).2.modThread t.name (fun t => { t with st := .blocked (.operand r) }))
  /-- R9: the oldest hardware entry is written to the call-stack area, and the call pushes its return address and branches. -/
  | callPush (t : Thread) (x : CallXfer) (v : Word64) (pa tr : Nat) (found : s.thread? t.name = some t) (st : t.st = .blocked .calls)
    (transfer : t.callXfer = some x) (store : x.store = some v) (unparked : x.fid = none) (moves : s.stopped t.name.core = false)
    (reach : s.xlat (.core t.name.core) (s.asidOf t.name) (s.tsaOf t.name + 512 + 8 * x.entry) 1 { write := true, thread := true, bytes := 8 }
      = .ok pa tr) (calm : s.watchpoints = []) :
    ThreadEvent s (.callStackTransfer t.name) ((s.homeWrite t.name.core pa (leBytes v.toNat 8) t.lid).callDone t.name x 0)
  /-- R9, R422: a return reads the entry below the hardware ones back. -/
  | callPop (t : Thread) (x : CallXfer) (pa tr : Nat) (found : s.thread? t.name = some t) (st : t.st = .blocked .calls)
    (transfer : t.callXfer = some x) (load : x.store = none) (unparked : x.fid = none) (moves : s.stopped t.name.core = false)
    (reach : s.xlat (.core t.name.core) (s.asidOf t.name) (s.tsaOf t.name + 512 + 8 * x.entry) 1 { write := false, thread := true, bytes := 8 }
      = .ok pa tr) (sound : s.poisoned pa 8 = false) (calm : s.watchpoints = []) :
    ThreadEvent s (.callStackTransfer t.name)
      ((s.homeRead t.name.core pa 8).2.callDone t.name x (BitVec.ofNat 64 (leVal (s.homeRead t.name.core pa 8).1)))
  /-- R142: the oldest outstanding XFN result is written. -/
  | xfn (t : Thread) (x : XfnPending) (rest : List XfnPending) (found : s.thread? t.name = some t) (first : t.xfn = x :: rest) :
    ThreadEvent s (.xfnResultWritten t.name) (s.modThread t.name (fun t => ({ t with xfn := t.xfn.tail } : Thread).setReg x.reg x.value))
  /-- R47, R149: a translated plain access on a page without CHECKED is performed at its home or in the L1, and is over. -/
  | performed (o : Outstanding) (pa leaf : Nat) (at_ : MayPerform s o) (plain : o.kind = .load ∨ o.kind = .store ∨ o.kind = .red)
    (global : o.peer = none) (translated : o.tr = some (pa, leaf)) (memory : bits leaf 57 56 ≠ 1) (unchecked : bit leaf 61 = false) (async : o.sync = false)
    (sound : s.accessPoisoned o pa leaf = false) (calm : unwatched s (homeCluster pa) = true) :
    ThreadEvent s (.memoryAccessPerformed o.id [])
      { memoryDone o pa leaf s with
        store := { (memoryDone o pa leaf s).store with outst := (memoryDone o pa leaf s).store.outst.filter (·.id != o.id) } }
  /-- R426: an outstanding sample gives its four registers; what is due to the thread is taken once it stands between words (R309). -/
  | sampled (o : Outstanding) (l : List Word32) (s1 s2 : State) (at_ : MayPerform s o) (kind : o.kind = .sample)
    (value : s.sample { name := o.thread, level := o.level, pc := o.pc, word := o.word } o.va.toNat o.data o.sx = .ok l s1)
    (done : (s1.dropOut o.id).modThread o.thread (fun t => if t.st == .exited then t else t.setRegs o.dst.toNat l) = s2) :
    ThreadEvent s (.memoryAccessPerformed o.id []) (if s2.midWord o.thread then s2 else s2.takeDue o.thread)
  /-- R146, R148: lines leave the L1 whenever the device pleases; their dirty bytes go home first. -/
  | evicted (k : Nat) (l : List Nat) (none_ : s.store.outst.find? (·.id == k) = none)
    (still : (((s.store.l1.zip (List.range s.store.l1.length)).filterMap (fun x => if l.contains x.2 then some x.1 else none)).foldl
      (fun s y => s.evict y.core (fun x => x.tag == y.tag)) s).store.outst = s.store.outst) :
    ThreadEvent s (.memoryAccessPerformed k l)
      (((s.store.l1.zip (List.range s.store.l1.length)).filterMap (fun x => if l.contains x.2 then some x.1 else none)).foldl
        (fun s y => s.evict y.core (fun x => x.tag == y.tag)) s)
  /-- R179: a thread whose stall is over makes its check again. -/
  | stallOver (t : Thread) (g : Nat) (scratch : Option Nat) (why : Nat) (kind : Acc) (va : Word64) (found : s.thread? t.name = some t)
    (st : t.st = .blocked (.stall g scratch why kind va)) (over_ : s.stillStalls t = false) (moves : s.stopped t.name.core = false) :
    ThreadEvent s (.detectionStallEnd t.name) (readied s t.name)
  /-- R179: a stall of 2^20 cycles ends in MMX_CAPACITY at the word. -/
  | capacity (t : Thread) (g : Nat) (scratch : Option Nat) (why : Nat) (kind : Acc) (va : Word64) (found : s.thread? t.name = some t)
    (st : t.st = .blocked (.stall g scratch why kind va)) (long : 2 ^ 20 ≤ t.held) (moves : s.stopped t.name.core = false) (alone : t.solo = none) :
    ThreadEvent s (.mmxCapacityTimeout t.name)
      (s.trapAt t.name (capacityTrap g why va scratch.isSome) t.pc (s.peek t.name.core (s.asidOf t.name) t.level (wordAddr t.pc.ca t.pc.wi)) 0 0)
  /-- R161, R179: so does that of an access that waits after its word, at the thread's next boundary. -/
  | capacityLater (t : Thread) (o : Outstanding) (g why : Nat) (found : s.thread? t.name = some t) (st : ∀ w, t.st ≠ .blocked w)
    (stalls : (s.outOf t.name).find? (fun o => o.stall.isSome && 2 ^ 20 ≤ o.held) = some o) (granule : o.stall = some (g, why)) :
    ThreadEvent s (.mmxCapacityTimeout t.name) ((s.dropOut o.id).trapBoundary t.name (capacityTrap g why o.vaddr o.peer.isSome) o.pc o.word)
  /-- R112: the threads of a pack that have waited 2^20 cycles for a table with room take QDEADLOCK; here all of them do. -/
  | spawnTimeout (core pipe : Nat) (p : Pack) (o : AgOp) (n : ThreadName) (found : s.pack? core pipe = some p) (one : p.threads = [n])
    (word : decode (s.peek core (s.asidOf n) (s.packLevel p) (wordAddr p.ca p.wi)) = .ok (.tspawn o)) (long : 2 ^ 20 ≤ p.full)
    (waits : (ctxOf p (.tspawn o)).actives s = [n]) (fresh : p.spawned = [])
    (gone : ((ctxOf p (.tspawn o)).trapAt s n (trapOf .qdeadlock 1)).pack? core pipe = none) :
    ThreadEvent s (.tspawnTimeout core pipe) ((ctxOf p (.tspawn o)).trapAt s n (trapOf .qdeadlock 1))
  /-- R295, R296: the first waiting thread whose record is written gets its handler context. -/
  | handler (t : Thread) (g : Workgroup) (r : Trapped) (k : Nat) (found : s.thread? t.name = some t) (group : s.groupOf t.name = some g)
    (trapped : t.trap = some r) (slot : r.slot = some k) (runs : s.pickerRuns t.name.core = true)
    (first : (s.served t.name.core).head? = some t.name) (recorded : s.recorded t = true) :
    ThreadEvent s (.handlerContextStart t.name) (s.startHandler t g r k)
  /-- R296: a waiting thread whose record is still to be written has it written first. -/
  | record (t u : Thread) (g : Workgroup) (r r1 : Trapped) (k : Nat) (s1 : State) (found : s.thread? t.name = some t)
    (group : s.groupOf t.name = some g) (trapped : t.trap = some r) (unwritten : r.slot = none) (runs : s.pickerRuns t.name.core = true)
    (first : (s.served t.name.core).head? = some t.name) (room : s.contextSlot t.name.core t.name.slot = some k)
    (written : s.writeTrapRecord t g r k = s1) (after : s1.thread? t.name = some u) (group1 : s1.groupOf t.name = some g)
    (trapped1 : u.trap = some r1) (slot1 : r1.slot = some k) :
    ThreadEvent s (.handlerContextStart t.name) (s1.startHandler u g r1 k)
  /-- R302: HOLD and SVC of a workgroup of a class other than STRIP. -/
  | hold (core slot : Nat) (h v : Bool) (inside : core < 256 ∧ slot < 64) (may : ∀ g, s.group? core slot = some g → g.cls ≠ 0) :
    ThreadEvent s (.holdRequest core slot h v) (s.setDreg (regHold core slot) (b2n h + 4 * b2n v))
  /-- R302: a STRIP workgroup is not held. -/
  | holdStrip (core slot : Nat) (h v : Bool) (g : Workgroup) (found : s.group? core slot = some g) (strip : g.cls = 0) :
    ThreadEvent s (.holdRequest core slot h v) s
  /-- R303: a held workgroup whose SVC is set gets its service context, with its record in a free slot. -/
  | service (core slot k : Nat) (g : Workgroup) (s2 : State) (found : s.group? core slot = some g) (room : s.contextSlot core slot = some k)
    (asked : bit (s.dreg (regHold core slot)) 2 = true) (held : s.held core slot = true) (runs : s.pickerRuns core = true) (here : g.away = none)
    (plain : g.restoring = none)
    (written : State.deviceStore ((s.setDreg (regHold core slot) 1).modGroup core slot (fun g => { g with restoring := none })) (clusterOf core)
      (match s.launch? g.lid with | some l => l.asid | none => 0) (s.recordVa g k) (recBytes (s.serviceWords g none)) = .ok s2) :
    ThreadEvent s (.serviceContextStart core slot)
      (s2.addThread (s2.contextThread g 0 ((g.crews.head?.map (·.crew)).getD 0) k
        { trapped := none, recSlot := k, cause := Cause.holdService.code, tval := 0, entryResume := { ca := 0, wi := 0 }, kept := [] }))
  /-- R303: a workgroup is restored from the image that RIMG names, its HOLD and SVC set. -/
  | restored (core slot k : Nat) (b r : List Byte) (h h2 : List Nat) (s1 s2 s3 : State) (inside : core < 256)
    (idle : bit (s.dreg (regRestore core + 16)) 8 = false) (aligned : bits (s.dreg (regRestore core)) 56 0 % 4096 = 0)
    (read : s.imageRead { core := core, slot := 0, wti := 0, ctx := 0 } (bits (s.dreg (regRestore core + 8)) 63 48) 1
      (bits (s.dreg (regRestore core)) 56 0) 192 = .ok b h s1)
    (good : bits (fieldOf b 0 8) 63 48 = 0x5E18 ∧ bits (fieldOf b 8 8) 63 53 ≤ 1024)
    (records : s.imageRead { core := core, slot := 0, wti := 0, ctx := 0 } (bits (s.dreg (regRestore core + 8)) 63 48) 1
      (bits (s.dreg (regRestore core)) 56 0 + 12288) (128 * bits (fieldOf b 8 8) 63 53) = .ok r h2 s2)
    (free : s.freeWgSlot core = some slot) (created : s.createGroup core slot (b ++ r) = .ok k s3) :
    ThreadEvent s (.restoreGo core)
      (((s3.setDreg (regHold core k) 5).modGroup core k (fun g => { g with restoring := some (bits (s.dreg (regRestore core)) 56 0) })).setDreg
        (regRestore core + 16) 256)

end Sys2Proof
end

