-- ==== Sys2Proof/Safety/Vector.lean ====
section
/-! DEFINITION. What a vector, cross-lane or XFN word computes for a thread, and what a thread whose mask is false does. -/

namespace Sys2Proof

open Machine

/-- The fill value of a cross-lane word: its fourth operand (R73, R410). -/
def fillOf (c : Ctx) (o : VOp) (sp : VSpec) (t : Thread) : Option Nat :=
  if pfV c.half && pfF4v c.half then some (srcField (hLit32 c.pack.hdr) t o.ty (.s (dstCount sp)) (pfFourth c.half)) else none

/-- The value, predicates and flags of a vector or cross-lane word for a thread; none for another instruction. -/
def vectorResult (i : Instr) (c : Ctx) (s : State) (o : VOp) (sp : VSpec) (t : Thread) : Option VOut :=
  let x := vecIn c o sp t
  let l := lanesOf c o sp s
  let k := sqix t.name
  let f := fillOf c o sp t
  match i with
  | .iadd _ => some (fnIadd x) | .iadc _ => some (fnIadc x) | .isub _ => some (fnIsub x) | .imul _ => some (fnImul x)
  | .imulh _ => some (fnImulh x) | .imad _ => some (fnImad x) | .imin _ => some (fnImin x) | .imax _ => some (fnImax x)
  | .iabs _ => some (fnIabs x) | .icmp _ => some (fnIcmp x) | .lea _ => some (fnLea x)
  | .and _ => some (fnAnd x) | .or _ => some (fnOr x) | .xor _ => some (fnXor x) | .shl _ => some (fnShl x)
  | .shr _ => some (fnShr x) | .sar _ => some (fnSar x) | .bfe _ => some (fnBfe x) | .bfi _ => some (fnBfi x)
  | .popc _ => some (fnPopc x) | .clz _ => some (fnClz x) | .brev _ => some (fnBrev x)
  | .fadd _ => some (fnFadd x) | .fsub _ => some (fnFsub x) | .fmul _ => some (fnFmul x) | .ffma _ => some (fnFfma x)
  | .fmin _ => some (fnFmin x) | .fmax _ => some (fnFmax x) | .fminn _ => some (fnFminn x) | .fmaxn _ => some (fnFmaxn x)
  | .fcmp _ => some (fnFcmp x) | .fclass _ => some (fnFclass x) | .frnd _ => some (fnFrnd x) | .frndX _ => some (fnFrndX x)
  | .fcvt _ => some (fnFcvt x) | .icvt _ => some (fnIcvt x) | .dsubs _ => some (fnDsubs x)
  | .mov _ => some
      { val := if o.sub == 0 then x.a else match s.groupOf t.name with
          | some g => (g.uni o.a.toNat).toNat + (if dstCount sp == 2 then 2 ^ 32 * (g.uni (o.a.toNat + 1)).toNat else 0)
          | none => 0 }
  | .movi _ => some (fnMovi x) | .sel _ => some (fnSel x) | .plop _ => some (fnPlop x) | .pmov _ => some (fnPmov x)
  | .perm _ => some (fnPerm l k x f) | .bcst _ => some (fnBcst l k x f) | .vote _ => some (fnVote l k x f)
  | .redx _ => some (fnRedx l k x f) | .scanx _ => some (fnScanx l k x f) | .match _ => some (fnMatch l k x f)
  | _ => none

/-- The value, predicates and flags of an XFN word for a thread; none for another instruction. -/
def xfnResult (i : Instr) (c : Ctx) (o : VOp) (sp : VSpec) (t : Thread) : Option VOut :=
  let x := vecIn c o sp t
  match i with
  | .logc _ => some (fnLogc x) | .expc _ => some (fnExpc x) | .lscl _ => some (fnLscl x) | .fsin _ => some (fnFsin x)
  | .fcos _ => some (fnFcos x) | .actv _ => some (fnActv x) | .rcp _ => some (fnRcp x) | .rsq _ => some (fnRsq x)
  | _ => none

/-- An active thread with its result (R55, R56, R135): the destination registers, the predicates, the sticky flags. -/
def withResult (o : VOp) (sp : VSpec) (t : Thread) (r : VOut) : Thread := ((t.writeD sp o r.val).setPreds r.preds).addFlags r.flags

/-- A thread whose mask is false (R73): its destination merges, or is zeroed, or takes the fourth operand, which PERM and BCST use as
their fill value instead. -/
def maskedOff (i : Instr) (c : Ctx) (o : VOp) (sp : VSpec) (t : Thread) : Thread :=
  match sp.d with
  | .w n =>
    if pfZ c.half then t.setRegs o.d.toNat (cutRegs 0 n)
    else if pfF4v c.half && !(fillsLanes i) then t.setRegs o.d.toNat (cutRegs (srcField (hLit32 c.pack.hdr) t o.ty (.s n) (pfFourth c.half)) n)
    else t
  | .p => if pfZ c.half then t.setPred o.d.toNat false else t
  | _ => if clearsPreds i && pfZ c.half then { t with preds := 0 } else t

end Sys2Proof
end

