-- ==== Sys2Proof/Safety/Core.lean ====
section
/-! DEFINITION. Terms of the statements about the whole machine: the opcode grid, guards, privilege, what follows a word, values of formats. -/

namespace Sys2Proof

open Machine

/-! ## Encodings -/

/-- The opcode grid (R75): the row of each high digit, its columns from 0 up. -/
def opcodeGrid : List (List String) :=
  [ ["NOP", "PFX", "BRA", "BRX", "CALL", "CALLX", "RET", "EXIT", "SWITCH", "LOOP", "LPOP", "YIELD", "WAITT"],
    ["IADD", "IADC", "ISUB", "IMUL", "IMULH", "IMAD", "IMIN", "IMAX", "IABS", "ICMP", "LEA"],
    ["AND", "OR", "XOR", "SHL", "SHR", "SAR", "BFE", "BFI", "POPC", "CLZ", "BREV"],
    ["FADD", "FSUB", "FMUL", "FFMA", "FMIN", "FMAX", "FMINN", "FMAXN", "FCMP", "FCLASS", "FRND", "FCVT", "ICVT", "DSUBS"],
    ["MOV", "MOVI", "SEL", "PLOP", "PMOV", "PERM", "BCST", "VOTE", "REDX", "SCANX", "MATCH", "XEQ"],
    ["LOGC", "EXPC", "LSCL", "FSIN", "FCOS", "ACTV", "RCP", "RSQ"],
    ["LD", "ST", "LDS", "STS", "ATOM", "ATOMS", "RED", "FENCE", "CCTL", "SAMP", "LDW", "WSET"],
    ["CPY", "CPYS", "CSEAL", "CWAIT", "TOWN", "BINIT", "BARV", "BWAIT", "BSYNC"],
    ["TSPAWN", "QINIT", "QPUSH", "QPOP"],
    ["MACQ", "MREL", "MMA", "MZERO", "MDRN", "MLDA", "APOP", "GEVAL", "GCFG"],
    ["RAST", "BINA", "OCCR", "RGACQ", "RGREL", "RGHOLD"],
    ["SREAD", "SWRITE", "TRAP", "TRET", "BKPT", "TLBI", "CTXSV", "CTXLD", "ROLEQ"] ]

/-- The instruction that the grid assigns to an opcode (R75). -/
def gridAt (op : Nat) : Option String := (opcodeGrid.getD (op / 16) [])[op % 16]?

/-- The grid assigns an opcode. -/
def assigned (op : Nat) : Bool := (gridAt op).isSome

/-- The name in the grid of a word's instruction; its forms share one opcode. -/
def gridName (i : Instr) : String :=
  match i with
  | .nop => "NOP"
  | .pfx _ _ => "PFX"
  | .bra _ => "BRA"
  | .brx _ => "BRX"
  | .call _ => "CALL"
  | .callx _ => "CALLX"
  | .ret _ => "RET"
  | .exit _ => "EXIT"
  | .switch _ => "SWITCH"
  | .loop _ => "LOOP"
  | .lpop _ | .lpopDrop _ => "LPOP"
  | .yield _ => "YIELD"
  | .waittAbs _ | .waittRel _ => "WAITT"
  | .iadd _ => "IADD"
  | .iadc _ => "IADC"
  | .isub _ => "ISUB"
  | .imul _ => "IMUL"
  | .imulh _ => "IMULH"
  | .imad _ => "IMAD"
  | .imin _ => "IMIN"
  | .imax _ => "IMAX"
  | .iabs _ => "IABS"
  | .icmp _ => "ICMP"
  | .lea _ => "LEA"
  | .and _ => "AND"
  | .or _ => "OR"
  | .xor _ => "XOR"
  | .shl _ => "SHL"
  | .shr _ => "SHR"
  | .sar _ => "SAR"
  | .bfe _ => "BFE"
  | .bfi _ => "BFI"
  | .popc _ => "POPC"
  | .clz _ => "CLZ"
  | .brev _ => "BREV"
  | .fadd _ => "FADD"
  | .fsub _ => "FSUB"
  | .fmul _ => "FMUL"
  | .ffma _ => "FFMA"
  | .fmin _ => "FMIN"
  | .fmax _ => "FMAX"
  | .fminn _ => "FMINN"
  | .fmaxn _ => "FMAXN"
  | .fcmp _ => "FCMP"
  | .fclass _ => "FCLASS"
  | .frnd _ | .frndX _ => "FRND"
  | .fcvt _ => "FCVT"
  | .icvt _ => "ICVT"
  | .dsubs _ => "DSUBS"
  | .mov _ => "MOV"
  | .movi _ => "MOVI"
  | .sel _ => "SEL"
  | .plop _ => "PLOP"
  | .pmov _ => "PMOV"
  | .perm _ => "PERM"
  | .bcst _ => "BCST"
  | .vote _ => "VOTE"
  | .redx _ => "REDX"
  | .scanx _ => "SCANX"
  | .match _ => "MATCH"
  | .xeq _ => "XEQ"
  | .logc _ => "LOGC"
  | .expc _ => "EXPC"
  | .lscl _ => "LSCL"
  | .fsin _ => "FSIN"
  | .fcos _ => "FCOS"
  | .actv _ => "ACTV"
  | .rcp _ => "RCP"
  | .rsq _ => "RSQ"
  | .ld _ => "LD"
  | .st _ => "ST"
  | .lds _ => "LDS"
  | .sts _ => "STS"
  | .atom _ => "ATOM"
  | .atoms _ => "ATOMS"
  | .red _ => "RED"
  | .fence _ => "FENCE"
  | .cctlWb _ | .cctlWbinv _ | .cctlIinv _ | .cctlWball _ | .cctlIinvall _ | .cctlPf _ => "CCTL"
  | .samp _ => "SAMP"
  | .ldw _ => "LDW"
  | .wset _ => "WSET"
  | .cpy _ => "CPY"
  | .cpys _ => "CPYS"
  | .cseal _ => "CSEAL"
  | .cwaitRel _ | .cwaitLnd _ => "CWAIT"
  | .town _ => "TOWN"
  | .binit _ => "BINIT"
  | .barv _ => "BARV"
  | .bwait _ => "BWAIT"
  | .bsync _ => "BSYNC"
  | .tspawn _ => "TSPAWN"
  | .qinit _ => "QINIT"
  | .qpush _ | .qpushC _ | .qpushAmp _ | .qpushClose _ => "QPUSH"
  | .qpop _ | .qpopE _ => "QPOP"
  | .macq _ => "MACQ"
  | .mrel _ => "MREL"
  | .mma _ => "MMA"
  | .mzero _ => "MZERO"
  | .mdrn _ => "MDRN"
  | .mlda _ => "MLDA"
  | .apop _ => "APOP"
  | .geval _ => "GEVAL"
  | .gcfg _ => "GCFG"
  | .rast _ => "RAST"
  | .bina _ | .binaClr _ => "BINA"
  | .occr _ | .occrClr _ => "OCCR"
  | .rgacq _ => "RGACQ"
  | .rgrelPub _ | .rgrelRel _ => "RGREL"
  | .rghold _ => "RGHOLD"
  | .sread _ => "SREAD"
  | .swrite _ => "SWRITE"
  | .trap _ => "TRAP"
  | .tret _ | .tretEnd _ => "TRET"
  | .bkpt _ => "BKPT"
  | .tlbiPage _ | .tlbiAsid _ | .tlbiAll _ => "TLBI"
  | .ctxsvCopy _ | .ctxsvRel _ | .ctxsvWg _ => "CTXSV"
  | .ctxldRegs _ | .ctxldFull _ | .ctxldWg _ => "CTXLD"
  | .roleq _ => "ROLEQ"
  | _ => ""

/-- A word has a 1 in bits that its format reserves: bits 55-0 of NOP (R407), 15-0 of the VR form (R60), 23-16 of SY (R68). -/
def reservedSet (w : Word64) : Bool :=
  let op := opOf w
  (op == 0 && w.extractLsb' 0 56 != 0) ||
  (0x10 ≤ op && op < 0x60 && assigned op && !(w.getLsbD 55) && w.extractLsb' 0 16 != 0) ||
  (0xB0 ≤ op && assigned op && w.extractLsb' 16 8 != 0)

/-! ## Guards and privilege -/

/-- The guard of a CT, MR, AS, GX, MX or SY word: its predicate and whether it is inverted (R62, R64, R66 to R69). -/
def guardField (i : Instr) : Option (BitVec 4 × Bool) :=
  match i with
  | .bra o | .brx o | .call o | .callx o | .ret o | .exit o | .switch o | .loop o | .lpop o | .lpopDrop o | .yield o | .waittAbs o
  | .waittRel o => some (o.g, o.gn)
  | .ld o | .st o | .lds o | .sts o | .atom o | .atoms o | .red o | .fence o | .cctlWb o | .cctlWbinv o | .cctlIinv o | .cctlWball o
  | .cctlIinvall o | .cctlPf o | .samp o | .ldw o | .wset o => some (o.g, o.gn)
  | .cpy o | .cpys o | .cseal o | .cwaitRel o | .cwaitLnd o | .town o | .binit o | .barv o | .bwait o | .bsync o | .tspawn o | .qinit o
  | .qpush o | .qpushC o | .qpushAmp o | .qpushClose o | .qpop o | .qpopE o | .rast o | .bina o | .binaClr o | .occr o | .occrClr o
  | .rgacq o | .rgrelPub o | .rgrelRel o | .rghold o => some (o.g, o.gn)
  | .macq o | .mrel o | .mma o | .mzero o | .mdrn o | .mlda o | .apop o | .geval o | .gcfg o => some (o.g, o.gn)
  | .sread o | .swrite o | .trap o | .tret o | .tretEnd o | .bkpt o | .tlbiPage o | .tlbiAsid o | .tlbiAll o | .ctxsvCopy o | .ctxsvRel o
  | .ctxsvWg o | .ctxldRegs o | .ctxldFull o | .ctxldWg o | .roleq o => some (o.g, o.gn)
  | _ => none

/-- The words that only supervisor level or above may execute: TRET, TLBI, CTXSV and CTXLD in every form, and SREAD of TRAPC and TRAPV,
which its entry marks as supervisor-only (R77, R429). -/
def privileged (i : Instr) : Bool :=
  match i with
  | .tret _ | .tretEnd _ | .tlbiPage _ | .tlbiAsid _ | .tlbiAll _ | .ctxsvCopy _ | .ctxsvRel _ | .ctxsvWg _ | .ctxldRegs _ | .ctxldFull _
  | .ctxldWg _ => true
  | .sread o => o.sub12 == 0x70 || o.sub12 == 0x71
  | _ => false

/-- What follows a word's retirement or its trap: a queue word serves the queues of its core, and RGREL.PUB ends chains whose work is over
(R276, R261). -/
def afterWord (i : Instr) (p : Pack) (s : State) : State :=
  match i with
  | .qpush _ | .qpushC _ | .qpushAmp _ | .qpushClose _ | .qpop _ | .qpopE _ => s.serveCore p.core
  | .rgrelPub _ => s.settleChains
  | _ => s

/-- Every thread of a pack retires a word that did nothing. -/
def idleWord (i : Instr) (p : Pack) (s : State) : State :=
  afterWord i p (s.retire (ctxOf p i) (p.threads.map (fun n => { name := n, fate := .next, after := [] })) (nextHalves i p.pb).1 (nextHalves i p.pb).2)

/-- One thread traps at a word: it leaves its pack, and the word retires for no thread (R294). -/
def trappedWord (i : Instr) (p : Pack) (s : State) (n : ThreadName) (info : TrapInfo) : State :=
  ((ctxOf p i).trapAt s n info).retire (ctxOf p i) [] (nextHalves i p.pb).1 (nextHalves i p.pb).2

/-- The target that BRX or CALLX takes from a register pair, or RET from the top of the call stack (R65). -/
def targetOf (t : Thread) (i : Instr) : Option Nat :=
  match i with
  | .brx o => some (pairTarget t o.a o.off)
  | .callx o => some (pairTarget t o.a o.off)
  | .ret _ => if 0 < t.depth && t.depth ≤ 8 then some (t.calls.headD 0).toNat else none
  | _ => none

/-- The thread's call-stack transfer is over (R9). -/
def noTransfer (s : State) (n : ThreadName) : State := s.modThread n (fun t => { t with callXfer := none })

/-! ## A turn of a pipe -/

/-- A pack that may issue on a pipe whose turn it is, in the state `s` with that turn taken: its first thread is `n`, none of its threads waits
for a fault's answer, and in `s1`, where each of them is ISSUING again, no instruction comparator matches (R78, R161, R307, R310). -/
structure AtIssue (s : State) (core pipe : Nat) (p : Pack) (n : ThreadName) (s1 : State) : Prop where
  pack : s.pack? core pipe = some p
  may : s.mayIssue p = true
  answered : ∀ m ∈ p.threads, s.heldBy m = false
  issuing : s.unhold p = s1
  first : p.threads.head? = some n
  quiet : s1.comparator (clusterOf p.core) (s1.asidOf n) p.ca p.wi = none

/-- A fetch by the core can find no value of the word at a physical address but its home's (R50). -/
def freshCode (s : State) (core pa : Nat) : Prop := ∀ v ∈ s.otherWords core pa, v = BitVec.ofNat 64 (s.store.mem.val pa 8)

/-! ## Canonical form -/

/-- The memories of a state and of its checkpoint image are canonical. -/
def tidy (s : State) : Prop :=
  canonical s = true ∧ ∀ x, s.control.image = some x →
    (Memory.wf x.store.mem && Memory.wf x.store.scratch && Memory.wf x.store.awning && sparseWf (0 : Word64) x.store.dregs &&
      sparseWf (0 : Word32) x.store.acc) = true

/-! ## Formats -/

/-- The floating-point formats with infinities (R122). -/
def infFormats : List Fmt := [fp64, fp32, fp16, bf16, f8b]

/-- Two reals are the same: the class, the sign and the value, whatever the terms of the fraction. -/
def sameReal (x y : Ex) : Prop :=
  match x, y with
  | .nan a, .nan b => a = b
  | .inf a, .inf b => a = b
  | .fin a n d, .fin b m e => a = b ∧ n * e = m * d
  | _, _ => False

/-- The exponent and mantissa fields of a pattern. -/
def expField (f : Fmt) (b : Nat) : Nat := b / 2 ^ f.p % 2 ^ f.eb
def manField (f : Fmt) (b : Nat) : Nat := b % 2 ^ f.p

/-- The exact result of an R384 row on elements read as integers of width `w`; none for another word. -/
def exactInt (i : Instr) (w : Nat) (a b c : Int) : Option Int :=
  match i with
  | .iadd _ => some (a + b) | .isub _ => some (a - b) | .imul _ => some (a * b)
  | .imulh _ => some (a * b / (2 ^ w : Nat)) | .imad _ => some (a * b + c)
  | .imin _ => some (min a b) | .imax _ => some (max a b) | .iabs _ => some a.natAbs
  | _ => none

/-- Element `i` of a register operand that holds elements of `w` bits, read as two's complement or unsigned (R124, R129). -/
def elemInt (sg : Bool) (w x i : Nat) : Int :=
  let e := x / 2 ^ (w * i) % 2 ^ w
  if sg && 2 ^ (w - 1) ≤ e then (e : Int) - (2 ^ w : Nat) else e

/-- Least and greatest values of an integer type of width `w` (R129). -/
def leastInt (sg : Bool) (w : Nat) : Int := if sg then -(2 ^ (w - 1) : Nat) else 0
def greatestInt (sg : Bool) (w : Nat) : Int := if sg then (2 ^ (w - 1) : Nat) - 1 else (2 ^ w : Nat) - 1

/-! ## The matrix engine -/

/-- What one element of a pass sums (R226): the prior value and then each product, in exact arithmetic. -/
def quarterSum (p : Pass) (q : PassQuarter) (acc m n : Nat) : Ex :=
  let k := 768 / fmtBits p.fa
  let x := leVal (operandRow q.a m)
  let y := leVal (operandRow q.b n)
  (List.range k).foldl (fun e i => e.add .rne (elemMul p.fa p.fb (elem (fmtBits p.fa) x i) (elem (fmtBits p.fb) y i))) (accVal p.mode acc)

end Sys2Proof
end

