-- ==== Sys2Proof/Safety/Engine.lean ====
section
/-! DEFINITION. What a matrix, grammar, graphics, sampling or task word does for the thread of a pack, clause by clause as the reference
entries say. -/

namespace Sys2Proof

open Machine

/-- The thread's workgroup holds a pitch with no error pending (R381). -/
structure AtPitch (s : State) (t : Thread) (g : Workgroup) (x : Pitch) : Prop where
  group : s.groupOf t.name = some g
  pitch : s.pitchOf g = some x
  clean : x.err = none

/-- Rows that a matrix word's operand names: first row and count (R401, R402). -/
def firstRow (x : Nat) : Nat := bits x 21 12
def rowCount (x : Nat) : Nat := bits x 31 23 + 1

/-- The pitch a request makes (R220, R221). -/
def newPitch (g : Workgroup) (req number base : Nat) : Pitch :=
  { cluster := clusterOf g.core, number := number, cls := g.cls, pri := bits req 9 8, units32 := bits req 5 0, slot := g.slot, role := g.role
    core := g.core, base := base, lid := g.lid, gram := none, err := none, queue := [], owed := [], releasing := false }

/-- A request for 1 to 32 units of 32 rows with no reserved bit set (R399). -/
def pitchRequest (req : Nat) : Prop := 1 ≤ bits req 5 0 ∧ bits req 5 0 ≤ 32 ∧ req = bits req 5 0 + bits req 9 8 * 256

/-- The evaluation that GEVAL queues (R243, R383). -/
def evalOf (s : State) (t : Thread) (x : Pitch) (cfg : GramCfg) (tl : Tile) (v op : Nat) (push : Bool) : Eval :=
  { cluster := x.cluster, pitch := x.number, cls := x.cls, order := s.nextOrder.1, cfg := cfg, asid := s.asidOf t.name, level := t.level
    core := tl.home.core, addr := tl.at_ v, tileBytes := fmtBytes cfg.fx ((bits op 16 12 + 1) * cfg.cols), credit := some tl.credit
    nv := bits op 16 12 + 1, cq := bits op 18 17, push := push, running := false, item := 0, rule := 0, depth := 1, open_ := false, mid := false
    sums := [], file := [], rowsWritten := [], ended := false, fid := none }

/-- The load that a SAMP leaves outstanding (R425). -/
def sampleOf (s : State) (p : Pack) (t : Thread) (o : MrOp) : Outstanding :=
  { id := s.nextOrder.1, thread := t.name, lid := t.lid, asid := s.asidOf t.name, region := t.region, level := t.level, kind := .sample
    va := BitVec.ofNat 57 (sampOperands t o.a.toNat).1, bytes := 16, pol := 0, ord := 0, scope := 0, dst := o.d, sx := o.off.getLsbD 0, aop := 0
    data := (sampOperands t o.a.toNat).2, pc := (ctxOf p (.samp o)).pc, word := (ctxOf p (.samp o)).word, fid := none, peer := none }

/-- The four words of a bin instruction's operand: set, first and last bin, id (R350). -/
structure BinWord (s : State) (t : Thread) (o : AgOp) (x : Nat) (b : BinSet) : Prop where
  set : s.binSet (o.imm.toNat % 16) (s.asidOf t.name) = some b
  order : bits x 10 0 ≤ bits x 26 16
  inside : bits x 26 16 < b.bins
  range : s.binRange t (b.base + bits x 10 0 * b.stride) ((bits x 26 16 - bits x 10 0 + 1) * b.stride) = .ok
  sound : ∀ i ∈ (List.range (bits x 26 16 - bits x 10 0 + 1)).map (bits x 10 0 + ·), s.poisoned (s.binPa t (b.base + i * b.stride)) 8 = false
  unlogged : unwatched s (homeCluster (s.binPa t (b.base + bits x 10 0 * b.stride))) = true

/-- Each bin from the first to the last takes its step in turn (R273). -/
def binSteps (s : State) (t : Thread) (o : AgOp) (x : Nat) (b : BinSet) (id : Option Nat) : State × List Nat :=
  ((List.range (bits x 26 16 - bits x 10 0 + 1)).map (bits x 10 0 + ·)).foldl (fun acc i =>
    ((acc.1.binStep t (o.imm.toNat % 16) b i id).1, acc.2 ++ (acc.1.binStep t (o.imm.toNat % 16) b i id).2)) (s, [])

/-- `EngineRule s p t i s1 fate after`: matrix, grammar, graphics and sampling words. -/
inductive EngineRule (s : State) (p : Pack) (t : Thread) : Instr → State → Fate → List TrapInfo → Prop where
  /-- R221, R399: a workgroup without a pitch gets one, its rows zero, and the predicate is true. -/
  | macq (o : MxOp) (g : Workgroup) (k base : Nat) (calm : unwatched s (clusterOf p.core) = true) (group : s.groupOf t.name = some g)
    (legal : pitchRequest (srcReg (ctxOf p (.macq o)) t o.a)) (fresh : s.pitchOf g = none)
    (room : s.allot (clusterOf g.core) g.cls (bits (srcReg (ctxOf p (.macq o)) t o.a) 5 0) = some (k, base)) :
    EngineRule s p t (.macq o)
      (State.modThread { s with
        store := (s.clearRect (clusterOf g.core)
          { lo := base, hi := base + 32 * bits (srcReg (ctxOf p (.macq o)) t o.a) 5 0, c0 := 0, c1 := 128 }).store
        engines := { s.engines with pitches := s.engines.pitches ++ [newPitch g (srcReg (ctxOf p (.macq o)) t o.a) k base] } }
        t.name (·.setPred o.d.toNat true)) .next []
  /-- R221: a second request for the same size is true, for another size false. -/
  | macqHeld (o : MxOp) (g : Workgroup) (x : Pitch) (calm : unwatched s (clusterOf p.core) = true) (group : s.groupOf t.name = some g)
    (legal : pitchRequest (srcReg (ctxOf p (.macq o)) t o.a)) (held : s.pitchOf g = some x) :
    EngineRule s p t (.macq o)
      (s.modThread t.name (·.setPred o.d.toNat (x.units32 == bits (srcReg (ctxOf p (.macq o)) t o.a) 5 0))) .next []
  /-- R221, R222: without rows or a number to give it is false. -/
  | macqNone (o : MxOp) (g : Workgroup) (calm : unwatched s (clusterOf p.core) = true) (group : s.groupOf t.name = some g)
    (fresh : s.pitchOf g = none) (full : s.allot (clusterOf g.core) g.cls (bits (srcReg (ctxOf p (.macq o)) t o.a) 5 0) = none) :
    EngineRule s p t (.macq o) (s.modThread t.name (·.setPred o.d.toNat false)) .next []
  /-- R406: without a pitch there is nothing to release. -/
  | mrelNone (o : MxOp) (g : Workgroup) (group : s.groupOf t.name = some g) (none_ : s.pitchOf g = none) : EngineRule s p t (.mrel o) s .next []
  /-- R223, R406: the pitch is released once its work has completed. -/
  | mrel (o : MxOp) (g : Workgroup) (x : Pitch) (at_ : AtPitch s t g x) (idle : s.pitchBusy x.cluster x.number = false) :
    EngineRule s p t (.mrel o)
      { s with engines := { s.engines with pitches := s.engines.pitches.filter (fun y => !(y.cluster == x.cluster && y.number == x.number)) } } .next []
  /-- R402: a clear of some rows is queued. -/
  | mzero (o : MxOp) (g : Workgroup) (x : Pitch) (op : Nat) (operand : op = srcReg (ctxOf p (.mzero o)) t o.a) (at_ : AtPitch s t g x)
    (inside : firstRow op + rowCount op ≤ x.rows) :
    EngineRule s p t (.mzero o) (s.putAccOp g x (.clear (o.sub6.getLsbD 0)) (firstRow op) (rowCount op) (bit op 22) 0 0 none) .next []
  /-- R237, R401: a drain into an ENGINE tile of the target format is queued, with the requantisation table as it stands. -/
  | mdrn (o : MxOp) (g : Workgroup) (x : Pitch) (op v : Nat) (tl : Tile) (tab : List Byte) (operand : op = srcReg (ctxOf p (.mdrn o)) t o.a)
    (at_ : AtPitch s t g x) (home : tilePending s t (bits op 11 0) = false) (inside : firstRow op + rowCount op ≤ x.rows)
    (tile : engineTile s g (bits op 11 0) o.fb.toNat (64 * targetBytes o.fb.toNat * rowCount op) true (trapOf .illegalField (bits op 11 0)) = .ok (tl, v))
    (table : (o.fb.toNat ≤ 1 → requantTable s g (32 * o.imm.toNat) = .ok tab) ∧ (1 < o.fb.toNat → tab = [])) :
    EngineRule s p t (.mdrn o)
      (s.putAccOp g x (.drain o.mode.toNat o.fb.toNat tab) (firstRow op) (rowCount op) (bit op 22) tl.home.core (tl.at_ v) (some tl.credit)) .next []
  /-- R239, R402: a load-back from an ENGINE tile is queued. -/
  | mlda (o : MxOp) (g : Workgroup) (x : Pitch) (op v : Nat) (tl : Tile) (operand : op = srcReg (ctxOf p (.mlda o)) t o.a)
    (at_ : AtPitch s t g x) (home : tilePending s t (bits op 11 0) = false) (inside : firstRow op + rowCount op ≤ x.rows)
    (tile : engineTile s g (bits op 11 0) o.fb.toNat (256 * rowCount op) false (trapOf .illegalField (bits op 11 0)) = .ok (tl, v)) :
    EngineRule s p t (.mlda o)
      (s.putAccOp g x .loadBack (firstRow op) (rowCount op) (bit op 22) tl.home.core (tl.at_ v) (some tl.credit)) .next []
  /-- R225, R403: the word retires when every quarter of the pack's unit has been granted. -/
  | mma (o : MxOp) (u : MatUnit) (issued : s.unitOf p = some u) (granted : u.left = []) :
    EngineRule s p t (.mma o) { s with engines := { s.engines with units := s.engines.units.filter (fun x => x.threads != u.threads) } } .next []
  /-- R403: no leader, no unit. -/
  | mmaIdle (o : MxOp) (g : Workgroup) (x : Pitch) (fresh : s.unitOf p = none) (at_ : AtPitch s t g x)
    (follower : bit (srcReg (ctxOf p (.mma o)) t o.a) 31 = false) (running : s.frozen (clusterOf p.core) = false) : EngineRule s p t (.mma o) s .next []
  /-- R235, R337: the head row of the queue is taken: elements j and j + 32 of its half for thread j of the squad. -/
  | apop (o : MxOp) (g : Workgroup) (x : Pitch) (r : Nat) (h : Bool) (rest : List (Nat × Bool)) (at_ : AtPitch s t g x)
    (calm : unwatched s x.cluster = true) (head : x.queue = (r, h) :: rest) (first : s.apops g.core g.slot = []) :
    EngineRule s p t (.apop o)
      ((s.modPitch x.cluster x.number (fun y => { y with queue := rest })).modThread t.name (fun y => y.setRegs o.d.toNat
        [s.accGet x.cluster r (64 * b2n h + t.name.wti % 32), s.accGet x.cluster r (64 * b2n h + t.name.wti % 32 + 32)])) .next []
  /-- R235, R338: with no row, or others before it, the squad is BLOCKED. -/
  | apopWait (o : MxOp) (g : Workgroup) (x : Pitch) (at_ : AtPitch s t g x) (calm : unwatched s x.cluster = true)
    (later : x.queue = [] ∨ s.apops g.core g.slot ≠ []) : EngineRule s p t (.apop o) s.nextOrder.2 (.wait (.rowQueue o.d s.nextOrder.1)) []
  /-- R242, R382: the header at the thread's address configures its pitch. -/
  | gcfg (o : MxOp) (g : Workgroup) (x : Pitch) (va : Nat) (cfg : GramCfg) (b : List Byte) (s1 : State) (hits : List Nat)
    (operand : va = t.regsVal o.a.toNat 2) (at_ : AtPitch s t g x) (aligned : va % 64 = 0) (low : va < 2 ^ 57)
    (free : s.headerParked t.name = false ∧ s.acqPending t.name = false ∧ s.loadsOut t.name < 63)
    (read : s.readHeader t va = .ok b s1 hits) (good : gramCfg va x.rows b = some cfg) :
    EngineRule s p t (.gcfg o) (s1.modPitch x.cluster x.number (fun y => { y with gram := some cfg })) .next (watchCause hits)
  /-- R243, R383: an evaluation of an ENGINE tile is queued. -/
  | geval (o : MxOp) (g : Workgroup) (x : Pitch) (cfg : GramCfg) (op v : Nat) (tl : Tile) (operand : op = srcReg (ctxOf p (.geval o)) t o.a)
    (at_ : AtPitch s t g x) (home : tilePending s t (bits op 11 0) = false) (configured : x.gram = some cfg)
    (tile : engineTile s g (bits op 11 0) cfg.fx (fmtBytes cfg.fx ((bits op 16 12 + 1) * cfg.cols)) false (gramTrap 0xFFFFFFFE) = .ok (tl, v)) :
    EngineRule s p t (.geval o)
      { s.nextOrder.2 with engines := { s.nextOrder.2.engines with evals := s.engines.evals ++ [evalOf s t x cfg tl v op o.q] } } .next []
  /-- R273, R350: an id is appended to every bin named, or counted as dropped. -/
  | bina (o : AgOp) (b : BinSet) (drained : s.drained t.name = true) (at_ : BinWord s t o (srcReg (ctxOf p (.bina o)) t o.a) b) :
    EngineRule s p t (.bina o) (binSteps s t o (srcReg (ctxOf p (.bina o)) t o.a) b (some (srcReg (ctxOf p (.bina o)) t o.b))).1 .next
      (watchCause (binSteps s t o (srcReg (ctxOf p (.bina o)) t o.a) b (some (srcReg (ctxOf p (.bina o)) t o.b))).2)
  /-- R273: every bin named is cleared. -/
  | binaClr (o : AgOp) (b : BinSet) (drained : s.drained t.name = true) (at_ : BinWord s t o (srcReg (ctxOf p (.binaClr o)) t o.a) b) :
    EngineRule s p t (.binaClr o) (binSteps s t o (srcReg (ctxOf p (.binaClr o)) t o.a) b none).1 .next
      (watchCause (binSteps s t o (srcReg (ctxOf p (.binaClr o)) t o.a) b none).2)
  /-- R284, R408: the counter named is read. -/
  | occr (o : AgOp) (calm : unwatched s (clusterOf t.name.core) = true) :
    EngineRule s p t (.occr o)
      (s.modThread t.name (·.setReg o.d.toNat
        (BitVec.ofNat 32 (s.occlusion (clusterOf t.name.core) (srcReg (ctxOf p (.occr o)) t o.a % 4096))))) .next []
  /-- R284, R408: it is read and cleared in one step. -/
  | occrClr (o : AgOp) (calm : unwatched s (clusterOf t.name.core) = true) :
    EngineRule s p t (.occrClr o)
      ((s.setOcclusion (clusterOf t.name.core) (srcReg (ctxOf p (.occrClr o)) t o.a % 4096) 0).modThread t.name (·.setReg o.d.toNat
        (BitVec.ofNat 32 (s.occlusion (clusterOf t.name.core) (srcReg (ctxOf p (.occrClr o)) t o.a % 4096))))) .next []
  /-- R283, R418: the word retires with the number of samples passed once the engine has performed the operation. -/
  | rast (o : AgOp) (r : RastOp) (v : Word32) (mine : s.engines.rasts.filter (fun x => [t.name].contains x.thread) = [r]) (performed : r.done = some v) :
    EngineRule s p t (.rast o)
      (State.modThread { s with engines := { s.engines with rasts := s.engines.rasts.filter (fun x => !([t.name].contains x.thread)) } } t.name
        (·.setReg o.d.toNat v)) .next []
  /-- R290, R425: a sample whose checks pass stands outstanding. -/
  | samp (o : MrOp) (room : s.loadsOut t.name < 63) (open_ : s.acqPending t.name = false) (op : Nat × BitVec 256)
    (operand : op = sampOperands t o.a.toNat)
    (checks : ∃ r s1, s.sample { name := t.name, level := t.level, pc := (ctxOf p (.samp o)).pc, word := (ctxOf p (.samp o)).word } op.1 op.2
      (o.off.getLsbD 0) = .ok r s1) :
    EngineRule s p t (.samp o)
      { s.nextOrder.2 with store := { s.nextOrder.2.store with outst := s.store.outst ++ [sampleOf s p t o] } } .next []
  /-- R112, R436: the record spawns a task in the lowest free entry (DESIGN CHOICE, log 48), after a release. -/
  | tspawn (o : AgOp) (g : Workgroup) (l : Launch) (r : TaskRec) (e : Nat) (u : State) (fresh : t.name ∉ p.spawned)
    (drained : s.drained t.name = true)
    (record : tspawnRec s t (srcReg (ctxOf p (.tspawn o)) t o.a) = .ok (g, l, r)) (room : s.freeEntry (clusterOf g.core) g.cls = some e)
    (effect : u = ((((s.release t.name.core 2).closeRegion t.name).watch agentDevice (some g.core)
      (g.base + srcReg (ctxOf p (.tspawn o)) t o.a) 128 true false (fun _ => true)).2.spawnTask (clusterOf g.core) e g.lid g.q g.group g.w g.cls r none))
    (stays : ((u.kill t.name (.tspawn o)).thread? t.name).any (fun x => x.st == .issuing) = true) :
    EngineRule s p t (.tspawn o) u .next []

/-- The unit that a leader's MMA makes of a pack (R225, R230, R403). -/
def newUnit (now order : Nat) (p : Pack) (g : Workgroup) (x : Pitch) (o : MxOp) (q : Quarter) (b : Operand) (key : Nat) : MatUnit :=
  { cluster := x.cluster, core := g.core, slot := g.slot, threads := p.threads, pitch := x.number, cls := x.cls, pri := x.pri, role := g.role
    leader := q.leader, arrival := now, order := order, waited := 0, queueWait := 0, fa := o.fa.toNat, fb := o.fb.toNat, mode := o.mode.toNat
    push := o.q, bsl := o.bsl.toNat, key := key, b := b, left := [q], begun := false, fid := none }

/-- A unit enters its cluster's arbiter. -/
def putUnit (s : State) (u : MatUnit) : State := { s.nextOrder.2 with engines := { s.nextOrder.2.engines with units := s.nextOrder.2.engines.units ++ [u] } }

/-- The watchpoints that a leader's record reads fire are owed to it (R309). -/
def leadOwes (c : Ctx) (t : Thread) (s : State) (fired : List Nat) : State :=
  (watchCause fired).foldl (fun s info => s.owe t.name info c.pc c.word) s

/-- A register pair of a thread that XEQ may take as a VEC word (R440): its instruction, legal under the clause header, with operands
ready. -/
structure XeqVec (s : State) (p : Pack) (t : Thread) (o : VOp) (w : Word64) (i : Instr) (o2 : VOp) (sp : VSpec) (c : Ctx) : Prop where
  word : w = BitVec.ofNat 64 (t.regsVal o.a.toNat 2)
  legal : xeqLegal p.hdr true w = some i
  vec : vecSpec i = some (o2, sp)
  inner : c = (ctxOf p (.xeq o)).inside w i [t.name]
  ready : c.xeqReady s = true
  sound : ∀ v ∈ c.reads, t.reg? v ≠ some .bad
  active : c.active t = true

end Sys2Proof
end

