-- ==== Sys2Proof/Safety/EngineEvents.lean ====
section
/-! DEFINITION. What the events of copy channels, matrix and raster engines do where they are enabled, clause by clause. -/

namespace Sys2Proof

open Machine

/-- The fetch of an operand is over and brought no error (R228). -/
def Operand.sound (o : Operand) : Prop := o.ready = true ∧ o.err = none

/-- A quarter as a pass takes it (R226). -/
def passQuarterOf (u : MatUnit) (q : Quarter) : PassQuarter :=
  { pitch := u.pitch, push := u.push, row := q.row, half := q.half, a := q.a.data, b := u.b.data, creditA := q.a.credit, creditB := u.b.credit }

/-- The oldest queued accumulator operation of a device, ready to run in a cluster that nothing watches (R234, R236). -/
structure NextAccOp (s : State) (cluster : Nat) (o : AccOp) (rest : List AccOp) : Prop where
  first : s.engines.accOps = o :: rest
  here : o.cluster = cluster
  once : o ∉ rest
  ready : s.accReady o = true
  calm : unwatched s cluster = true

/-- The queue of accumulator operations without its first. -/
def withAccOps (s : State) (l : List AccOp) : State := { s with engines := { s.engines with accOps := l } }

/-- Bytes that a drain writes: each element in turn, little-endian (R237). -/
def drainBytes (s : State) (o : AccOp) (mode tgt : Nat) (table : List Byte) : List Byte :=
  ((List.range o.count).flatMap (fun i => (List.range 64).map (fun c => (o.row + i, c)))).flatMap (fun x =>
    leBytes (drainElem mode tgt table x.2 (s.accGet o.cluster x.1 (64 * b2n o.half + x.2)).toNat) (targetBytes tgt))

/-- `EngineEvent s i u`: an event of an engine takes a state `s` in which it is enabled to `u`. -/
inductive EngineEvent (s : State) : Instr → State → Prop where
  /-- R186, R199: the transfer whose turn it is starts once its thread's earlier accesses are performed, and reads its sources. -/
  | copyStart (core ch : Nat) (c : Copy) (next : s.channelNext core ch = some c) (unparked : c.fid = none) (fresh : c.started = false)
    (free : s.stop? (clusterOf core) = none) (performed : ∀ o ∈ s.store.outst, o.id ∉ c.before) (calm : unwatched s (clusterOf core) = true) :
    EngineEvent s (.copyLanding core ch) ((s.cleanCore core).copyRead { c with started := true })
  /-- R201, R204: a transfer whose parked read has been answered reads on. -/
  | copyGoesOn (core ch : Nat) (c : Copy) (next : s.channelNext core ch = some c) (unparked : c.fid = none) (started : c.started = true)
    (unread : c.readDone = false) (calm : unwatched s (clusterOf core) = true) : EngineEvent s (.copyLanding core ch) (s.copyRead c)
  /-- R201: a transfer that has read lands its next bytes, at most to the end of a line, and credits them; the last of them ends it. -/
  | copyPiece (core ch to_ addr k a : Nat) (b : Byte) (more piece : List (Nat × Nat × Byte)) (c : Copy) (t : Target) (s1 : State)
    (next : s.channelNext core ch = some c)
    (unparked : c.fid = none) (started : c.started = true) (read : c.readDone = true) (calm : unwatched s (clusterOf core) = true)
    (dest : c.dest = some t) (there : s.targetGone t = false) (one : c.multi = false) (into : c.store = false) (near : c.near = .scratch to_ addr)
    (dense : c.stream = false) (sound : c.err = none) (left : (c.bytesTo c.near).drop c.landed = (k, a, b) :: more)
    (within : piece = (((k, a, b) :: more).take (64 - a % 64)).filter (fun x => x.1 == k && x.2.1 / 64 == a / 64))
    (landed : s1 = (((s.landBytes c.lid k (piece.map (·.2))).putCopy { c with landed := c.landed + piece.length }).creditAll c.creditLand
      piece.length none)) :
    EngineEvent s (.copyLanding core ch) (if more.length + 1 = piece.length then s1.copyOver c else s1)
  /-- R226, R230 to R233: the one unit of a cluster whose operands are there is granted in one pass when its quarters are at most 4. -/
  | grant (u : MatUnit) (only : s.engines.units = [u]) (fresh : u.begun = false) (some_ : u.left ≠ []) (few : u.left.length ≤ 4)
    (unparked : u.fid = none) (free : s.unitQuarters u 4 [] = u.left)
    (b : Operand.sound u.b) (a : ∀ q ∈ u.left, Operand.sound q.a) (runs : s.frozen u.cluster = false) (calm : unwatched s u.cluster = true) :
    EngineEvent s (.passGrant u.cluster)
      { s with engines := { s.engines with
        units := [{ u with left := [], begun := true, queueWait := 0 }]
        bslots := (s.fillSlot u).engines.bslots
        passes := s.engines.passes ++ [{ cluster := u.cluster, fa := u.fa, fb := u.fb, mode := u.mode, quarters := u.left.map (passQuarterOf u) }] } }
  /-- R226, R233, R234: the oldest pass writes its quarters' results, credits their tiles, and pushes their rows where PUSH was given. -/
  | complete (p : Pass) (rest : List Pass) (q : PassQuarter) (first : s.engines.passes = p :: rest) (one : p.quarters = [q]) :
    EngineEvent s (.passComplete p.cluster)
      (let s1 := ((State.writeQuarter { s with engines := { s.engines with passes := rest } } p q).creditQuarter q.creditA q.creditB)
       if q.push then s1.modPitch p.cluster q.pitch (fun x => { x with queue := x.queue ++ (List.range 8).map (fun m => (q.row + m, q.half)) }) else s1)
  /-- R243, R244: the next evaluation of a cluster starts with its sums zero and runs to its first rule boundary. -/
  | evalStart (cluster : Nat) (e : Eval) (p : Pitch) (next : s.evalNext cluster = some e) (pitch : s.pitch? cluster e.pitch = some p)
    (open_ : e.ended = false) (goes : e.abort = false) (unparked : e.fid = none) (here : e.cluster = cluster) (fresh : e.running = false) (runs : s.frozen cluster = false)
    (ready : s.evalReady e = true) (sound : s.scratchPoisoned e.core e.addr e.tileBytes = false) (calm : unwatched s cluster = true) :
    EngineEvent s (.grammarEvaluation cluster)
      ((s.modEval { e with running := true, sums := e.zeros }).evalRule p.base evalFuel { e with running := true, sums := e.zeros })
  /-- R244: an evaluation that runs goes on to its next rule boundary. -/
  | evalGoesOn (cluster : Nat) (e : Eval) (p : Pitch) (next : s.evalNext cluster = some e) (pitch : s.pitch? cluster e.pitch = some p)
    (open_ : e.ended = false) (goes : e.abort = false) (unparked : e.fid = none) (here : e.cluster = cluster) (running : e.running = true) (runs : s.frozen cluster = false) :
    EngineEvent s (.grammarEvaluation cluster) (s.evalRule p.base evalFuel e)
  /-- R161, R243: one whose parked read was answered by FAIL ends with COPY_ERROR on its pitch. -/
  | evalFailed (cluster : Nat) (e : Eval) (next : s.evalNext cluster = some e) (open_ : e.ended = false) (unparked : e.fid = none)
    (failed : e.abort = true) : EngineEvent s (.grammarEvaluation cluster) (s.evalFault e .copyError e.itemVa)
  /-- R243: an ended evaluation owes its rows, each once and in rising order, and credits its input tile. -/
  | evalEnd (e : Eval) (rest : List Eval) (first : s.engines.evals = e :: rest) (ended : e.ended = true) (push : e.push = true) :
    EngineEvent s (.evaluationEnd e.cluster)
      (State.creditAll (State.modPitch { s with engines := { s.engines with
          evals := s.engines.evals.filter (fun x => !(x.cluster == e.cluster && x.order == e.order)) } } e.cluster e.pitch
        (fun p => { p with owed := p.owed ++ (ascending e.rowsWritten).map (fun r => (r, decide (2 ≤ e.cq))) })) e.credit.toList e.tileBytes none)
  /-- R234, R243: an owed row enters a queue of fewer than 64 entries, granted pushes counted. -/
  | rowPush (cluster pitch : Nat) (p : Pitch) (x : Nat × Bool) (rest : List (Nat × Bool)) (found : s.pitch? cluster pitch = some p)
    (owed : p.owed = x :: rest) (room : p.queue.length + s.pushesComing cluster pitch < 64) :
    EngineEvent s (.evaluationRowPush cluster pitch) (s.modPitch cluster pitch (fun p => { p with queue := p.queue ++ [x], owed := rest }))
  /-- R237, R238: a drain writes its rows' elements to the tile and credits it. -/
  | drain (cluster mode tgt : Nat) (table : List Byte) (o : AccOp) (rest : List AccOp) (at_ : NextAccOp s cluster o rest)
    (kind : o.kind = .drain mode tgt table) :
    EngineEvent s (.drainExecution cluster)
      (((withAccOps s rest).scratchStore o.lid o.core o.addr (drainBytes s o mode tgt table)).creditAll o.credit.toList
        (drainBytes s o mode tgt table).length none)
  /-- R239: a load-back sets its rows from the tile's words and credits it. -/
  | loadBack (cluster : Nat) (o : AccOp) (rest : List AccOp) (at_ : NextAccOp s cluster o rest) (kind : o.kind = .loadBack)
    (sound : s.scratchPoisoned o.core o.addr (256 * o.count) = false) :
    EngineEvent s (.loadBackExecution cluster)
      (let places := (List.range o.count).flatMap (fun i => (List.range 64).map (fun c => (o.row + i, c)))
       let b := s.scratchRead o.core o.addr (256 * o.count)
       (((List.range places.length).zip places).foldl (fun (s : State) (i, r, c) =>
         s.accPut o.cluster r (64 * b2n o.half + c) (BitVec.ofNat 32 (leVal ((b.drop (4 * i)).take 4)))) (withAccOps s rest)).creditAll
           o.credit.toList (256 * o.count) none)
  /-- R239: a clear sets its rows' columns to zero: an unlisted accumulator element is 0. -/
  | clear (cluster : Nat) (both : Bool) (o : AccOp) (rest : List AccOp) (at_ : NextAccOp s cluster o rest) (kind : o.kind = .clear both) :
    EngineEvent s (.accumulatorClear cluster) ((withAccOps s rest).clearRect cluster o.rect)
  /-- R223: the pitch of an EXITING workgroup whose work is over is free, its queue discarded. -/
  | pitchFree (cluster pitch : Nat) (p : Pitch) (g : Workgroup) (found : s.pitch? cluster pitch = some p) (holder : s.group? p.core p.slot = some g)
    (exiting : g.exiting = true) (rests : s.pitchBusy cluster pitch = false) (sound : p.err = none) :
    EngineEvent s (.pitchRelease cluster pitch)
      { s with engines := { s.engines with pitches := s.engines.pitches.filter (fun x => !(x.cluster == p.cluster && x.number == p.number)) } }
  /-- R223, R240: while its work goes on the pitch is releasing. -/
  | pitchWaits (cluster pitch : Nat) (p : Pitch) (g : Workgroup) (found : s.pitch? cluster pitch = some p) (holder : s.group? p.core p.slot = some g)
    (exiting : g.exiting = true) (busy : s.pitchBusy cluster pitch = true) :
    EngineEvent s (.pitchRelease cluster pitch) (s.modPitch cluster pitch (fun p => { p with releasing := true }))
  /-- R240: FRZ is set and the units with no granted quarter are withdrawn. -/
  | freeze (cluster : Nat) (real : cluster < 64) :
    EngineEvent s (.freezeRequest cluster true)
      { s.setDreg (regFreeze cluster) (setBits (s.dreg (regFreeze cluster)) 0 0 1) with
        engines := { s.engines with units := s.engines.units.filter (fun u => u.cluster != cluster || u.begun) } }
  /-- R240: clearing FRZ clears FDONE. -/
  | unfreeze (cluster : Nat) (real : cluster < 64) : EngineEvent s (.freezeRequest cluster false) (s.setDreg (regFreeze cluster) 0)
  /-- R240: FDONE is set once the frozen engine has come to rest. -/
  | frozen (cluster : Nat) (frz : s.frozen cluster = true) (units : ∀ u ∈ s.engines.units, u.cluster = cluster → u.begun = true → u.left = [])
    (passes : ∀ p ∈ s.engines.passes, p.cluster ≠ cluster) (evals : ∀ e ∈ s.engines.evals, e.cluster = cluster → e.mid = false) :
    EngineEvent s (.freezeDone cluster) (s.setDreg (regFreeze cluster) (setBits (s.dreg (regFreeze cluster)) 1 1 1))
  /-- R281, R283: the one operation of the raster engine is performed, its count is kept for its thread, and its tiles are credited. -/
  | rast (r : RastOp) (t : Thread) (only : s.engines.rasts = [r]) (fresh : r.done = none) (found : s.thread? r.thread = some t) (live : t.st ≠ .exited)
    (untrapped : t.trap = none) (runs : s.frozen r.cluster = false) (calm : unwatched s r.cluster = true) :
    EngineEvent s (.rastOperation r.cluster)
      (let s1 := (s.rastRun r).1
       State.creditAll { s1 with engines := { s1.engines with rasts := s1.engines.rasts.map (fun (x : RastOp) =>
         if x.cluster == r.cluster && x.order == r.order then { x with done := some (BitVec.ofNat 32 (min (s.rastRun r).2 (2 ^ 32 - 1))) } else x) } }
         r.credits (4 * r.ww * r.wh) none)
  /-- R234: a unit that has waited 2^20 cycles for its row queue is withdrawn, and its thread takes QDEADLOCK. -/
  | queueTimeout (cluster : Nat) (u : MatUnit) (t : Thread) (found : s.engines.units.find? (fun u => u.cluster == cluster && 2 ^ 20 ≤ u.queueWait) = some u)
    (one : u.threads = [t.name]) (thread : (s.dropUnit u).thread? t.name = some t) (live : t.st ≠ .exited) (untrapped : t.trap = none) :
    EngineEvent s (.rowQueueTimeout cluster)
      (let s1 := s.dropUnit u
       let at_ := s1.position t.name
       s1.trapAt t.name (trapOf .qdeadlock 2) at_.1 (s1.peek t.name.core (s1.asidOf t.name) t.level (wordAddr at_.1.ca at_.1.wi)) at_.2.1 at_.2.2)

end Sys2Proof
end

