-- ==== Sys2Proof/Safety/Flow.lean ====
section
/-! DEFINITION. What a queue word, a ring word or a task spawn does for the thread of a pack, clause by clause as the reference entries
say. -/

namespace Sys2Proof

open Machine

/-! ## Queues -/

/-- A queue word names a descriptor of the thread's workgroup (R417). -/
structure AtQueue (s : State) (t : Thread) (off : Nat) (r : QRef) : Prop where
  group : s.groupOf t.name = some r.g
  aligned : off % 64 = 0
  inside : off + 64 ≤ r.g.size
  place : r.a = r.g.base + off

/-- A queue that QINIT has made, its descriptor readable (R304). -/
def made (s : State) (r : QRef) : Prop := (s.mark? r.g.core r.a true).isSome = true ∧ s.scratchPoisoned r.g.core r.a 64 = false

/-- The entry registers of a push are ready and lie below V127 (R104, R416, R417). -/
structure EntryReady (s : State) (t : Thread) (d : RegF) (q : Queue) : Prop where
  even : d.toNat % 2 = 0
  inside : d.toNat + 2 * (q.esz + 1) ≤ 127
  ready : (entryRegs d q).all (fun v => !((s.busyRegs t).contains v) && t.reg? v != some .spilled) = true

/-- Bytes of the entry a push writes: its registers, low first. -/
def entryOf (t : Thread) (d : RegF) (q : Queue) : List Byte := leBytes (t.regsVal d.toNat (2 * (q.esz + 1))) (8 * (q.esz + 1))

/-- The two forms of a push. -/
def pushWord (i : Instr) : Option (AgOp × Bool) := match i with | .qpush o => some (o, false) | .qpushC o => some (o, true) | _ => none

/-- The two forms of a pop, with the predicate the second sets. -/
def popWord (i : Instr) : Option (AgOp × Option Nat) :=
  match i with | .qpop o => some (o, none) | .qpopE o => some (o, some o.d.toNat) | _ => none

/-- `QueueRule s p t i s1 fate`: the queue words; after one has retired, what it lets blocked threads do is done. -/
inductive QueueRule (s : State) (p : Pack) (t : Thread) : Instr → State → Fate → Prop where
  /-- R416: with room in the array and nothing spilled the entry is appended. -/
  | push (i : Instr) (o : AgOp) (consumer : Bool) (r : QRef) (q : Queue) (word : pushWord i = some (o, consumer))
    (drained : s.drained t.name = true) (at_ : AtQueue s t (srcReg (ctxOf p i) t o.a) r) (inUse : made s r)
    (desc : q = s.readQueue r.g.core r.a) (ready : EntryReady s t o.d q) (open_ : q.clsd = false) (first : s.pushers r = [])
    (room : q.inArray < q.cap) (unspilled : q.scnt = 0) :
    QueueRule s p t i (((s.queueOp t r).appendArray r (entryOf t o.d q)).killEntry o t.name q) .next
  /-- R118: behind spilled entries it goes to the spill region. -/
  | pushSpill (i : Instr) (o : AgOp) (consumer : Bool) (r : QRef) (q : Queue) (s1 : State) (word : pushWord i = some (o, consumer))
    (drained : s.drained t.name = true) (at_ : AtQueue s t (srcReg (ctxOf p i) t o.a) r) (inUse : made s r)
    (desc : q = s.readQueue r.g.core r.a) (ready : EntryReady s t o.d q) (open_ : q.clsd = false) (first : s.pushers r = [])
    (spilled : q.scnt ≠ 0) (region : q.sv = true) (room : q.scnt < q.scap)
    (stored : (s.queueOp t r).appendSpill r (entryOf t o.d q) = .ok s1) :
    QueueRule s p t i (s1.killEntry o t.name q) .next
  /-- R119: otherwise the thread is BLOCKED with its entry. -/
  | pushWait (i : Instr) (o : AgOp) (consumer : Bool) (r : QRef) (q : Queue) (word : pushWord i = some (o, consumer))
    (drained : s.drained t.name = true) (at_ : AtQueue s t (srcReg (ctxOf p i) t o.a) r) (inUse : made s r)
    (desc : q = s.readQueue r.g.core r.a) (ready : EntryReady s t o.d q) (open_ : q.clsd = false)
    (full : s.pushers r ≠ [] ∨ (q.cap ≤ q.inArray ∧ q.scnt = 0) ∨ (q.scnt ≠ 0 ∧ (q.sv = false ∨ q.scap ≤ q.scnt))) :
    QueueRule s p t i ((s.queueOp t r).nextOrder.2.killEntry o t.name q)
      (.wait (.push (r.a - r.g.base) consumer (entryOf t o.d q) (s.queueOp t r).nextOrder.1))
  /-- R120: one producer leaves; the last one closes the queue. -/
  | close (o : AgOp) (r : QRef) (q : Queue) (drained : s.drained t.name = true)
    (at_ : AtQueue s t (srcReg (ctxOf p (.qpushClose o)) t o.a) r) (inUse : made s r) (desc : q = s.readQueue r.g.core r.a)
    (open_ : q.clsd = false) (more : q.pex ≠ q.npr) :
    QueueRule s p t (.qpushClose o)
      ((s.queueOp t r).writeQueue r.g.core r.a { q with pex := q.pex + 1, clsd := q.pex + 1 == q.npr }) .next
  /-- R417: with an entry in the array and nobody before it, the thread takes the head entry into its scratch. -/
  | pop (i : Instr) (o : AgOp) (pred : Option Nat) (r : QRef) (q : Queue) (word : popWord i = some (o, pred))
    (drained : s.drained t.name = true) (at_ : AtQueue s t (srcReg (ctxOf p i) t o.a) r) (inUse : made s r)
    (desc : q = s.readQueue r.g.core r.a) (target : srcReg (ctxOf p i) t o.b % 8 = 0) (fits : srcReg (ctxOf p i) t o.b + q.size ≤ r.g.size)
    (owner : s.ownerCheck r.g.core (r.g.base + srcReg (ctxOf p i) t o.b) q.size true = none) (first : s.poppers r = [])
    (some_ : 0 < q.inArray) (sound : s.headBad r = none) :
    QueueRule s p t i
      ((((s.queueOp t r).popTo r (srcReg (ctxOf p i) t o.b)).popPred t.name pred true).acquire t.name.core 1) .next
  /-- R120: a closed and empty queue yields nothing. -/
  | popEnd (i : Instr) (o : AgOp) (pred : Option Nat) (r : QRef) (q : Queue) (word : popWord i = some (o, pred))
    (drained : s.drained t.name = true) (at_ : AtQueue s t (srcReg (ctxOf p i) t o.a) r) (inUse : made s r)
    (desc : q = s.readQueue r.g.core r.a) (target : srcReg (ctxOf p i) t o.b % 8 = 0) (fits : srcReg (ctxOf p i) t o.b + q.size ≤ r.g.size)
    (owner : s.ownerCheck r.g.core (r.g.base + srcReg (ctxOf p i) t o.b) q.size true = none) (empty : q.inArray = 0)
    (ended : q.clsd = true) (none_ : q.count = 0) :
    QueueRule s p t i ((s.queueOp t r).popPred t.name pred false) .next
  /-- R119: otherwise it is BLOCKED. -/
  | popWait (i : Instr) (o : AgOp) (pred : Option Nat) (r : QRef) (q : Queue) (word : popWord i = some (o, pred))
    (drained : s.drained t.name = true) (at_ : AtQueue s t (srcReg (ctxOf p i) t o.a) r) (inUse : made s r)
    (desc : q = s.readQueue r.g.core r.a) (target : srcReg (ctxOf p i) t o.b % 8 = 0) (fits : srcReg (ctxOf p i) t o.b + q.size ≤ r.g.size)
    (owner : s.ownerCheck r.g.core (r.g.base + srcReg (ctxOf p i) t o.b) q.size true = none) (empty : q.inArray = 0)
    (open_ : q.clsd = false) :
    QueueRule s p t i (s.queueOp t r).nextOrder.2
      (.wait (.pop (srcReg (ctxOf p i) t o.a) (srcReg (ctxOf p i) t o.b) pred (s.queueOp t r).nextOrder.1))
  /-- R276: an amplifying push within its limit and with room appends its entry. -/
  | amp (o : AgOp) (r : QRef) (q : Queue) (drained : s.drained t.name = true)
    (at_ : AtQueue s t (srcReg (ctxOf p (.qpushAmp o)) t o.a) r) (inUse : made s r) (desc : q = s.readQueue r.g.core r.a)
    (ready : EntryReady s t o.d q) (open_ : q.clsd = false) (plain : r.g.cls ≠ 0 ∨ q.sv = false)
    (within : srcReg (ctxOf p (.qpushAmp o)) t o.b < o.imm.toNat) (room : q.inArray < q.cap) (unspilled : q.scnt = 0) :
    QueueRule s p t (.qpushAmp o) (((s.queueOp t r).killEntry o t.name q).appendArray r (entryOf t o.d q)) .next
  /-- R276, R277: beyond its limit, or without room, its entry is dropped. -/
  | ampDrop (o : AgOp) (r : QRef) (q : Queue) (drained : s.drained t.name = true)
    (at_ : AtQueue s t (srcReg (ctxOf p (.qpushAmp o)) t o.a) r) (inUse : made s r) (desc : q = s.readQueue r.g.core r.a)
    (ready : EntryReady s t o.d q) (open_ : q.clsd = false) (plain : r.g.cls ≠ 0 ∨ q.sv = false)
    (beyond : o.imm.toNat ≤ srcReg (ctxOf p (.qpushAmp o)) t o.b ∨ (q.cap ≤ q.inArray ∧ q.sv = false)) :
    QueueRule s p t (.qpushAmp o) (((s.queueOp t r).killEntry o t.name q).ampDrop t r) .next

/-! ## Rings -/

/-- The ring a word names is valid in the thread's address space, and a bound one is named by a chain's workgroup (R263, R265). -/
structure AtRing (s : State) (t : Thread) (a : Nat) (g : Workgroup) : Prop where
  group : s.groupOf t.name = some g
  valid : (s.ring a).invalid (s.asidOf t.name) = false
  bound : (s.ring a).bnd = true → g.chain.isSome = true

/-- The slot that operand `a` names is held by the thread's owner in a state (R265). -/
structure HoldsSlot (s : State) (t : Thread) (a : Nat) (st : SlotState) (g : Workgroup) (x : RingSlot) : Prop where
  field : a < 2 ^ 14
  ring : AtRing s t (bits a 7 0) g
  found : s.slot? (bits a 7 0) (bits a 13 8) = some x
  state : x.st = st
  owner : x.owner = some (ringOwner g (s.ring (bits a 7 0)))

/-- `RingRule s p t i s1 fate`: the ring words but RGREL.PUB, and QINIT. -/
inductive RingRule (s : State) (p : Pack) (t : Thread) : Instr → State → Fate → Prop where
  /-- R265, R423: an acquirable sequence is acquired at once; the register receives the slot word. -/
  | acquire (o : AgOp) (g : Workgroup) (w : Nat) (s1 : State) (field : srcReg (ctxOf p (.rgacq o)) t o.a < 256)
    (at_ : AtRing s t (srcReg (ctxOf p (.rgacq o)) t o.a) g)
    (side : o.sub6.getLsbD 0 = true → (s.ring (srcReg (ctxOf p (.rgacq o)) t o.a)).conk = 0)
    (first : s.nextOrder.2.ringAhead (srcReg (ctxOf p (.rgacq o)) t o.a) (o.sub6.getLsbD 0) s.nextOrder.1 = false)
    (got : s.nextOrder.2.ringTry g t.name.wti (srcReg (ctxOf p (.rgacq o)) t o.a) (o.sub6.getLsbD 0) = some (w, s1)) :
    RingRule s p t (.rgacq o) (s1.modThread t.name (·.setReg o.d.toNat (BitVec.ofNat 32 w))) .next
  /-- R265: otherwise the thread is BLOCKED in turn. -/
  | wait (o : AgOp) (g : Workgroup) (field : srcReg (ctxOf p (.rgacq o)) t o.a < 256)
    (at_ : AtRing s t (srcReg (ctxOf p (.rgacq o)) t o.a) g)
    (side : o.sub6.getLsbD 0 = true → (s.ring (srcReg (ctxOf p (.rgacq o)) t o.a)).conk = 0)
    (later : s.nextOrder.2.ringAhead (srcReg (ctxOf p (.rgacq o)) t o.a) (o.sub6.getLsbD 0) s.nextOrder.1 = true ∨
      s.nextOrder.2.ringTry g t.name.wti (srcReg (ctxOf p (.rgacq o)) t o.a) (o.sub6.getLsbD 0) = none) :
    RingRule s p t (.rgacq o) s.nextOrder.2 (.wait (.ring (srcReg (ctxOf p (.rgacq o)) t o.a) (o.sub6.getLsbD 0) o.d s.nextOrder.1))
  /-- R264, R265: a DRAINING slot is released. -/
  | release (o : AgOp) (g : Workgroup) (x : RingSlot)
    (at_ : HoldsSlot s t (srcReg (ctxOf p (.rgrelRel o)) t o.a) .draining g x) :
    RingRule s p t (.rgrelRel o) (s.releaseSlot x) .next
  /-- R265: a hold on some lines of a DRAINING slot is recorded. -/
  | hold (o : AgOp) (g : Workgroup) (x : RingSlot) (b : Nat) (field : b = srcReg (ctxOf p (.rghold o)) t o.b) (low : b < 2 ^ 14)
    (clean : bits b 7 6 = 0) (at_ : HoldsSlot s t (srcReg (ctxOf p (.rghold o)) t o.a) .draining g x)
    (lines : bits b 5 0 + (bits b 13 8 + 1) ≤ (s.ring (bits (srcReg (ctxOf p (.rghold o)) t o.a) 7 0)).lines) :
    RingRule s p t (.rghold o) (s.modSlot x.ring x.slot (fun y => { y with hold := some (bits b 5 0, bits b 13 8 + 1) })) .next
  /-- R415: an empty queue is made. -/
  | qinit (o : AgOp) (r : QRef) (q : Queue) (at_ : AtQueue s t (srcReg (ctxOf p (.qinit o)) t o.a) r)
    (desc : q = queueOfWords (t.regsVal o.d.toNat 2) (t.regsVal (o.d.toNat + 2) 2) (srcReg (ctxOf p (.qinit o)) t o.b * 2 ^ 32) 0 0 0)
    (fits : q.base + q.cap * q.size ≤ r.g.size) (counts : q.cap ≠ 0 ∧ q.npr ≠ 0 ∧ q.nco ≠ 0 ∧ q.base % 8 = 0)
    (clean : bits (t.regsVal o.d.toNat 2) 51 49 = 0 ∧ bits (t.regsVal o.d.toNat 2) 33 20 = 0 ∧
      bits (t.regsVal (o.d.toNat + 2) 2) 62 57 = 0)
    (spill : (q.sv = true ∧ q.spa % 64 = 0) ∨ (q.sv = false ∧ q.spa = 0 ∧ srcReg (ctxOf p (.qinit o)) t o.b = 0))
    (idle : s.mark? r.g.core r.a true = none ∨ (s.pushers r = [] ∧ s.poppers r = [] ∧ (s.readQueue r.g.core r.a).scnt = 0)) :
    RingRule s p t (.qinit o) ((s.putMark r.g.core r.a true).writeQueue r.g.core r.a q) .next

end Sys2Proof
end

