-- ==== Sys2Proof/Safety/LaunchEvents.lean ====
section
/-! DEFINITION. What the events of launches, tasks, strips, rings, outputs and time do where they are enabled, clause by clause. -/

namespace Sys2Proof

open Machine

/-- The launch queue holds an entry that may be read now: its launch record's address and its address space (R31, R322). -/
structure NextLaunch (s : State) (asid va : Nat) : Prop where
  some_ : s.dreg (regLq + 8) % 2 ^ 32 ≠ s.dreg (regLq + 8) / 2 ^ 32
  admits : s.control.checkpointHalt = false
  unseen : s.watchpoints = []
  up : s.control.fw.phase = 7
  address : va = bits (s.store.mem.val (bits (s.dreg regLq) 51 16 * 2 ^ 16 + 16 * (s.dreg (regLq + 8) % 2 ^ 32 % 4096)) 8) 56 0
  space : asid = bits (s.store.mem.val (bits (s.dreg regLq) 51 16 * 2 ^ 16 + 16 * (s.dreg (regLq + 8) % 2 ^ 32 % 4096) + 8) 8) 63 48

/-- The same state with LQH past the entry. -/
def pastEntry (s : State) : State :=
  s.setDreg (regLq + 8) (s.dreg (regLq + 8) / 2 ^ 32 * 2 ^ 32 + (s.dreg (regLq + 8) % 2 ^ 32 + 1) % 2 ^ 32)

/-- A workgroup that is over: EXITING, in a core that runs, nothing of it outstanding, and nothing held for it (R21). -/
structure Over (s : State) (g : Workgroup) : Prop where
  found : s.group? g.core g.slot = some g
  exiting : g.exiting = true
  moves : s.stopped g.core = false
  unparked : ∀ o ∈ s.store.outst, g.has o.thread = true → o.fid = none
  held : ∀ h ∈ s.engines.heldDeliveries, h.for_ g = false
  rests : s.workLeft g = false

/-- The task of a dependence table that is dispatched next (R114): STRIP tasks first, then in spawn order. -/
def nextTask (s : State) (cluster : Nat) : Option Task :=
  let l := s.table cluster
  (l.filter (·.cls == 0) ++ l.filter (·.cls != 0)).find? s.taskStartable

/-- The workgroup that a task starts as (R110, R111). -/
def gangOf (s : State) (t : Task) (l : Launch) (core slot base role : Nat) : Workgroup :=
  { core := core, slot := slot, lid := t.lid, w := t.w, q := t.q, group := t.group, role := role, cls := t.cls
    area := l.count + 256 * t.q + t.entry, entry := some t.entry, base := base, size := l.scrk * 1024
    uniform := t.task.args ++ l.cons ++ List.replicate 16 0, crews := t.crews l, exiting := false, chain := none, srate := 0
    startedAt := s.now, cancelled := false, endedByHandler := false, restored := false, restoring := none, away := none }

/-- The serialiser of a unit as its plan drives it. -/
structure Drives (s : State) (unit key : Nat) (p : Plan) : Prop where
  plan : (s.serialiser unit).plan = some (key, p)
  powered : s.control.fw.powerOff = false

/-- Thread cycles blocked in a workgroup, a cycle later, as SUMMARY records count them (R314). -/
def blockedCount (s : State) (x : TraceCount) : Nat :=
  min (2 ^ 64 - 1) (x.blocked + (s.work.threads.filter (fun t => t.name.core == x.core && t.name.slot == x.slot &&
    (match t.st with | .blocked _ => true | _ => false))).length)

/-- A pack that stands at its word, a cycle later: since when it stands there, and since when for want of room in a table (R112). -/
def tickPack (p : Pack) : Pack :=
  if p.stalled = 0 then p else { p with stalled := p.stalled + 1, full := if p.full = 0 then 0 else p.full + 1 }

/-- `LaunchEvent s i u`: an event of launches, tasks, strips, rings, outputs or time takes a state `s` in which it is enabled to `u`. -/
inductive LaunchEvent (s : State) : Instr → State → Prop where
  /-- R322: LQT moves to at most 4,096 entries ahead of LQH. -/
  | queueWrite (v : BitVec 32) (near : (v.toNat + 2 ^ 32 - s.dreg (regLq + 8) % 2 ^ 32) % 2 ^ 32 ≤ 4096) :
    LaunchEvent s (.launchQueueWrite v) (s.setDreg (regLq + 8) (v.toNat * 2 ^ 32 + s.dreg (regLq + 8) % 2 ^ 32))
  /-- R322: a write beyond that is ignored and sets LQERR. -/
  | queueRefused (v : BitVec 32) (far : 4096 < (v.toNat + 2 ^ 32 - s.dreg (regLq + 8) % 2 ^ 32) % 2 ^ 32) :
    LaunchEvent s (.launchQueueWrite v) (s.setDreg (regLq + 16) 1)
  /-- R31, R322: a launch that passes every check is admitted under the next free launch id (DESIGN CHOICE, log 4). -/
  | admitted (asid va : Nat) (l : Launch) (next : NextLaunch s asid va) (judged : (pastEntry s).judge asid va false = .admitted l)
    (calm : ∀ p, unwatched (pastEntry s) p = true) :
    LaunchEvent s .launchAdmission
      (let n := (pastEntry s).freeLid 65536 s.work.nextLid
       { pastEntry s with work := { s.work with launches := s.work.launches ++ [{ l with lid := n }], nextLid := (n + 1) % 2 ^ 16 } })
  /-- R31, R323: one that fails a check is refused with the status of the first one it fails. -/
  | refused (asid va st cpl : Nat) (next : NextLaunch s asid va) (judged : (pastEntry s).judge asid va false = .refuse st cpl) :
    LaunchEvent s .launchAdmission ((pastEntry s).refuse asid st cpl)
  /-- R19, R26: a PENDING workgroup starts when its core has room, no earlier one of its role being PENDING. -/
  | gang (lid w core slot base : Nat) (l : Launch) (found : s.launch? lid = some l) (own : l.plan = none) (within : w < l.count)
    (pending : w ∉ l.started) (turn : l.earlierPending w = false)
    (where_ : l.coreOf (w / l.pK) (l.roles.getD (w % l.pK % l.roles.length) 0) = some core) (moves : s.stopped core = false)
    (room : s.room core l.cls (l.crews.foldl (fun a c => a + c.nth) 0) (l.scrk * 1024) = some (slot, base)) :
    LaunchEvent s (.gangStart lid w)
      ((s.modLaunch lid (fun l => { l with started := l.started ++ [w] })).startGang l (l.gang w core slot base s.now))
  /-- R21, R323: a launch's workgroup that is over has EXITED, and a launch whose workgroups and tasks are all over completes. -/
  | exited (g : Workgroup) (over_ : Over s g) (own : g.entry = none) (task : s.taskOf g = none) :
    LaunchEvent s (.workgroupExited g.core g.slot)
      (((s.vacate g).modLaunch g.lid (fun l => { l with finished := l.finished ++ [g.w] })).launchSettle g.lid)
  /-- R21, R116: a task's workgroup that is over completes its task: COMPLETED, cancelled, or ended by a handler. -/
  | taskExited (g : Workgroup) (t : Task) (over_ : Over s g) (task : s.taskOf g = some t) :
    LaunchEvent s (.workgroupExited g.core g.slot) ((s.vacate g).taskDone t (if g.cancelled then 2 else if g.endedByHandler then 3 else 0))
  /-- R110, R111, R114, R171: the next task starts on a core role that has room; its start acquires on the core. -/
  | dispatch (cluster role core slot base : Nat) (t : Task) (l : Launch) (next : nextTask s cluster = some t) (found : s.launch? t.lid = some l)
    (plain : t.task.ocv = false) (chainless : t.chain = none) (allowed : role ∈ t.roles l) (room : s.taskRoom l t role = some (core, slot, base)) :
    LaunchEvent s (.taskDispatch cluster t.entry role)
      ((State.evict { s with work := { s.work with tasks := s.work.tasks.map (fun (x : Task) =>
        if x.cluster == cluster && x.entry == t.entry then { x with started := some s.time.toNat } else x) } } core (fun _ => true)).startGang l
          (gangOf s t l core slot base role))
  /-- R114, R284: a task whose occlusion counter is zero completes as SKIPPED, with room or without (DESIGN CHOICE, log 49). -/
  | skipped (cluster role : Nat) (t : Task) (l : Launch) (next : nextTask s cluster = some t) (found : s.launch? t.lid = some l)
    (counted : t.task.ocv = true) (zero : s.occlusion cluster t.task.oci = 0) (calm : unwatched s cluster = true) :
    LaunchEvent s (.taskDispatch cluster t.entry role) (s.taskDone t 1)
  /-- R256, R257: the next strip of a plan is admitted from its start time on while the reserve holds its tasks. -/
  | launchAdmitted (slot : Nat) (x : PlanSlot) (l : Launch) (plan : s.enabledPlan slot = some x) (found : s.launch? x.plan.lid = some l)
    (admits : s.control.checkpointHalt = false) (powered : s.control.fw.powerOff = false) (time : x.plan.start x.nextN ≤ s.time)
    (few : x.chains.length ≤ 8) (room : x.plan.tasks.length ≤ s.stripFree (s.roleCluster x.plan.lid (x.plan.role x.nextN))) :
    LaunchEvent s (.stripAdmission slot) (s.admitStrip x l x.nextN)
  /-- R261: at its finish time the oldest chain ends: with its slot unpublished when its tasks are over, and cancelled when they are not. -/
  | finish (slot n : Nat) (p : PlanSlot) (c : Chain) (rest : List Chain)
    (found : s.media.plans.find? (fun p => slotOf p.slot == slot && (p.chains.head?.map (·.n)) == some n) = some p) (first : p.chains = c :: rest)
    (time : p.plan.finish n ≤ s.time) :
    LaunchEvent s (.chainFinish slot n) (s.endChain p.slot n (if c.left == 0 then 2 else 1) s.time).settleChains
  /-- R264, R265: a publishing slot is READY in its turn. -/
  | publish (ring slot : Nat) (x : RingSlot) (found : s.slot? ring slot = some x) (publishing : x.publishing = true) :
    LaunchEvent s (.ringPublish ring slot) (s.ringSettle ring).settleChains
  /-- R265: a FILLING slot of an EXITING workgroup publishes once its copies are over. -/
  | settleFilling (ring slot core k lid : Nat) (x : RingSlot) (g : Workgroup) (found : s.slot? ring slot = some x)
    (owner : x.owner = some (.wg core k lid)) (group : s.group? core k = some g) (exiting : g.exiting = true) (same : g.lid = lid)
    (rests : s.slotBusy x = false) (st : x.st = .filling) : LaunchEvent s (.slotSettleAtExit ring slot) (s.publishSlot x).settleChains
  /-- R265: and its DRAINING slot is released. -/
  | settleDraining (ring slot core k lid : Nat) (x : RingSlot) (g : Workgroup) (found : s.slot? ring slot = some x)
    (owner : x.owner = some (.wg core k lid)) (group : s.group? core k = some g) (exiting : g.exiting = true) (same : g.lid = lid)
    (rests : s.slotBusy x = false) (st : x.st = .draining) : LaunchEvent s (.slotSettleAtExit ring slot) (s.releaseSlot x)
  /-- R264, R267: at need(n) the READY slot of strip n drains into the serialiser. -/
  | need (unit key : Nat) (p : Plan) (x : RingSlot) (s1 : State) (at_ : Drives s unit key p) (time : p.need (s.serialiser unit).nextStrip ≤ s.time)
    (between : (s.serialiser unit).strip = none)
    (passed : s1 = (s.ringSettle p.ring).passLate p (s.serialiser unit).firstStrip (s.serialiser unit).nextStrip 128)
    (slot : s1.seq? p.ring ((s.serialiser unit).nextStrip % 2 ^ 32) = some x) (ready : x.st = .ready)
    (turn : s1.ringPtr p.ring .con = (s.serialiser unit).nextStrip % 2 ^ 32) :
    LaunchEvent s (.serialiserStripNeed unit)
      ((((s1.modSlot p.ring x.slot (fun x => { x with st := .draining, owner := none, hold := none })).consume p.ring).ringSettle p.ring).putSerialiser
        { s.serialiser unit with nextStrip := (s.serialiser unit).nextStrip + 1, strip := some ((s.serialiser unit).nextStrip, false) })
  /-- R262, R267: a strip with no slot at its need is treated as late as a whole. -/
  | needLate (unit key : Nat) (p : Plan) (s1 : State) (at_ : Drives s unit key p) (time : p.need (s.serialiser unit).nextStrip ≤ s.time)
    (between : (s.serialiser unit).strip = none)
    (passed : s1 = (s.ringSettle p.ring).passLate p (s.serialiser unit).firstStrip (s.serialiser unit).nextStrip 128)
    (slot : s1.seq? p.ring ((s.serialiser unit).nextStrip % 2 ^ 32) = none) :
    LaunchEvent s (.serialiserStripNeed unit)
      (s1.putSerialiser { s.serialiser unit with nextStrip := (s.serialiser unit).nextStrip + 1, strip := some ((s.serialiser unit).nextStrip, true) })
  /-- R255, R267: a line outside the active area is blanking. -/
  | lineBlank (unit key : Nat) (p : Plan) (at_ : Drives s unit key p)
    (time : p.lineAt (s.serialiser unit).line ≤ s.time)
    (kind : p.lineKind (s.serialiser unit).line (s.serialiser unit).firstStrip = .blank) :
    LaunchEvent s (.serialiserLine unit) (s.putSerialiser { s.serialiser unit with line := (s.serialiser unit).line + 1, shown := [] })
  /-- R267: a line before the plan's first strip is FILL. -/
  | lineFill (unit key : Nat) (p : Plan) (at_ : Drives s unit key p)
    (time : p.lineAt (s.serialiser unit).line ≤ s.time)
    (kind : p.lineKind (s.serialiser unit).line (s.serialiser unit).firstStrip = .fill) :
    LaunchEvent s (.serialiserLine unit)
      (s.putSerialiser { s.serialiser unit with line := (s.serialiser unit).line + 1, shown := fillLine p (s.serialiser unit).bpc })
  /-- R267: a line of a strip whose slot drains shows the slot's pixels, and is the line that a late strip would repeat; the strip's last
  line frees the slot. -/
  | line (unit key n j : Nat) (p : Plan) (l : List Nat) (y : PlanSlot) (at_ : Drives s unit key p)
    (time : p.lineAt (s.serialiser unit).line ≤ s.time)
    (kind : p.lineKind (s.serialiser unit).line (s.serialiser unit).firstStrip = .strip n j) (strip : (s.serialiser unit).strip = some (n, false))
    (pixels : s.scanLine p (s.serialiser unit).bpc n j = some l) (there : y ∈ s.media.plans) (on : y.slot = key ∧ y.enabled = true)
    (last : j + 1 = p.height) :
    LaunchEvent s (.serialiserLine unit)
      ((s.putSerialiser { s.serialiser unit with line := (s.serialiser unit).line + 1, shown := l, last := some l, strip := none }).passSlot
        p.ring (n % 2 ^ 32))
  /-- R267: training settles what the sink can take: a rate, lanes and bits per component of the serialiser. -/
  | train (unit rate lanes bpc : Nat) (real : unit < 2) (present : bit s.cap2 (22 + unit) = true) (r : rate < 3) (l : lanes ∈ [1, 2, 4])
    (b : bpc ∈ [6, 8, 10, 12, 16]) :
    LaunchEvent s (.linkTraining unit rate lanes bpc) (s.putSerialiser { s.serialiser unit with rate := rate, lanes := lanes, bpc := bpc })
  /-- R268, R444: an encoder whose lines up to the lookahead are there codes its next row, frees the slots that are wholly coded, and goes to
  the next row. -/
  | encode (e : EncSession) (s1 : State) (found : s.media.encoders.find? (·.slot == e.slot) = some e) (powered : s.control.fw.powerOff = false)
    (within : 0 < e.row ∧ 64 * e.row + 64 < e.plan.height * e.plan.spf)
    (settled : s1 = s.ringSettle e.plan.ring)
    (ready : ∀ n ∈ e.plan.stripsOf e.frame (64 * e.row) (min (64 * e.row + 71) (e.plan.height * e.plan.spf - 1)), s1.encReady e n = true) :
    LaunchEvent s (.encoderSuperblockRow e.slot)
      (let p := e.plan
       let s2 := s1.encTake e (p.stripsOf e.frame (64 * e.row) (min (64 * e.row + 71) (p.height * p.spf - 1)))
       let coded := p.stripsOf e.frame (64 * e.row) (64 * e.row + 63)
       let e1 := { e with treated := if !(s2.rowLate e coded) then 0 else if e.key || p.late == 1 then 2 else 1 }
       let s3 := (s2.modEncoder e.slot (fun _ => e1)).emitRow e1 (64 * e.row) (64 * e.row + 63)
       ((coded.filter (fun n => e.firstStrip ≤ n && (n % p.spf * p.height + p.height - 1) / 64 ≤ e.row)).foldl (fun s n =>
         s.passSlot p.ring (n % 2 ^ 32)) s3).modEncoder e.slot (fun e => { e with row := e.row + 1 }))
  /-- R268: BSRD moves up to BSWR, at most BSZ behind it. -/
  | bsrd (slot : Nat) (v : BitVec 32) (e : EncSession) (real : slot < 10) (found : s.media.encoders.find? (·.slot == slot) = some e)
    (near : (s.bswr slot + 2 ^ 32 - v.toNat) % 2 ^ 32 ≤ e.plan.bsz) :
    LaunchEvent s (.bsrdWrite slot v) (s.setDreg (regPlan slot + 0x28) v.toNat)
  /-- R253: an enable that passes every check answers 0, EN is set, and the plan and its launch are accepted. -/
  | enabled (slot : Nat) (v : BitVec 64) (s1 : State) (real : slot < 10) (off : s.enabledPlan slot = none) (en : bit v.toNat 63 = true)
    (accepted : (s.setDreg (regPlan slot) (bits v.toNat 56 0)).enable slot = (0, s1)) :
    LaunchEvent s (.planEnable slot v)
      ((s1.setDreg (regPlan slot + 8) (setBits (s1.dreg (regPlan slot + 8)) 47 40 0)).setDreg (regPlan slot) (2 ^ 63 + bits v.toNat 56 0))
  /-- R253: one that fails a check leaves EN clear and shows the check's code. -/
  | enableRefused (slot code : Nat) (v : BitVec 64) (s1 : State) (real : slot < 10) (off : s.enabledPlan slot = none) (en : bit v.toNat 63 = true)
    (bad : code ≠ 0) (refused : (s.setDreg (regPlan slot) (bits v.toNat 56 0)).enable slot = (code, s1)) :
    LaunchEvent s (.planEnable slot v) (s1.setDreg (regPlan slot + 8) (setBits (s1.dreg (regPlan slot + 8)) 47 40 code))
  /-- R253, R323: disabling a plan stops its admissions; its launch completes with its last chain. -/
  | disabled (slot : Nat) (p : PlanSlot) (real : slot < 10) (on : s.enabledPlan slot = some p) :
    LaunchEvent s (.planDisable slot)
      (((s.modPlan p.slot (fun p => { p with enabled := false })).setDreg (regPlan slot) (bits (s.dreg (regPlan slot)) 56 0)).launchSettle p.plan.lid)
  /-- R263: word 0 of a ring with every slot FREE is written, and its pointers and its LATE and VOID marks are cleared. -/
  | ringWord0 (ring : Nat) (v : BitVec 64) (real : ring < 256) (free : ∀ x ∈ s.media.slots, x.ring ≠ ring) :
    LaunchEvent s (.ringDescriptorWrite ring 0 v)
      (let s1 := ((s.setDreg (regRing ring) (setBits v.toNat 27 20 0)).setDreg (regRing ring + 16) 0).setDreg (regRing ring + 24) 0
       { s1 with media := { s1.media with lates := s1.media.lates.filter (·.1 != ring), voids := s1.media.voids.filter (·.1 != ring) } })
  /-- R263: word 1 holds the ring's address space. -/
  | ringWord1 (ring : Nat) (v : BitVec 64) (real : ring < 256) (free : ∀ x ∈ s.media.slots, x.ring ≠ ring) :
    LaunchEvent s (.ringDescriptorWrite ring 1 v) (s.setDreg (regRing ring + 8) (v.toNat / 2 ^ 48 * 2 ^ 48))
  /-- R263: while a slot is outside FREE a write of a descriptor word is ignored. -/
  | ringHeld (ring word : Nat) (v : BitVec 64) (x : RingSlot) (held : x ∈ s.media.slots) (here : x.ring = ring) :
    LaunchEvent s (.ringDescriptorWrite ring word v) s
  /-- R247: ADJ is clamped to 500 parts per million either way. -/
  | adj (v : BitVec 64) : LaunchEvent s (.adjWrite v)
      { s with clock := { s.clock with adj := BitVec.ofInt 32 (max (-549755814) (min (v.setWidth 32).toInt 549755814)) } }
  /-- R248: outside strip mode a step of so many 2^-32 ns is added to DTC. -/
  | stepv (v : BitVec 64) (off : s.stripMode = false) (forward : 0 ≤ v.toInt) :
    LaunchEvent s (.stepvWrite v) { s with clock := { s.clock with dtc := s.clock.dtc + BitVec.ofNat 136 (v.toNat * 2 ^ 72) } }
  /-- R248: in strip mode, or backwards, it is refused and STREF is set. -/
  | stepvRefused (v : BitVec 64) (refused : s.stripMode = true ∨ v.toInt < 0) :
    LaunchEvent s (.stepvWrite v) { s with clock := { s.clock with stref := true } }
  /-- R249: an event message is stamped with DTC, with its fraction, in the form and over the transport it has. -/
  | stamp (m : PtpEvent) (real : m.port < 4) :
    LaunchEvent s (.ptpEventTimestamp m)
      (s.modFw (fun f => { f with stamps := f.stamps.filter (·.port != m.port) ++
        [{ port := m.port, time := BitVec.ofNat 96 s.dtc96, oneStep := m.oneStep, transport := m.transport }] }))
  /-- R325: after silence the timing port is the next one on which Announce messages are heard. -/
  | announceTimeout (heard : BitVec 4) (p q : Nat) (port : s.control.fw.timingPort = some p)
    (next : ((List.range 4).map (fun k => (p + 1 + k) % 4)).find? (fun k => heard.getLsbD k) = some q) :
    LaunchEvent s (.ptpAnnounceTimeout heard) (s.modFw (fun f => { f with timingPort := some q }))
  /-- R325: the first Announce chooses the timing port. -/
  | firstAnnounce (port : Nat) (real : port < 4) (none_ : s.control.fw.timingPort = none) :
    LaunchEvent s (.ptpMessageReceived port .announce) (s.modFw (fun f => { f with timingPort := some port }))
  /-- R249, R325: a Sync on the timing port feeds the servo, whose values are free (DESIGN CHOICE, log 11): ADJ, and a step outside strip mode. -/
  | sync (port : Nat) (s1 : State) (real : port < 4) (timing : s.control.fw.timingPort = some port) (strip : s.stripMode = true)
    (counted : s1 = { s with freeCtr := s.freeCtr + 1 }) :
    LaunchEvent s (.ptpMessageReceived port .sync)
      { s1 with clock := { s.clock with adj := BitVec.ofInt 32 (max (-549755814) (min ((Config.ptpServo s.freeCtr).setWidth 32 : BitVec 32).toInt 549755814)) } }
  /-- R247, R429: once the barrier operations that are due are made again (R318), a cycle adds INC to DTC and 1 to CLK, and counts in what
  waits for a number of cycles; nothing else changes. -/
  | tick (s1 : State) (powered : s.control.fw.powerOff = false) (barriers : s.barRetry = s1) :
    LaunchEvent s .dtcTick
      { s1 with
        clock := { s1.clock with dtc := s1.clock.dtc + BitVec.ofNat 136 ((((2 ^ 74 : Nat) + s1.clock.adj.toInt * (2 ^ 34 : Nat)) / 5).toNat)
                                 clk := s1.clock.clk + 1 }
        store := { s1.store with outst := s1.store.outst.map s1.tickAccess }
        work := { s1.work with threads := s1.work.threads.map s1.tickThread
                               packs := s1.work.packs.map tickPack }
        engines := { s1.engines with units := s1.engines.units.map s1.tickUnit }
        control := { s1.control with counts := s1.control.counts.map (fun x => { x with blocked := blockedCount s1 x }) } }

end Sys2Proof
end

