-- ==== Sys2Proof/Safety/System.lean ====
section
/-! DEFINITION. What the words of the SYS class, NOP and PFX do to the thread of a pack, clause by clause as their entries say. -/

namespace Sys2Proof

open Machine

/-- Registers that SREAD writes: DTC, CLK and CHFIN are 64 bits wide (R429). -/
def specialRegs (num : Nat) : Nat := if num = 0x20 ∨ num = 0x22 ∨ num = 0x33 then 2 else 1

/-- The address a TLBI.PAGE names: a register pair, or the literal (R55). -/
def pairOrLiteral (p : Pack) (t : Thread) (o : SyOp) : Nat := if o.a == 127 then hLit32 p.hdr else t.regsVal o.a.toNat 2

/-- The page of an address space that a TLBI.PAGE names (R432). -/
def tlbiPage (p : Pack) (t : Thread) (o : SyOp) : TlbiRange := .page o.imm.toNat (pairOrLiteral p t o)

/-- The resume point that word 0x10 of a trap record holds (R296). -/
def resumeAt (w : Nat) : Pc := { ca := BitVec.ofNat 57 w, wi := bits w 63 60 }

/-- `SystemRule s p t i s1 fate after`: the word `i` of pack `p` takes thread `t` from `s` to `s1`, sends it where `fate` says, and is
followed by the causes `after`. -/
inductive SystemRule (s : State) (p : Pack) (t : Thread) : Instr → State → Fate → List TrapInfo → Prop where
  /-- R44. -/
  | nop : SystemRule s p t .nop s .next []
  /-- R429: a special register is read into one register or a pair. Where the cluster keeps no trail log no INPUT entry is made. -/
  | sread (o : SyOp) (calm : unwatched s (clusterOf t.name.core) = true) (other : o.sub12.toNat ≠ 0x20) :
    SystemRule s p t (.sread o)
      (s.modThread t.name (fun x => x.setRegs o.d.toNat (cutRegs (s.special t o.sub12.toNat o.imm.toNat) (specialRegs o.sub12.toNat)))) .next []
  /-- R250, R429: reading DTC latches the fraction that DTCF reads. -/
  | sreadDtc (o : SyOp) (calm : unwatched s (clusterOf t.name.core) = true) (dtc : o.sub12.toNat = 0x20) :
    SystemRule s p t (.sread o)
      (s.modThread t.name (fun x => { x.setRegs o.d.toNat (cutRegs s.dtcNs 2) with dtcf := BitVec.ofNat 32 s.dtc96 })) .next []
  /-- R134, R429: a legal value of FCTL. -/
  | fctl (o : SyOp) (reg : o.sub12 = 0x40) (legal : fctlOk (BitVec.ofNat 32 (srcReg (ctxOf p (.swrite o)) t o.a)) = true) :
    SystemRule s p t (.swrite o)
      (s.modThread t.name (fun x => { x with fctl := BitVec.ofNat 32 (srcReg (ctxOf p (.swrite o)) t o.a) })) .next []
  /-- R135, R429: a legal value of FSTAT. -/
  | fstat (o : SyOp) (reg : o.sub12 ≠ 0x40) (legal : fstatOk (BitVec.ofNat 32 (srcReg (ctxOf p (.swrite o)) t o.a)) = true) :
    SystemRule s p t (.swrite o)
      (s.modThread t.name (fun x => { x with fstat := BitVec.ofNat 32 (srcReg (ctxOf p (.swrite o)) t o.a) })) .next []
  /-- R424. -/
  | roleq (o : SyOp) :
    SystemRule s p t (.roleq o)
      (s.modThread t.name (fun x => x.setReg o.d.toNat (BitVec.ofNat 32 (s.roleQuery t o.sub12.toNat (srcReg (ctxOf p (.roleq o)) t o.a))))) .next []
  /-- R434: SWTRAP after the word, with the immediate as its trap value. -/
  | trap (o : SyOp) : SystemRule s p t (.trap o) s .next [trapOf .swtrap o.imm.toNat]
  /-- R353: BKPT after the word, with its number as its trap value. -/
  | bkpt (o : SyOp) : SystemRule s p t (.bkpt o) s .next [trapOf .bkpt o.sub12.toNat]
  /-- R159, R432: no cached translation of the page, of the address space, or at all, is left on the device, in no TLB and no page-walk cache; the
  word retires at once where no access is outstanding that used one, and otherwise when the last of those has been performed. -/
  | page (o : SyOp) (fresh : p.tlbi = none) (quiet : ∀ x ∈ s.store.outst, (tlbiPage p t o).access x = false) :
    SystemRule s p t (.tlbiPage o)
      { s with store := { s.store with
        tlb := s.store.tlb.filter (fun x => !(x.asid == o.imm.toNat && (x.va ≤ pairOrLiteral p t o && pairOrLiteral p t o < x.va + x.size)))
        walks := s.store.walks.filter (fun x => !(x.asid == o.imm.toNat && x.covers x.asid (pairOrLiteral p t o))) } } .next []
  | asid (o : SyOp) (fresh : p.tlbi = none) (quiet : ∀ x ∈ s.store.outst, (TlbiRange.space o.imm.toNat).access x = false) :
    SystemRule s p t (.tlbiAsid o)
      { s with store := { s.store with
        tlb := s.store.tlb.filter (fun x => !(x.asid == o.imm.toNat))
        walks := s.store.walks.filter (fun x => !(x.asid == o.imm.toNat)) } } .next []
  | all (o : SyOp) (fresh : p.tlbi = none) (quiet : ∀ x ∈ s.store.outst, x.tr = none) :
    SystemRule s p t (.tlbiAll o) { s with store := { s.store with tlb := [], walks := [] } } .next []
  | waited (i : Instr) (o : SyOp) (l : List Nat) (word : i = .tlbiPage o ∨ i = .tlbiAsid o ∨ i = .tlbiAll o) (removed : p.tlbi = some l)
    (performed : ∀ x ∈ s.store.outst, x.id ∉ l) : SystemRule s p t i s .next []
  /-- R298: the context and the thread that trapped both end. -/
  | tretEnd (o : SyOp) (h : Handling) (context : t.handling = some h) (ready : endNeed (ctxOf p (.tretEnd o)) s t = true) :
    SystemRule s p t (.tretEnd o) (s.tretEnd t.name) .gone []
  /-- R298: the context ends and its thread resumes where its record says, with the prefix halves of the record, and past a clause that it only
  passes over (R299), if that is where it stood when the context began. -/
  | tret (o : SyOp) (h : Handling) (v : Thread) (g : Workgroup) (pa pt tr : Nat) (b : List Byte) (s1 : State)
    (context : t.handling = some h) (ready : endNeed (ctxOf p (.tret o)) s t = true)
    (trapped : (t.handled.bind s.thread?).filter (·.st != .exited) = some v) (group : s.groupOf v.name = some g)
    (reach : s.xlat (.core t.name.core) (s.asidOf t.name) (s.recordVa g h.recSlot) 1 { write := false, thread := true, bytes := 8 } = .ok pa tr)
    (sound : s.poisoned pa 64 = false) (read : s.homeRead t.name.core pa 64 = (b, s1)) (calm : s.watchpoints = [])
    (legal : bits (fieldOf b 0x10 8) 59 57 = 0 ∧ bits (fieldOf b 0x10 8) 2 0 = 0) (noPending : keptIn h.kept (bits (fieldOf b 0 8) 11 8) = [])
    (place : pt = fieldOf b 0x10 8) :
    SystemRule s p t (.tret o)
      (((s1.logBatches t).dropThread t.name).returnTrap v.name (resumeAt pt)
        (if resumeAt pt = h.entryResume then BitVec.ofNat 28 (bits (fieldOf b 0x38 8) 27 0) else 0)
        (if resumeAt pt = h.entryResume then BitVec.ofNat 28 (bits (fieldOf b 0x38 8) 55 28) else 0)
        ((match v.trap with | some r => r.info.cause == .bkpt && 0x1000 ≤ r.info.tval.toNat | none => false) && resumeAt pt == h.entryResume)
        (resumeAt pt == h.entryResume && v.trap.any (·.skip))) .gone []
  /-- R298, R303: a context whose thread is gone, and a service context, end alone. -/
  | tretAlone (o : SyOp) (h : Handling) (context : t.handling = some h) (ready : endNeed (ctxOf p (.tret o)) s t = true)
    (alone : (t.handled.bind s.thread?).filter (·.st != .exited) = none) :
    SystemRule s p t (.tret o) ((s.logBatches t).dropThread t.name) .gone []

/-- A thread that CTXSV.COPY may save (R368). -/
def copyable (s : State) (v : Thread) : Prop :=
  (∃ x, v.st = .suspended x) ∨ (∃ x, v.st = .blocked x) ∨ (v.st = .ready ∧ s.held v.name.core v.name.slot = true)

/-- Thread `t` saves thread `v` of its core: the image address is aligned, the accesses of both are performed (R367, R368), every register
of `v` can be read, and the image is written; `s1` is the state then and `hits` the watchpoints it met. -/
structure Saved (s : State) (t : Thread) (o : SyOp) (v : Thread) (s1 : State) (hits : List Nat) : Prop where
  aligned : (ctxOperands t o).1 % 256 = 0
  low : (ctxOperands t o).1 < 2 ^ 57
  names : s.target t (ctxOperands t o).2 = some v
  drained : s.drained t.name = true
  quiet : s.outOf v.name = [] ∧ v.xfn = [] ∧ v.callXfer = none ∧ (∀ f, v.st ≠ .blocked (.fetch f)) ∧ (∀ r, v.st ≠ .blocked (.operand r)) ∧
    ∀ f a, v.st ≠ .blocked (.word f a)
  written : ∃ vals h0 h1 s0, s.regImage t.name v (s.asidOf v.name) 127 0 = .ok vals h0 s0 ∧ hits = h0 ++ h1 ∧
    s0.imageWrite t.name t.lid (s.asidOf t.name) t.level (ctxOperands t o).1 (threadImage vals (s.imageWords v)) = .ok () h1 s1

/-- Thread `t` reads the image of thread `v` and finds it good. -/
structure ImageFor (s : State) (t : Thread) (o : SyOp) (v : Thread) (regsOnly : Bool) (b : List Byte) (hits : List Nat) (s1 : State) : Prop where
  aligned : (ctxOperands t o).1 % 256 = 0
  low : (ctxOperands t o).1 < 2 ^ 57
  names : s.target t (ctxOperands t o).2 = some v
  drained : s.drained t.name = true
  read : s.imageRead t.name (s.asidOf t.name) t.level (ctxOperands t o).1 20 = .ok b hits s1
  good : imageBad b v regsOnly = false

/-- The word retires with a status in its destination (R367). -/
def withStatus (s : State) (n : ThreadName) (o : SyOp) (code : Nat) : State := s.modThread n (fun x => x.setReg o.d.toNat (BitVec.ofNat 32 code))

/-- `ImageRule s t i s1 after`: a context-switch word completes with status 0, or finds no such target (R367 to R370). -/
inductive ImageRule (s : State) (t : Thread) : Instr → State → List TrapInfo → Prop where
  /-- R368: COPY leaves the target as it is. -/
  | copy (o : SyOp) (v : Thread) (s1 : State) (hits : List Nat) (may : copyable s v) (save : Saved s t o v s1 hits) :
    ImageRule s t (.ctxsvCopy o) (withStatus s1 t.name o 0) (watchCause hits)
  /-- R368: REL leaves it SAVED, with no register and no trap of its own. -/
  | rel (o : SyOp) (v : Thread) (s1 : State) (hits : List Nat) (held : s.held v.name.core v.name.slot = true)
    (live : v.st ≠ .saved ∧ v.st ≠ .exited) (save : Saved s t o v s1 hits) :
    ImageRule s t (.ctxsvRel o)
      (withStatus { s1 with work := { s1.work with
        threads := (s1.modThread v.name (fun x => { x with st := .saved, regs := [], trap := none, solo := none, hdr := none })).work.threads
        trapQueue := s1.work.trapQueue.filter (· != v.name) } } t.name o 0) (watchCause hits)
  /-- R368: a workgroup whose threads are all SAVED or EXITED is saved whole and its slot is free. -/
  | wg (o : SyOp) (g : Workgroup) (s1 : State) (hits : List Nat) (aligned : (ctxOperands t o).1 % 4096 = 0) (low : (ctxOperands t o).1 < 2 ^ 57)
    (drained : s.drained t.name = true) (names : s.targetGroup t (ctxOperands t o).2 = some g) (may : s.savable g = true)
    (written : s.imageWrite t.name t.lid (s.asidOf t.name) t.level (ctxOperands t o).1 (s.groupImage g) = .ok () hits s1)
    (other : t.name.core = g.core → t.name.slot ≠ g.slot) :
    ImageRule s t (.ctxsvWg o) (withStatus (s1.sendAway g) t.name o 0) (watchCause hits)
  /-- R368: the registers, predicates, FCTL and FSTAT of a suspended thread are loaded. -/
  | regs (o : SyOp) (v : Thread) (b : List Byte) (hits x : List Nat) (l : Sparse Reg) (s1 s2 : State) (why : Susp) (st : v.st = .suspended why)
    (image : ImageFor s t o v true b hits s1)
    (loaded : s1.loadRegs t.name v ((List.range 127).map (fun i => fieldOf b (4 * i) 4)) = .ok l x s2) :
    ImageRule s t (.ctxldRegs o)
      (withStatus (s2.modThread v.name (fun v => { v with
        regs := l, preds := BitVec.ofNat 16 (fieldOf b 0x200 8 / 2 * 2), fctl := BitVec.ofNat 32 (fieldOf b 0x210 8 / 2 ^ 32)
        fstat := BitVec.ofNat 32 (fieldOf b 0x210 8) })) t.name o 0) (watchCause (hits ++ x))
  /-- R368, R369: a SAVED thread takes every field of the image, and the state it records. -/
  | full (o : SyOp) (v : Thread) (g : Workgroup) (b : List Byte) (hits x : List Nat) (l : Sparse Reg) (s1 s2 s3 : State) (st : v.st = .saved)
    (group : s.groupOf v.name = some g) (restored : g.restored = true) (image : ImageFor s t o v false b hits s1)
    (loaded : s1.loadRegs t.name v ((List.range 127).map (fun i => fieldOf b (4 * i) 4)) = .ok l x s2)
    (state : (s2.modThread v.name (loadFields b l)).restoreState v g b ((List.range 127).map (fun i => fieldOf b (4 * i) 4)) = some s3) :
    ImageRule s t (.ctxldFull o) (withStatus s3 t.name o 0) (watchCause (hits ++ x))
  /-- R368, R370: a workgroup is created from its image in the slot named; `other`: the thread is no context of that workgroup. -/
  | load (o : SyOp) (slot k wti : Nat) (b r : List Byte) (hits hits2 : List Nat) (s1 s2 s3 : State)
    (aligned : (ctxOperands t o).1 % 4096 = 0) (low : (ctxOperands t o).1 < 2 ^ 57)
    (drained : s.drained t.name = true) (names : s.selected t (ctxOperands t o).2 = some (slot, wti))
    (read : s.imageRead t.name (s.asidOf t.name) t.level (ctxOperands t o).1 192 = .ok b hits s1)
    (good : bits (fieldOf b 0 8) 63 48 = 0x5E18 ∧ bits (fieldOf b 8 8) 63 53 ≤ 1024)
    (records : s1.imageRead t.name (s.asidOf t.name) t.level ((ctxOperands t o).1 + 12288) (128 * bits (fieldOf b 8 8) 63 53) = .ok r hits2 s2)
    (created : s2.createGroup t.name.core slot (b ++ r) = .ok k s3)
    (other : ∀ x, s2.savedGroup t.name.core b = some x → x.2.1.slot ≠ t.name.slot) :
    ImageRule s t (.ctxldWg o) (withStatus s3 t.name o 0) (watchCause (hits ++ hits2))
  /-- R367: no such target: status 1, and nothing else. -/
  | copyNone (o : SyOp) (aligned : (ctxOperands t o).1 % 256 = 0) (low : (ctxOperands t o).1 < 2 ^ 57) (drained : s.drained t.name = true)
    (none_ : s.target t (ctxOperands t o).2 = none) : ImageRule s t (.ctxsvCopy o) (withStatus s t.name o 1) []
  | relNone (o : SyOp) (aligned : (ctxOperands t o).1 % 256 = 0) (low : (ctxOperands t o).1 < 2 ^ 57) (drained : s.drained t.name = true)
    (none_ : s.target t (ctxOperands t o).2 = none) : ImageRule s t (.ctxsvRel o) (withStatus s t.name o 1) []
  | regsNone (o : SyOp) (aligned : (ctxOperands t o).1 % 256 = 0) (low : (ctxOperands t o).1 < 2 ^ 57) (drained : s.drained t.name = true)
    (none_ : s.target t (ctxOperands t o).2 = none) : ImageRule s t (.ctxldRegs o) (withStatus s t.name o 1) []
  | fullNone (o : SyOp) (aligned : (ctxOperands t o).1 % 256 = 0) (low : (ctxOperands t o).1 < 2 ^ 57) (drained : s.drained t.name = true)
    (none_ : s.target t (ctxOperands t o).2 = none) : ImageRule s t (.ctxldFull o) (withStatus s t.name o 1) []

end Sys2Proof
end

