-- ==== Sys2Proof/Safety/SystemEvents.lean ====
section
/-! DEFINITION. What the events of translation, faults, soft errors, checkpoints, bring-up, the host and the debug unit do where they are
enabled, clause by clause. -/

namespace Sys2Proof

open Machine

/-- A fault record that the host has been told of, whose answer takes no place in a trail log (R161, R324). -/
structure Answerable (s : State) (f : FaultRec) : Prop where
  found : s.store.faults.find? (fun x => x.fid == f.fid && x.written) = some f
  calm : ∀ p, unwatched s p = true

/-- The fault buffer takes a record at an address: it is usable, not full, and lies in memory (R324). -/
structure BufferRoom (s : State) (size base rd wr : Nat) : Prop where
  fields : s.faultBuffer = (size, base, rd, wr)
  usable : 4 ≤ size ∧ size ≤ 20
  room : (wr + 2 ^ 32 - rd) % 2 ^ 32 < 2 ^ size
  memory : s.populated (base + 32 * (wr % 2 ^ size)) = some 0
  calm : s.watchpoints = []

/-- The buffer with one more record. -/
def recorded (s : State) (size base rd wr : Nat) (ws : List Nat) : State :=
  (s.memWrite 0 (base + 32 * (wr % 2 ^ size)) (recBytes ws)).setDreg (regFb + 8) (rd * 2 ^ 32 + (wr + 1) % 2 ^ 32)

/-- A cluster stop in force, complete and with no step running (R310, R312). -/
structure StoppedCluster (s : State) (cluster : Nat) (x : Stop) : Prop where
  found : s.stop? cluster = some x
  complete : x.complete = true
  idle : x.stepping = none

/-- A checkpoint may start (R328): none runs, the device is up, no plan is enabled, and the destination is persistent. -/
structure MayCheckpoint (s : State) : Prop where
  idle : s.ckBusy = false
  up : s.control.fw.phase = 7
  off : s.stripMode = false
  present : bit s.cap2 8 = true
  first : s.persistent s.ckDest = true
  last : s.persistent (s.ckDest + 3073 * 2 ^ 30 - 1) = true

/-- `SystemEvent s i u`: an event of the device in its system takes a state `s` in which it is enabled to `u`. -/
inductive SystemEvent (s : State) : Instr → State → Prop where
  /-- R155, R158: a walk that finds a translation caches it for the cluster, with the table entries it read, after the cluster has dropped
  those it pleases to (DESIGN CHOICE, log 17). -/
  | walked (cluster : Nat) (asid : BitVec 16) (va : BitVec 57) (evict evictWalks : List Nat) (t : Trans) (s1 : State) (real : cluster < 64)
    (powered : s.control.fw.powerOff = false) (unseen : s.watchpoints = [])
    (dropped : s1 = { s with store := { s.store with tlb := dropAt s.store.tlb evict, walks := dropAt s.store.walks evictWalks } })
    (miss : s1.cached (.unit cluster) asid.toNat va.toNat = none) (found : s1.walk cluster asid.toNat va.toNat = .found t) :
    SystemEvent s (.pageWalk cluster asid va { core := none, evict := evict, evictWalks := evictWalks })
      { s1 with store := { s1.store with
        walks := s1.store.walks ++ (s1.walkEntries cluster asid.toNat va.toNat).filter (fun x => !(s1.store.walks.contains x))
        tlb := s1.store.tlb ++ [t] } }
  /-- R158: a translation that the cluster caches is cached in the L1 TLB of one of its cores (DESIGN CHOICE,
  log 17). -/
  | cachedInCore (cluster c : Nat) (asid : BitVec 16) (va : BitVec 57) (evict evictWalks : List Nat) (t : Trans) (s1 : State) (real : cluster < 64)
    (powered : s.control.fw.powerOff = false)
    (dropped : s1 = { s with store := { s.store with tlb := dropAt s.store.tlb evict, walks := dropAt s.store.walks evictWalks } })
    (hit : s1.cached (.unit cluster) asid.toNat va.toNat = some t)
    (absent : (s1.cached (.core (4 * cluster + c % 4)) asid.toNat va.toNat).elim false (·.core.isSome) = false) :
    SystemEvent s (.pageWalk cluster asid va { core := some c, evict := evict, evictWalks := evictWalks })
      { s1 with store := { s1.store with tlb := s1.store.tlb ++ [{ t with core := some (4 * cluster + c % 4) }] } }
  /-- R324: the oldest replayable fault without a record gets one: its kind, level, number, address space, address and time. -/
  | faultRecord (f : FaultRec) (size base rd wr : Nat) (next : s.store.faults.find? (fun f => !f.written) = some f)
    (room : BufferRoom s size base rd wr) :
    SystemEvent s .faultRecord
      (let s1 := recorded s size base rd wr
         [f.asid * 2 ^ 48 + f.kind * 2 ^ 44 + f.level % 8 * 2 ^ 41 + f.fid, f.va, s.dtcNs, 0]
       { s1 with store := { s1.store with faults := s1.store.faults.map (fun x => if x == f then { x with written := true } else x) } })
  /-- R324: with no such fault, the oldest entry of the device error log. -/
  | errorRecord (e : ErrRec) (rest : List ErrRec) (size base rd wr : Nat) (none_ : ∀ f ∈ s.store.faults, f.written = true)
    (next : s.store.errs = e :: rest) (room : BufferRoom s size base rd wr) :
    SystemEvent s .faultRecord
      (let s1 := recorded s size base rd wr (s.faultWords e.asid e.kind 0 0 e.addr e.unit e.index e.count)
       { s1 with store := { s1.store with errs := rest } })
  /-- R161: RETRY settles the record, and what waited on it goes on. -/
  | retry (fid : BitVec 32) (f : FaultRec) (same : f.fid = fid.toNat) (at_ : Answerable s f) :
    SystemEvent s (.faultAnswerRetry fid)
      ((State.retryFault { s with store := { s.store with faults := s.store.faults.filter (·.fid != fid.toNat) } } fid.toNat).serveQueues f)
  /-- R161: FAIL settles the record, and what waited on it fails. -/
  | fail (fid : BitVec 32) (f : FaultRec) (same : f.fid = fid.toNat) (at_ : Answerable s f) :
    SystemEvent s (.faultAnswerFail fid)
      (State.failFault { s with store := { s.store with faults := s.store.faults.filter (·.fid != fid.toNat) } } f)
  /-- R320: the register of the fault buffer has its base and size. -/
  | bufferConfig (v : BitVec 64) : SystemEvent s (.faultBufferConfig v) (s.setDreg regFb (v.toNat / 32 * 32))
  /-- R329: corrected errors of a unit within a second are counted. -/
  | corrected (unit index : Nat) (near : List (Nat × Nat × Nat))
    (second : near = (s.control.fw.corrected ++ [(unit, index, s.dtcNs)]).filter (fun x => s.dtcNs ≤ x.2.2 + 10 ^ 9))
    (few : (near.filter (fun x => x.1 == unit && x.2.1 == index)).length ≤ Config.correctedThreshold) :
    SystemEvent s (.correctedError unit index) (s.modFw (fun f => { f with corrected := near }))
  /-- R304: a clean line is fetched again, and the error is logged. -/
  | cleanLine (pa : PAddr) :
    SystemEvent s (.uncorrectableError (.cleanLine pa))
      (State.deviceError { s with store := { s.store with l1 := s.store.l1.filter (fun l => !(l.tag == pa.toNat / 128 && l.dirty == 0)) } }
        14 0 pa.toNat 0 1)
  /-- R304: 64 bytes of memory are poisoned. -/
  | poisoned (pa : PAddr) (memory : s.populated pa.toNat = some 0) (fresh : pa.toNat / 64 ∉ s.store.poison) :
    SystemEvent s (.uncorrectableError (.memory pa))
      (State.deviceError { s with store := { s.store with poison := s.store.poison ++ [pa.toNat / 64] } } 14 0 pa.toNat 0 1)
  /-- R304: a LIVE register is lost. -/
  | registerLost (t : Thread) (r : Nat) (v : Word32) (found : s.thread? t.name = some t) (live : t.reg? r = some (.live v)) :
    SystemEvent s (.uncorrectableError (.register t.name r))
      ((s.modThread t.name (fun x => match x.reg? r with | some (.live _) => { x with regs := putReg x.regs r .bad } | _ => x)).deviceError
        14 0 0 t.name.core 1)
  /-- R329: without a spare the cluster leaves CLE and a SERVICE_REQUEST is made. -/
  | retired (cluster : Nat) (testOk : Bool) (real : cluster < 64) (present : bit (s.dreg regCle) cluster = true)
    (spares : s.control.fw.spares = []) :
    SystemEvent s (.unitRetirement cluster testOk)
      (((s.setDreg regCle (setBits (s.dreg regCle) cluster cluster 0)).modFw (fun f =>
        { f with retired := f.retired ++ [(cluster, false)] })).serviceRequest cluster)
  /-- R328: GO stops launch admission and every enabled cluster; an older image that the new one overwrites is valid no more. -/
  | checkpointGo (halt : Bool) (may : MayCheckpoint s) :
    SystemEvent s (.checkpointGo halt)
      (let s1 := s.setCk true s.ckMs 0
       ((List.range 64).filter (fun p => bit (s.dreg regCle) p)).foldl (fun s p =>
         if (s.stop? p).isSome then s else (s.triggerStop p 1 0).modStop p (fun x => { x with checkpoint := true }))
         { s1 with control := { s1.control with
           checkpointHalt := true
           checkpointStay := halt
           image := s1.control.image.map (fun x =>
             { x with valid := x.valid && (x.dest + 3073 * 2 ^ 30 ≤ s.ckDest || s.ckDest + 3073 * 2 ^ 30 ≤ x.dest) }) } })
  /-- R328: GO while a plan is enabled is refused with CKS 1. -/
  | checkpointRefused (halt : Bool) (idle : s.ckBusy = false) (up : s.control.fw.phase = 7) (strip : s.stripMode = true) :
    SystemEvent s (.checkpointGo halt) (s.setCk false s.ckMs 1)
  /-- R328: once the device rests the image is written and valid, and the device goes on; what its first GiB holds is kept as state
  (DESIGN CHOICE, log 37). -/
  | checkpointDone (ms : Nat) (rests : s.ckReady = true) :
    SystemEvent s (.checkpointComplete ms false)
      (State.ckResume { s.ckCopy with control := { s.ckCopy.control with
        image := some ((s.ckCopy.setCk false ms 0).ckThaw.imageOf) } } ms 0)
  /-- R328: an error on the way to the expander leaves no valid image and CKS 4. -/
  | checkpointError (ms : Nat) (rests : s.ckReady = true) :
    SystemEvent s (.checkpointComplete ms true)
      (State.ckResume { s with control := { s.control with image := s.control.image.map (fun x => { x with valid := false }) } } ms 4)
  /-- R328: a valid image restores launches, threads, engines, rings, plans and time as they were (DESIGN CHOICE, logs 37 and 71). -/
  | restored (x : Checkpoint) (image : s.control.image = some x) (valid : x.valid = true) (up : s.control.fw.phase = 7)
    (idle : s.work.launches = []) (first : s.dreg (regLq + 8) % 2 ^ 32 = 0) :
    SystemEvent s .checkpointRestore
      (([regCle, regCap, regAstb] ++ (List.range 64).map regCores).foldl (fun t a => t.setDreg a (s.dreg a))
        { s with
          clock := x.clock
          work := x.work
          engines := x.engines
          media := x.media
          store := { x.store with
            mem := s.store.mem.imaged x.dest ++ s.store.mem.outside
            poison := (s.store.poison.filter (fun u => x.dest + 2 ^ 30 ≤ 64 * u && 64 * u < x.dest + 2 ^ 30 + 0x30000000000)).map
                (· - (x.dest + 2 ^ 30) / 64) ++ x.store.poison.filter (2 ^ 50 ≤ ·) ++
              s.store.poison.filter (fun u => 0x30000000000 ≤ 64 * u && u < 2 ^ 50) } })
  /-- R319: the host writes memory. -/
  | hostWrite (pa : PAddr) (size : Nat) (data : BitVec 128) (served : s.control.fw.recovery = false) (powered : s.control.fw.powerOff = false)
    (some_ : 1 ≤ size ∧ size ≤ 16) (first : s.populated pa.toNat = some 0) (last : s.populated (pa.toNat + size - 1) = some 0)
    (calm : unwatched s (homeCluster pa.toNat) = true) :
    SystemEvent s (.hostRdmaAccess true pa size data) (s.memWrite 0 pa.toNat (leBytes data.toNat size))
  /-- R319: a read of memory changes nothing that no watchpoint sees. -/
  | hostRead (pa : PAddr) (size : Nat) (data : BitVec 128) (served : s.control.fw.recovery = false) (powered : s.control.fw.powerOff = false)
    (some_ : 1 ≤ size ∧ size ≤ 16) (first : s.populated pa.toNat = some 0) (last : s.populated (pa.toNat + size - 1) = some 0)
    (calm : s.watchpoints = []) : SystemEvent s (.hostRdmaAccess false pa size data) s
  /-- R319: an access to a hole gets an error response and a kind 14 record. -/
  | hostAstray (write : Bool) (pa : PAddr) (size : Nat) (data : BitVec 128) (served : s.control.fw.recovery = false)
    (powered : s.control.fw.powerOff = false) (some_ : 1 ≤ size ∧ size ≤ 16) (hole : s.populated pa.toNat = none) :
    SystemEvent s (.hostRdmaAccess write pa size data) (s.deviceError 14 0 pa.toNat 0 1)
  /-- R330: a report: the measurements, the nonce, CAP0 to CAP3 and the identity, signed; the signature is free (DESIGN CHOICE, log 10). -/
  | attested (nonce : BitVec 256) (up : s.control.fw.phase = 7) (left : s.control.fw.attested < Config.attestationLimit) :
    SystemEvent s (.attestationRequest nonce)
      (State.modFw { s with freeCtr := s.freeCtr + 1 } (fun f => { f with
        attested := f.attested + 1
        report := f.measurements ++ [nonce, BitVec.ofNat 256 (s.dreg regCap * 2 ^ 64 + s.dreg regCle), Config.partIdentity] ++
          (List.range 84).map (fun i => Config.lmsSignature (84 * s.freeCtr + i)) }))
  /-- R330: none is made once the key's counter is exhausted. -/
  | attestedOut (nonce : BitVec 256) (up : s.control.fw.phase = 7) (exhausted : Config.attestationLimit ≤ s.control.fw.attested) :
    SystemEvent s (.attestationRequest nonce) (s.modFw (fun f => { f with report := [] }))
  /-- R330, R331: an image whose signature does not verify, or whose version is behind the fuses, leaves the device in recovery. -/
  | recovery (b : BootFound) (phase : s.control.fw.phase ≠ 7) (normal : s.control.fw.recovery = false) (part : bits b.cap3.toNat 31 28 ≤ 2)
    (bad : b.image.signatureVerifies = false ∨ b.image.version < Config.fuseVersion) :
    SystemEvent s (.bringUp b) (s.modFw (fun f => { f with recovery := true, image := none, powerOff := false }))
  /-- R331: a memory test that fails stops bring-up at phase 2 (DESIGN CHOICE, log 73). -/
  | sramTest (b : BootFound) (phase : s.control.fw.phase ≠ 7) (normal : s.control.fw.recovery = false) (part : bits b.cap3.toNat 31 28 ≤ 2)
    (good : b.image.signatureVerifies = true ∧ Config.fuseVersion ≤ b.image.version) (test : b.sramTestOk = false) :
    SystemEvent s (.bringUp b) (s.modFw (fun f => { f with recovery := false, image := some b.image, phase := 2, powerOff := false }))
  /-- R330, R331: bring-up takes the device to phase 7, with its measurements, the clusters and capability words of its
  configuration (R1), its pinned carve-outs (DESIGN CHOICE, log 61) and its address-space table. -/
  | up (b : BootFound) (phase : s.control.fw.phase ≠ 7) (normal : s.control.fw.recovery = false) (part : bits b.cap3.toNat 31 28 ≤ 2)
    (good : b.image.signatureVerifies = true ∧ Config.fuseVersion ≤ b.image.version) (test : b.sramTestOk = true) :
    SystemEvent s (.bringUp b)
      (let s1 := State.modFw { s with freeCtr := s.freeCtr + 1 } (fun f =>
         { f with phase := 7, recovery := false, image := some b.image, powerOff := false, report := []
                  measurements := (List.range 8).map (fun i => Config.measurement (8 * s.freeCtr + i) b.image.digest)
                  spares := if bits b.cap3.toNat 31 28 == 1 then
                    (List.range 64).filter (fun p => !(bit (bootClusters b) p) && !(f.retired.any (·.1 == p))) else [] })
       let s2 := (List.range 64).foldl (fun (s : State) p => if bit (bootClusters b) p then s.setDreg (regCores p) b.cores.toNat else s) s1
       let s3 := { s2 with store := { s2.store with carveouts := b.carveouts } }
       ((s3.setDreg regCle (bootClusters b)).setDreg regCap ((bootCaps b).2 * 2 ^ 32 + (bootCaps b).1)).setDreg regAstb (bits b.astb.toNat 51 12 * 4096))
  /-- R330: in recovery an uploaded image stands for bring-up. -/
  | upload (m : FwImage) (recovery : s.control.fw.recovery = true) :
    SystemEvent s (.firmwareUpload m) (s.modFw (fun f => { f with image := some m }))
  /-- R332: at 100 degrees the hold begins. -/
  | hot (c : Nat) (h : 100 ≤ c) : SystemEvent s (.thermalHold c) (s.modFw (fun f => { f with thermalHold := true }))
  /-- R332: it lasts until the die falls to 95. -/
  | cool (c : Nat) (h : c ≤ 95) : SystemEvent s (.thermalHold c) (s.modFw (fun f => { f with thermalHold := false }))
  /-- R332: at 110 degrees power is removed; what persists: DEDUCED, log 74. -/
  | trip (c : Nat) (h : 110 ≤ c) : SystemEvent s (.thermalTrip c) s.powerDown
  /-- R332: a cap of 600 to 1,800 W (DESIGN CHOICE, log 75). -/
  | cap (w : Nat) (h : 600 ≤ w ∧ w ≤ 1800) : SystemEvent s (.powerCapWrite w) (s.modFw (fun f => { f with powerCap := w }))
  /-- R5: a register is written at supervisor or machine level by the access codes of its fields. -/
  | registerWrite (pa : PAddr) (v : BitVec 64) (level : BitVec 2) (r : DevReg) (privileged : level ≠ 0) (range : 0xF000000000000 ≤ pa.toNat)
    (aligned : pa.toNat % 8 = 0) (register : devReg (pa.toNat - 0xF000000000000) = some r) :
    SystemEvent s (.registerWrite pa v level) (s.regWrite r (decide (2 ≤ level.toNat)) 1 v (BitVec.allOnes 64))
  /-- R5: at user level nothing is written. -/
  | registerUser (pa : PAddr) (v : BitVec 64) : SystemEvent s (.registerWrite pa v 0) s
  /-- R216: a peer is known with what it negotiated. -/
  | connection (peer : Nat) (chunks : Bool) :
    SystemEvent s (.rdmaConnectionSetup peer chunks) (s.modFw (fun f => { f with peers := f.peers.filter (·.1 != peer) ++ [(peer, chunks)] }))
  /-- R306, R310: software or the host stops a cluster. -/
  | stopTrigger (cluster src idx : Nat) (real : cluster < 64) (source : 1 ≤ src ∧ src ≤ 6) (index : idx < 16) :
    SystemEvent s (.clusterStopTrigger cluster src idx) (s.triggerStop cluster src idx)
  /-- R311: the stop reaches a core, whose packs stop where they stand, each with its records. -/
  | stopArrival (core : Nat) (x : Stop) (found : s.stop? (clusterOf core) = some x) (pending : core ∉ x.reached) :
    SystemEvent s (.clusterStopArrival core) (s.stopArrives core x)
  /-- R310: STOPPED is set once every core has been reached and the matrix engine rests. -/
  | stopComplete (cluster : Nat) (x : Stop) (found : s.stop? cluster = some x) (pending : x.complete = false)
    (reached : ∀ c, c < 4 → 4 * cluster + c ∈ x.reached) (rests : bit (s.dreg (regFreeze cluster)) 1 = true) :
    SystemEvent s (.stopComplete cluster)
      ((s.setDbg cluster 0 (setBits (s.dbg cluster 0) 62 62 1)).modStop cluster (fun x => { x with complete := true }))
  /-- R310: a thaw clears STOP, STOPPED and FRZ, and what waited for it takes effect. -/
  | thaw (cluster : Nat) (x : Stop) (at_ : StoppedCluster s cluster x) : SystemEvent s (.thaw cluster) (s.thaw x)
  /-- R306: a dump writes a record for each store not yet performed. -/
  | dump (cluster : Nat) (x : Stop) (at_ : StoppedCluster s cluster x) : SystemEvent s (.dump cluster) (s.dump cluster)
  /-- R312: GO steps the pack of the named thread. -/
  | step (cluster : Nat) (x : Stop) (at_ : StoppedCluster s cluster x) : SystemEvent s (.debugStep cluster) (s.goStep cluster x)
  /-- R315: the record of a tagged word is written once the word has left its pipe: its program counter, its memory level and translation
  level, and its times, which are free (DESIGN CHOICE, log 12). -/
  | sampled (core pipe : Nat) (x : Tagged) (s1 : State)
    (tagged : s.control.tagged.find? (fun x => x.core == core && x.pipe == pipe) = some x) (gone : s.pack? core pipe = none)
    (written : s1 = State.debugRecord { s with freeCtr := s.freeCtr + 1 } (clusterOf core)
      (recBytes (s.recHeader 0x08 (clusterOf core) (core % 4) x.threads.head? ++ [x.pc.word, bits (Config.sampleTimes s.freeCtr).toNat 63 0,
        bits (Config.sampleTimes s.freeCtr).toNat 79 64 * 2 ^ 48 + x.level * 2 ^ 44 + x.tlb * 2 ^ 42 + (x.threads.length - 1) * 2 ^ 37, 0]))) :
    SystemEvent s (.sampleRecord core pipe)
      { s1 with control := { s1.control with tagged := s1.control.tagged.filter (fun y => !(y.core == core && y.pipe == pipe)) } }
  /-- R314: with tracing on and no workgroup outside the selected one, no SUMMARY record is due. -/
  | summaryNone (core : Nat) (on : bit (s.dbg (clusterOf core) (0x300 + 8 * (core % 4))) 63 = true) (alone : ∀ g ∈ s.work.groups, g.core ≠ core) :
    SystemEvent s (.traceSummary core) s
  /-- R314: the one workgroup of a core outside the selection gets its record after 65,536 cycles, and is counted anew. -/
  | summary (core : Nat) (g : Workgroup) (x : TraceCount) (s1 : State) (on : bit (s.dbg (clusterOf core) (0x300 + 8 * (core % 4))) 63 = true)
    (unselected : s.tracedGroup core = none) (only : s.work.groups = [g]) (here : g.core = core) (home : g.away = none)
    (counts : s.control.counts.find? (fun x => x.core == core && x.slot == g.slot) = some x) (due : x.since + 65536 ≤ s.now)
    (written : s1 = s.debugRecord (clusterOf core)
      (recBytes (s.recHeader 0x07 (clusterOf core) (core % 4) (some { core := core, slot := g.slot, wti := 0, ctx := 0 }) ++
        [x.clauses % 2 ^ 32 * 2 ^ 32 + x.words % 2 ^ 32, x.blocked, s.now - x.since, 0]))) :
    SystemEvent s (.traceSummary core)
      { s1 with control := { s1.control with counts := s1.control.counts.filter (fun y => !(y.core == core && y.slot == g.slot)) ++
        [{ core := core, slot := g.slot, clauses := 0, words := 0, blocked := 0, since := s.now }] } }
  /-- R306: the trail register keeps its writable bits, and TEN = 0 leaves TCLOSED. -/
  | trailOff (cluster : Nat) (v : BitVec 64) (real : cluster < 64) (off : bit v.toNat 63 = false) :
    SystemEvent s (.trailEnable cluster v)
      (s.setDbg cluster 0x30 (setBits (setBits (setBits v.toNat 55 52 0) 11 0 0) 60 60 (b2n (bit (s.dbg cluster 0x30) 60))))
  /-- R317: a choice that has not been ready for 2^20 cycles stops the cluster. -/
  | divergence (cluster p t : Nat) (at_ : s.control.replayAt.find? (·.1 == cluster) = some (p, t)) (replay : s.replaying cluster = true)
    (long : 2 ^ 20 ≤ s.now - t) : SystemEvent s (.replayDivergence cluster) (s.triggerStop cluster 5 0)

end Sys2Proof
end

