-- ==== Sys2Proof/Safety/Tiles.lean ====
section
/-! DEFINITION. What a barrier word, TOWN or a copy word does for the thread of a pack, clause by clause as the reference entries say. -/

namespace Sys2Proof

open Machine

/-- A barrier word's operand names an object of the thread's workgroup `g`, at scratchpad address `a` (R344). -/
structure AtObject (s : State) (t : Thread) (off : Nat) (g : Workgroup) (a : Nat) : Prop where
  group : s.groupOf t.name = some g
  aligned : off % 32 = 0
  inside : off + 32 ≤ g.size
  place : a = g.base + off

/-- BINIT has made the object, and it is readable (R304, R344). -/
def standing (s : State) (g : Workgroup) (a : Nat) : Prop :=
  (s.mark? g.core a false).isSome = true ∧ s.scratchPoisoned g.core a 32 = false

/-- A complete or stepping stop of the object's cluster holds the completion of a phase back (R36, R310). -/
def phaseHeld (s : State) (g : Workgroup) : Bool :=
  match s.stop? (clusterOf g.core) with | some x => x.complete || x.stepping.isSome | none => false

/-- Pending bytes that BINIT sets: a register pair or the literal (R55, R351). -/
def bytesOf (p : Pack) (t : Thread) (o : AgOp) : Nat := if o.d == 127 then hLit32 p.hdr else t.regsVal o.d.toNat 2

/-- A TOWN's release and its buffer at the tile's home, flipped unless it is the engine's already; deliveries that the network holds for it land,
or end in error where it is given to its stream (R191, R217, R433). -/
def townHome (s : State) (t : Thread) (o : AgOp) (g : Workgroup) (tl : Tile) : State :=
  let v := s.version g tl (o.sub6.getLsbD 1)
  let s1 := (s.release t.name.core 1).closeRegion t.name
  (if s.owner tl v == .thread then s1.flip tl v (if o.sub6.getLsbD 0 then .stream else .engine) else s1).deliverHeld tl v (o.sub6.getLsbD 0)

/-- A TOWN whose checks pass: the tile, which its thread's workgroup names, and a buffer that is the threads', or the engine's and named again
(R433). -/
structure TownOk (s : State) (t : Thread) (o : AgOp) (g : Workgroup) (tl : Tile) : Prop where
  drained : s.drained t.name = true
  group : s.groupOf t.name = some g
  tile : s.tile g o.imm.toNat = .ok tl
  owner : s.owner tl (s.version g tl (o.sub6.getLsbD 1)) = .thread ∨
    (s.owner tl (s.version g tl (o.sub6.getLsbD 1)) = .engine ∧ o.sub6.getLsbD 0 = false)

/-- How many phases of an object one more arrival completes (R201). -/
def completions (s : State) (core a : Nat) : Nat :=
  phases ((s.readBar core a).pby - ((s.mark? core a false).elim 0 (·.overBytes)))
    ((s.readBar core a).par - ((s.mark? core a false).elim 0 (·.overArrivals)) - 1) (s.readBar core a).rby (s.readBar core a).rar

/-- The second operand of an arrival or wait: the immediate in form 0, a register otherwise (R345, R359). -/
def arrivals (c : Ctx) (t : Thread) (o : AgOp) : Nat := if o.sub6 == 0 then o.imm.toNat else srcReg c t o.b

/-- `SyncRule s p t i s1 fate after`: the barrier words, TOWN, and the copy words. -/
inductive SyncRule (s : State) (p : Pack) (t : Thread) : Instr → State → Fate → List TrapInfo → Prop where
  /-- R351: a fresh object of 32 bytes, its pending counts at the reload values. -/
  | binit (o : AgOp) (g : Workgroup) (a : Nat) (drained : s.drained t.name = true)
    (at_ : AtObject s t (srcReg (ctxOf p (.binit o)) t o.a) g a)
    (counts : ¬(bytesOf p t o = 0 ∧ srcReg (ctxOf p (.binit o)) t o.b = 0)) (bytes : bytesOf p t o < 2 ^ 56)
    (unused : s.barInUse g.core a = false) :
    SyncRule s p t (.binit o)
      ((((s.release g.core (coreScope o.scope)).putMark g.core a false).writeBar g.core a
        { ph := false, err := false, drp := false, pby := bytesOf p t o, ecause := 0, rby := bytesOf p t o
          rar := srcReg (ctxOf p (.binit o)) t o.b, par := srcReg (ctxOf p (.binit o)) t o.b, erra := 0 }).closeRegion t.name) .next []
  /-- R345, R201: a release, then the arrivals at the object. -/
  | barv (o : AgOp) (g : Workgroup) (a : Nat) (drained : s.drained t.name = true)
    (at_ : AtObject s t (srcReg (ctxOf p (.barv o)) t o.a) g a) (made : standing s g a)
    (unlogged : unwatched s (clusterOf g.core) = true) :
    SyncRule s p t (.barv o)
      (((s.release g.core (coreScope o.scope)).closeRegion t.name).barApply { core := g.core, addr := a } 0
        (arrivals (ctxOf p (.barv o)) t o) none false (some t.name)) .next []
  /-- R359: a wait whose phase has completed is an acquire. -/
  | bwaitMet (o : AgOp) (g : Workgroup) (a : Nat) (drained : s.drained t.name = true)
    (at_ : AtObject s t (srcReg (ctxOf p (.bwait o)) t o.a) g a) (made : standing s g a)
    (met : (s.readBar g.core a).ph ≠ (arrivals (ctxOf p (.bwait o)) t o).testBit 0) :
    SyncRule s p t (.bwait o) ((s.closeRegion t.name).acquire g.core (coreScope o.scope)) .next []
  /-- R359: otherwise the thread is BLOCKED until the phase completes. -/
  | bwait (o : AgOp) (g : Workgroup) (a : Nat) (drained : s.drained t.name = true)
    (at_ : AtObject s t (srcReg (ctxOf p (.bwait o)) t o.a) g a) (made : standing s g a)
    (pending : (s.readBar g.core a).ph = (arrivals (ctxOf p (.bwait o)) t o).testBit 0) :
    SyncRule s p t (.bwait o) (s.closeRegion t.name)
      (.wait (.barrier (a - g.base) ((arrivals (ctxOf p (.bwait o)) t o).testBit 0) (coreScope o.scope))) []
  /-- R357: one arrival; the thread whose arrival completes the phase goes on. -/
  | bsyncLast (o : AgOp) (g : Workgroup) (a : Nat) (u : State) (drained : s.drained t.name = true)
    (at_ : AtObject s t (srcReg (ctxOf p (.bsync o)) t o.a) g a) (made : standing s g a)
    (unlogged : unwatched s (clusterOf g.core) = true) (free : phaseHeld s g = false) (last : completions s g.core a ≠ 0)
    (after : u = ((s.release g.core (coreScope o.scope)).closeRegion t.name).barApply { core := g.core, addr := a } 0 1 none false (some t.name))
    (applied : u.engines.delayed.length = s.engines.delayed.length) :
    SyncRule s p t (.bsync o) (u.acquire g.core (coreScope o.scope)) .next []
  /-- R357: any other waits for the phase it arrived at. -/
  | bsync (o : AgOp) (g : Workgroup) (a : Nat) (u : State) (drained : s.drained t.name = true)
    (at_ : AtObject s t (srcReg (ctxOf p (.bsync o)) t o.a) g a) (made : standing s g a)
    (unlogged : unwatched s (clusterOf g.core) = true)
    (after : u = ((s.release g.core (coreScope o.scope)).closeRegion t.name).barApply { core := g.core, addr := a } 0 1 none false (some t.name))
    (more : completions s g.core a = 0 ∨ phaseHeld s g = true ∨ u.engines.delayed.length ≠ s.engines.delayed.length) :
    SyncRule s p t (.bsync o) u (.wait (.barrier (a - g.base) (u.readBar g.core a).ph (coreScope o.scope))) []
  /-- R433, R191: a tile homed on the thread's own core role. -/
  | town (o : AgOp) (g : Workgroup) (tl : Tile) (ok : TownOk s t o g tl) (home : tl.home.role = g.role) :
    SyncRule s p t (.town o) (townHome s t o g tl) .next []
  /-- R433, R217: of a tile homed on another core role, the buffer of the thread's own role is flipped and served too (DESIGN
  CHOICE, log 23). -/
  | townFar (o : AgOp) (g : Workgroup) (tl mine : Tile) (ok : TownOk s t o g tl) (home : tl.home.role ≠ g.role)
    (here : (townHome s t o g tl).tileOn g o.imm.toNat (some g.role) = .ok mine) :
    SyncRule s p t (.town o)
      (((townHome s t o g tl).flipMember mine (s.version g tl (o.sub6.getLsbD 1)) (if o.sub6.getLsbD 0 then .stream else .engine)).deliverHeld mine
        (s.version g tl (o.sub6.getLsbD 1)) (o.sub6.getLsbD 0)) .next []
  /-- Where its own role holds no such tile, nothing more. -/
  | townFarOnly (o : AgOp) (g : Workgroup) (tl : Tile) (ok : TownOk s t o g tl) (home : tl.home.role ≠ g.role)
    (none_ : ∀ m, (townHome s t o g tl).tileOn g o.imm.toNat (some g.role) ≠ .ok m) :
    SyncRule s p t (.town o) (townHome s t o g tl) .next []
  /-- R364: a copy whose checks pass is issued; a watchpoint on its record's bytes is taken after the word (R309). -/
  | cpy (o : AgOp) (s1 : State) (fired : List Nat) (near : (s.outOf t.name).all (·.peer.isNone) = true)
    (room : t.batches.any (fun b => b.number.isNone) = true ∨ t.openBatches < 64)
    (checks : s.copyIssue t (srcReg (ctxOf p (.cpy o)) t o.a) false = .ok s1 fired) : SyncRule s p t (.cpy o) s1 .next (watchCause fired)
  | cpys (o : AgOp) (s1 : State) (fired : List Nat) (near : (s.outOf t.name).all (·.peer.isNone) = true)
    (room : t.batches.any (fun b => b.number.isNone) = true ∨ t.openBatches < 64)
    (checks : s.copyIssue t (srcReg (ctxOf p (.cpys o)) t o.a) true = .ok s1 fired) : SyncRule s p t (.cpys o) s1 .next (watchCause fired)
  /-- R366: the open batch takes the next number; without an open batch nothing is sealed. -/
  | cseal (o : AgOp) (room : t.openBatches < 64) :
    SyncRule s p t (.cseal o)
      (s.modThread t.name (fun x => if x.batches.any (fun b => b.number.isNone) then
        ({ x with
          batches := x.batches.map (fun (b : Batch) => if b.number.isNone then { b with number := some (x.nextSeal % 2 ^ 16) } else b)
          nextSeal := x.nextSeal + 1 } : Thread).tidyBatches else x)) .next []
  /-- R371: with at most n sealed batches unfinished the wait is an acquire. -/
  | cwaitRelMet (o : AgOp) (drained : s.drained t.name = true)
    (few : (t.batches.filter (fun b => b.number.isSome && !b.released)).length ≤ o.imm.toNat) :
    SyncRule s p t (.cwaitRel o) ((s.closeRegion t.name).acquire t.name.core o.scope.toNat) .next []
  | cwaitRel (o : AgOp) (drained : s.drained t.name = true)
    (many : o.imm.toNat < (t.batches.filter (fun b => b.number.isSome && !b.released)).length) :
    SyncRule s p t (.cwaitRel o) (s.closeRegion t.name)
      (.wait (.batches false o.imm.toNat ((t.batches.filter (fun b => b.number.isSome && !b.released)).map (·.key)) o.scope.toNat)) []
  | cwaitLndMet (o : AgOp) (drained : s.drained t.name = true)
    (few : (t.batches.filter (fun b => b.number.isSome && !b.landed)).length ≤ o.imm.toNat) :
    SyncRule s p t (.cwaitLnd o) ((s.closeRegion t.name).acquire t.name.core o.scope.toNat) .next []
  | cwaitLnd (o : AgOp) (drained : s.drained t.name = true)
    (many : o.imm.toNat < (t.batches.filter (fun b => b.number.isSome && !b.landed)).length) :
    SyncRule s p t (.cwaitLnd o) (s.closeRegion t.name)
      (.wait (.batches true o.imm.toNat ((t.batches.filter (fun b => b.number.isSome && !b.landed)).map (·.key)) o.scope.toNat)) []

end Sys2Proof
end

