-- ==== Sys2Proof/Certificates/Slice0/Obligations.lean ====
section
/-! DEFINITION. The statements for the provers. Statements about what an instruction does conclude that `exec` answers a next state. -/

open Sys2Proof Sys2Proof.Machine



/-! ## Encodings -/

/-- DECODE AND ENCODE AGREE: the word of every well-formed instruction decodes to it, with every operand at every value (R60 to R72). -/
def Obligations.RoundTrip : Prop := ∀ i w, i.wellFormed = true → encode i = some w → decode w = .ok i

/-- What the decoder accepts is well formed, and its word is the one it was read from (R78 row 6). -/
def Obligations.DecodeSound : Prop := ∀ w i, decode w = .ok i → i.wellFormed = true ∧ encode i = some w

/-- R75: the assigned opcodes are those of the grid, each the instruction its square names; a word is ILLEGAL_OP exactly where its opcode is
not assigned. -/
def Obligations.OpcodeGrid : Prop :=
  (∀ w, decode w = .error .illegalOp ↔ assigned (opOf w) = false) ∧
  (∀ w i, decode w = .ok i → gridAt (opOf w) = some (gridName i))

/-- A 1 in a reserved bit of a word is an ILLEGAL_FIELD (R60, R68, R78 row 6, R407). -/
def Obligations.ReservedBits : Prop := ∀ w, reservedSet w = true → decode w = .error .illegalField

/-- Words written out in the worked cases of the reference entries decode to the instructions they stand for (R60 to R68, R323, R353, R355). -/
def Obligations.SpecWords : Prop :=
  decode 0x4185002000001234 = .ok (.movi (.i 5 0 1 0 false 0x1234)) ∧
  decode 0x5503040004420000 = .ok (.actv (.r 3 2 0 0 true false false 4 2)) ∧
  decode 0x6006181150000040 =
    .ok (.ld { d := 3, a := 6, g := 0, gn := false, scope := 4, ord := 1, pol := 1, width := 2, sx := false, ka := false, kd := false, off := 0x40 }) ∧
  decode 0x0900000300000005 = .ok (.loop { g := 0, gn := false, a := 0, sub12 := 3, off := 5 }) ∧
  decode 0x7600080000000004 =
    .ok (.barv { d := 0, a := 2, g := 0, gn := false, scope := 0, ord := 0, b := 0, kd := false, ka := false, kb := false, sub6 := 0, imm := 4 }) ∧
  decode 0x9200100D01800009 =
    .ok (.mma { d := 0, a := 4, g := 0, gn := false, bsl := 1, mode := 2, q := true, fa := 0, fb := 1, ka := true, kd := false, sub6 := 0, imm := 9 }) ∧
  decode 0xA01410000A800040 =
    .ok (.rast { d := 10, a := 4, g := 0, gn := false, scope := 0, ord := 0, b := 5, kd := false, ka := true, kb := false, sub6 := 0, imm := 64 }) ∧
  decode 0xB400000700000000 = .ok (.bkpt { g := 0, gn := false, a := 0, sub12 := 7, d := 0, ka := false, imm := 0 }) ∧
  decode 0x0B28000000000000 = .ok (.yield { g := 2, gn := true, a := 0, sub12 := 0, off := 0 })

/-! ## Steps, checks and guards -/

/-- A STEP RUNS THE DECODED INSTRUCTION: when a pipe has the turn, its pack may issue and the fetched word decodes to `i`, the step is `exec i`
on the state after the fetch, with the pack as the one whose word executes and the word tagged where its pipe samples it (R315), and then the
end of a debug step that ran it (R50, R78, R312). -/
def Obligations.StepRunsDecoded : Prop :=
  ∀ s core pipe rest p n s0 w s1 i, s.agenda = .issue core pipe :: rest →
    AtIssue { s with agenda := rest, cur := none } core pipe p n s0 →
    s0.fetch p.core (s0.asidOf n) (s0.packLevel p) (wordAddr p.ca p.wi) = .ok w s1 → decode w = .ok i →
    step s = Machine.afterTurn (some p) (exec i (State.tagWord { s1 with cur := some (p.core, p.pipe) } p i))

/-- The fetched word is the eight bytes at the word's translated address, low byte first, where the core holds no older copy of them and
they are not poisoned; a fetch that no watchpoint sees changes nothing (R4, R42, R50, R308). -/
def Obligations.FetchReads : Prop :=
  ∀ s core asid level va pa leaf, s.watchpoints = [] → s.xlat (.core core) asid va.toNat level { write := false, fetch := true, bytes := 8 } = .ok pa leaf →
    s.poisoned pa 8 = false → freshCode s core pa →
    s.fetch core asid level va = .ok (BitVec.ofNat 64 (s.store.mem.val pa 8)) s

/-- The agenda's other turns (the model's own: DESIGN CHOICE, log 1): a device event executes as its instruction does, unless a checkpoint
holds it because it is a host write (R327); and with an empty agenda one cycle of the clock passes. -/
def Obligations.StepRunsEvent : Prop :=
  (∀ s i rest, s.agenda = .event i :: rest → State.hostHeld { s with agenda := rest, cur := none } i = none →
    step s = exec i { s with agenda := rest, cur := none }) ∧
  (∀ s i rest s1, s.agenda = .event i :: rest → State.hostHeld { s with agenda := rest, cur := none } i = some s1 → step s = .next s1) ∧
  (∀ s, s.agenda = [] → step s = exec .dtcTick { s with cur := none })

/-- No operation has an undefined outcome: every instruction and every step answers a next state (R6). -/
def Obligations.StepTotal : Prop := (∀ i s, ∃ t, exec i s = .next t) ∧ ∀ s, ∃ t, step s = .next t

/-- R78, rows 4 and 6: where the fetched word decodes to nothing, every thread of the pack takes ILLEGAL_OP or ILLEGAL_FIELD at the word, and
its record will hold the word. -/
def Obligations.UndecodableTraps : Prop :=
  ∀ s core pipe rest p n s0 w s1 e, s.agenda = .issue core pipe :: rest →
    AtIssue { s with agenda := rest, cur := none } core pipe p n s0 →
    s0.fetch p.core (s0.asidOf n) (s0.packLevel p) (wordAddr p.ca p.wi) = .ok w s1 → decode w = .error e →
    step s = .next ((s1.trapPack p w (trapOf (if e = .illegalOp then .illegalOp else .illegalField) 0)).afterTurn (some p))

/-- R78, rows 5 to 8: where a check of placement, clause fields, privilege or units fails, every thread of the pack takes its trap at the
word, whatever its guard or mask, and the word has no other effect. -/
def Obligations.FailedChecks : Prop :=
  ∀ i s p w info, encode i = some w → s.issuing = some p → s.wordFate i p = some info →
    exec i s = .next (afterWord i p (s.trapPack p w info))

/-- R77: at program level TRET, TLBI, CTXSV, CTXLD and SREAD of a supervisor-only register take PRIV; at supervisor level or above the
level stops none of them. -/
def Obligations.Privilege : Prop :=
  ∀ i s p, privileged i = true →
    (∀ w, encode i = some w → s.packLevel p = 0 → s.issuing = some p →
      (∀ t1 t2, clauseFate i w p.hdr p.wi p.pa p.pb t1 t2 = none) →
      exec i s = .next (s.trapPack p w (trapOf .priv 0))) ∧
    (∀ level, 0 < level → levelFate i s level = none)

/-- R69: a pack whose threads' guards are all false executes a CT, MR, AS, GX, MX or SY word with no effect at all, where no matrix unit of the pack
waits; the word retires and the threads go on past it. The guard is the predicate `G`, inverted when `GN` is 1; `G` 0 is always true, and
inverted always false. A VEC or XFN word has no guard: a prefix half in effect masks its threads (R73). -/
def Obligations.GuardOff : Prop :=
  (∀ i s p g gn w, guardField i = some (g, gn) → encode i = some w → runs i s p = true →
    (∀ n ∈ p.threads, ∃ t, s.thread? n = some t ∧ t.st = .issuing ∧ t.guard g gn = false) → s.unitOf p = none →
    exec i s = .next (idleWord i p s)) ∧
  (∀ i p g gn w, guardField i = some (g, gn) → encode i = some w → ∀ t, (ctxOf p i).active t = t.guard g gn) ∧
  (∀ (t : Thread) (g : BitVec 4), t.guard g false = (g == 0 || t.preds.getLsbD g.toNat) ∧ t.guard g true = !(g == 0 || t.preds.getLsbD g.toNat)) ∧
  (∀ i o sp w p, vecSpec i = some (o, sp) → encode i = some w → guardField i = none ∧
    ∀ t, (ctxOf p i).active t = (if pfV p.pa then t.pred (pfMp p.pa) != pfMn p.pa else true))

/-! ## Vector and control words -/

/-- Every vector, float, move and cross-lane word without kill bits, on a pack of any size: each active thread takes the result its
entry gives from its own operands (a cross-lane word from all lanes, R400), each masked-off thread is left as R73 says, and nothing else
that a thread holds, no memory, no other thread, no engine and no launch changes (R55, R56, R73, R135, R333). -/
def Obligations.VectorWords : Prop :=
  ∀ i o sp s p, vecSpec i = some (o, sp) → runs i s p = true → killRegs i = [] → p.threads.Nodup → p.threads ≠ [] →
  (∀ n ∈ p.threads, ∃ t r, s.thread? n = some t ∧ t.boundary = [] ∧ vectorResult i (ctxOf p i) s o sp t = some r ∧
    ((ctxOf p i).active t = true → trapFlags t.fctl r.flags = 0)) →
  ∃ u, exec i s = .next u ∧ u.clock = s.clock ∧ u.store = s.store ∧ u.engines = s.engines ∧ u.media = s.media ∧
    u.work.launches = s.work.launches ∧ u.work.groups = s.work.groups ∧ u.work.tasks = s.work.tasks ∧
    (∀ n, n ∉ p.threads → u.thread? n = s.thread? n) ∧
    ∀ n ∈ p.threads, ∀ t r, s.thread? n = some t → vectorResult i (ctxOf p i) s o sp t = some r →
      ∃ v, u.thread? n = some v ∧
        let w := if (ctxOf p i).active t then withResult o sp t r else maskedOff i (ctxOf p i) o sp t
        v.regs = w.regs ∧ v.preds = w.preds ∧ v.fstat = w.fstat ∧ v.fctl = t.fctl ∧ v.xfn = t.xfn ∧ v.region = t.region ∧
        v.calls = t.calls ∧ v.depth = t.depth ∧ v.batches = t.batches

/-- The same words with any kill bits and any enabled FP trap, on a pack whose one thread is active: the state is the thread with its
result, its killed sources spilled and the word retired, followed by the FP trap where a flag it raised is enabled (R58, R136, R294). -/
def Obligations.VectorWordsLone : Prop :=
  ∀ i o sp s p t r, vecSpec i = some (o, sp) → Lone i s p t → vectorResult i (ctxOf p i) s o sp t = some r →
    exec i s = .next (finish i p t.name s (s.modThread t.name (fun x => withResult o sp x r)) .next (fpAfter t.fctl r.flags))

/-- The control-transfer words complete: branches, calls, returns, the end of a thread, SWITCH, loops, YIELD and the timed waits take the effect of
their entries (R9, R299, R354, R355, R360, R373, R397, R398, R422, R431, R438, R448). -/
def Obligations.ControlWords : Prop :=
  ∀ i s p t s1 fate, Lone i s p t → ControlRule s p t i s1 fate → exec i s = .next (finish i p t.name s s1 fate)

/-! ## Memory words -/

/-- Every memory word of an active thread, LD, ST, LDS, STS, ATOM, ATOMS, RED and LDW, completes: a scratchpad access, a checked, synchronising or
atomic access and a device-register access are performed at the word, a plain one stands outstanding once it is translated, one that must
wait or that takes a replayable fault parks, and in each case the word retires (R47, R145, R157, R161, R162, R165, R177, R388, R391,
R420, R430). -/
def Obligations.AccessWords : Prop :=
  ∀ i s p t s1, Lone i s p t →
    (∀ req, requestOf i = some req → countsRoom s (req (ctxOf p i) s t).2) → AccessRule s p t i s1 →
    exec i s = .next (finish i p t.name s s1 .next)

/-- FENCE, the six CCTL words and WSET complete with the effect of their entries (R361, R379, R439). -/
def Obligations.CacheWords : Prop :=
  ∀ i s p t s1, Lone i s p t → CacheRule s p t i s1 → exec i s = .next (finish i p t.name s s1 .next)

/-! ## Copies, tiles, barriers -/

/-- The barrier words, TOWN, the copy words and the waits for batches complete with the effect of their entries (R200 to R204, R345, R351,
R357, R359, R364, R366, R371, R433). -/
def Obligations.SyncWords : Prop :=
  ∀ i s p t s1 fate after, Lone i s p t → SyncRule s p t i s1 fate after → exec i s = .next (finish i p t.name s s1 fate after)

/-! ## Queues and rings -/

/-- The queue words complete: a push appends, spills or blocks, a close counts down, a pop takes an entry, ends or blocks, an
amplifying push appends or drops, and then the queues of the core serve whom they can (R118 to R120, R276, R277, R416, R417). -/
def Obligations.QueueWords : Prop :=
  ∀ i s p t s1 fate, Lone i s p t → unwatched s (clusterOf t.name.core) = true → bit (s.dbg (clusterOf p.core) (0x300 + 8 * (p.core % 4))) 63 = false →
    QueueRule s p t i s1 fate → exec i s = .next ((finish i p t.name s s1 fate).serveCore p.core)

/-- QINIT, RGACQ, RGREL.REL and RGHOLD complete (R263 to R265, R415, R423). -/
def Obligations.RingWords : Prop :=
  ∀ i s p t s1 fate, Lone i s p t → RingRule s p t i s1 fate → exec i s = .next (finish i p t.name s s1 fate)

/-- RGREL.PUB publishes a FILLING slot in its turn, and chains whose work is then over end (R261, R265). -/
def Obligations.RingPublish : Prop :=
  ∀ o s p t g x, Lone (.rgrelPub o) s p t → HoldsSlot s t (srcReg (ctxOf p (.rgrelPub o)) t o.a) .filling g x → x.publishing = false →
    exec (.rgrelPub o) s = .next ((finish (.rgrelPub o) p t.name s (s.publishSlot x) .next).settleChains)

/-! ## XFN, system and image words -/

/-- Every XFN word of an active thread completes: its result stands outstanding and its flags and predicate are set now (R142, R335, R374, R394,
R395, R419). -/
def Obligations.XfnWords : Prop :=
  ∀ i o sp s p t r, vecSpec i = some (o, sp) → Lone i s p t → xfnResult i (ctxOf p i) o sp t = some r → t.xfn.length < 63 →
    exec i s = .next (finish i p t.name s
      (s.modThread t.name (fun x => (({ x with xfn := x.xfn ++ [{ reg := o.d.toNat, value := BitVec.ofNat 32 r.val }] } : Thread).setPreds r.preds).addFlags r.flags))
      .next (fpAfter t.fctl r.flags))

/-- NOP, the register words, role queries, software traps, translation invalidation and the returns from a trap complete with the effect
of their entries (R44, R134, R135, R159, R250, R298, R353, R424, R429, R432, R434). -/
def Obligations.SystemWords : Prop :=
  ∀ i s p t s1 fate after, Lone i s p t → SystemRule s p t i s1 fate after → exec i s = .next (finish i p t.name s s1 fate after)

/-- PFX completes for a pack of any size: no thread's registers change, and its halves stand for the next two words (R72). -/
def Obligations.PrefixWord : Prop :=
  ∀ h1 h0 s p t, Lone (.pfx h1 h0) s p t → exec (.pfx h1 h0) s = .next (finish (.pfx h1 h0) p t.name s s .next)

/-- The context-switch words complete with status 0 and their whole effect, and with status 1 where no such target is (R367 to R370). -/
def Obligations.ImageWords : Prop :=
  ∀ i s p t s1 after, Lone i s p t → ImageRule s t i s1 after → exec i s = .next (finish i p t.name s s1 .next after)

/-! ## Engine words and XEQ -/

/-- The matrix, grammar, graphics and sampling words and TSPAWN complete with the effect of their entries (R221, R223, R235, R243, R273, R284,
R399, R401 to R403, R418, R436). -/
def Obligations.EngineWords : Prop :=
  ∀ i s p t s1 fate after, Lone i s p t → EngineRule s p t i s1 fate after → exec i s = .next (finish i p t.name s s1 fate after)

/-- An MMA leader whose checks pass makes its pack one unit with one quarter, the last in arrival order, and the pack stands at the word
until the quarter is granted (R225, R230, R403). -/
def Obligations.MatrixIssue : Prop :=
  ∀ o s p t g x q b key s1 fired, Lone (.mma o) s p t → s.unitOf p = none → AtPitch s t g x → s.frozen (clusterOf p.core) = false →
    bit (srcReg (ctxOf p (.mma o)) t o.a) 31 = true →
    (o.sub6.getLsbD 0 = false → tilePending s t (bits (srcReg (ctxOf p (.mma o)) t o.a) 11 0) = false) →
    (o.sub6.getLsbD 1 = false → tilePending s t (o.imm.toNat % 4096) = false) →
    leadQuarter (ctxOf p (.mma o)) s t g x o = .ok q b key s1 fired → AtPitch (leadOwes (ctxOf p (.mma o)) t s1 fired) t g x →
    (leadOwes (ctxOf p (.mma o)) t s1 fired).pack? p.core p.pipe = some p →
    exec (.mma o) s = .next ((putUnit (leadOwes (ctxOf p (.mma o)) t s1 fired) (newUnit s.now (leadOwes (ctxOf p (.mma o)) t s1 fired).nextOrder.1 p g x o q b key)).stallPack p)

/-- XEQ runs the VEC word in the pair a thread names, on that thread's own registers, without a prefix half, and retires (R105, R440, R441). -/
def Obligations.XeqWord : Prop :=
  ∀ o s p t w i o2 sp c r, Lone (.xeq o) s p t → XeqVec s p t o w i o2 sp c → s.pack? p.core p.pipe = some p → p.xafter = [] →
    vectorResult i c s o2 sp t = some r → trapFlags t.fctl r.flags = 0 →
    exec (.xeq o) s = .next
      (retired (.xeq o) p s ((((((s.modThread t.name (fun x => withResult o2 sp x r)).kill t.name i).wordRegs s c
        [{ name := t.name, fate := .next, after := [] }]).xeqKill (ctxOf p (.xeq o)) (.xeq o) i [t.name]).xeqPut
        (ctxOf p (.xeq o)) [] [])) [{ name := t.name, fate := .next, after := [] }])

/-- A thread whose pair holds no legal word does nothing in the XEQ and takes ILLEGAL_WORD after it, with the word in its record (R79,
R300). -/
def Obligations.XeqIllegal : Prop :=
  ∀ o s p t, Lone (.xeq o) s p t → s.pack? p.core p.pipe = some p → p.xafter = [] →
    xeqLegal p.hdr true (BitVec.ofNat 64 (t.regsVal o.a.toNat 2)) = none →
    exec (.xeq o) s = .next (retired (.xeq o) p s (s.xeqKill (ctxOf p (.xeq o)) (.xeq o) .nop [t.name])
      [{ name := t.name, fate := .next, after := [trapOf .illegalWord 0], word := some (BitVec.ofNat 64 (t.regsVal o.a.toNat 2)) }])

/-! ## Events -/

/-- The events of pipes, threads, accesses and trap handlers, where they are enabled, take their effect (R9, R15, R36, R39, R44, R47, R96,
R98, R100 to R105, R142, R161, R179, R295, R302, R303, R438). -/
def Obligations.ThreadEvents : Prop := ∀ i s u, ThreadEvent s i u → exec i s = .next u

/-- The events of the copy engine, the matrix engine, the grammar evaluator, the rasteriser and the queues, where they are enabled, take their
effect (R112, R186, R201, R204, R226, R230 to R234, R237 to R240, R243, R244). -/
def Obligations.EngineEvents : Prop := ∀ i s u, EngineEvent s i u → exec i s = .next u

/-- The events of launches, tasks, strip chains, rings, outputs and time, where they are enabled, take their effect (R19, R29, R112, R247, R252, R261,
R264, R320, R323). -/
def Obligations.LaunchEvents : Prop := ∀ i s u, LaunchEvent s i u → exec i s = .next u

/-- The events of the memory system, the debug unit, checkpoints, bring-up and the host, where they are enabled, take their effect (R5, R154, R161, R302,
R304, R310 to R316, R319, R324, R327, R330 to R332). -/
def Obligations.SystemEvents : Prop := ∀ i s u, SystemEvent s i u → exec i s = .next u

/-! ## Traps, starts and frames -/

/-- TAKING A TRAP (R36, R294): the thread leaves its pack and is SUSPENDED with what its record will hold; its pc is the resume point; it waits
for a handler context behind those that trapped before, and a loop that it was passing over is still passed over (R299); its registers, predicates, stacks and counters and everything of other threads
stay. A region does not end (R12). -/
def Obligations.TrapEntry : Prop :=
  ∀ (s : State) (n : ThreadName) (t : Thread) (r : Trapped), s.thread? n = some t → t.handling = none →
    (s.takeTrap n r).thread? n = some
      { t with st := .suspended .trapped, trap := some { r with skip := r.skip || (t.skip && r.resume == t.pc) }, pc := r.resume, hdr := none, skip := false, solo := none, released := false } ∧
    (s.takeTrap n r).work.trapQueue = s.work.trapQueue ++ [n] ∧
    (∀ m, m ≠ n → (s.takeTrap n r).thread? m = s.thread? m) ∧
    (∀ q ∈ (s.takeTrap n r).work.packs ++ (s.takeTrap n r).work.resumes, n ∉ q.threads ∧ q.threads ≠ []) ∧
    (s.takeTrap n r).store = s.store ∧ (s.takeTrap n r).engines = s.engines ∧ (s.takeTrap n r).clock = s.clock ∧
    (s.takeTrap n r).media = s.media ∧ (s.takeTrap n r).work.launches = s.work.launches ∧ (s.takeTrap n r).work.groups = s.work.groups ∧
    (s.takeTrap n r).work.tasks = s.work.tasks

/-- THE HANDLER CONTEXT (R295): on the trapped thread's core and in its slot, at supervisor level, at the launch's HPC with the launch's
FCTL; its registers are 0 and its predicates false, FSTAT is 0 and both stacks are empty; TRAPC holds the cause and the record slot, TRAPV the
cause's value; and the trapped thread no longer waits. Memory and the engines do not change. -/
def Obligations.HandlerEntry : Prop :=
  ∀ (s : State) (t : Thread) (g : Workgroup) (l : Launch) (r : Trapped) (k : Nat), s.launch? g.lid = some l → g.core = t.name.core → g.slot = t.name.slot → k < 16 →
    s.thread? { core := g.core, slot := g.slot, wti := t.name.wti, ctx := k + 1 } = none →
    ∃ h, (s.startHandler t g r k).thread? { core := g.core, slot := g.slot, wti := t.name.wti, ctx := k + 1 } = some h ∧
      h.level = 1 ∧ h.pc = { ca := l.hpc, wi := 0 } ∧ h.fctl = l.fctl ∧ h.fstat = 0 ∧ (∀ v, h.reg v = 0) ∧ (∀ q, 1 ≤ q → q ≤ 15 → h.pred q = false) ∧
      h.calls = [] ∧ h.depth = 0 ∧ h.loops = [] ∧ h.lid = g.lid ∧ h.crew = t.crew ∧ h.st = .ready ∧
      (∀ ch, (s.startHandler t g r k).special h 0x70 ch = r.info.cause.code + 256 * k) ∧
      (∀ ch, (s.startHandler t g r k).special h 0x71 ch = r.info.tval.toNat) ∧
      t.name ∉ (s.startHandler t g r k).work.trapQueue ∧
      (s.startHandler t g r k).store = s.store ∧ (s.startHandler t g r k).engines = s.engines ∧
      (s.startHandler t g r k).work.packs = s.work.packs ∧ ∀ m u, s.thread? m = some u → (s.startHandler t g r k).thread? m = some u

/-- THE RETURN FROM A TRAP (R36, R298): the thread is READY at the record's resume point, a pack of its own with the record's prefix halves,
its header to be read again, and passed over where it was so (R299); its registers, predicates and stacks stay as they are. A failed access
that waited for it is taken there instead (R161). A trapped thread stands in no pack. -/
def Obligations.TrapReturn : Prop :=
  ∀ (s : State) (n : ThreadName) (t : Thread) (resume : Pc) (pa pb : BitVec 28) (past skip : Bool), s.thread? n = some t →
    t.handling = none → (∀ q ∈ s.work.packs ++ s.work.resumes, n ∉ q.threads) →
    ∃ v, (s.returnTrap n resume pa pb past skip).thread? n = some v ∧ v.pc = resume ∧ v.hdr = none ∧
      v.regs = t.regs ∧ v.preds = t.preds ∧ v.fctl = t.fctl ∧ v.fstat = t.fstat ∧ v.calls = t.calls ∧ v.depth = t.depth ∧ v.loops = t.loops ∧
      v.region = t.region ∧ v.progress = t.progress ∧
      (t.boundary = [] → v.st = .ready ∧ v.trap = none ∧ v.skip = skip ∧ v.solo = some { hdr := none, pa := pa, pb := pb }) ∧
      (∀ x rest, t.boundary = x :: rest → v.st = .suspended .trapped ∧ v.boundary = rest ∧
        v.trap = some { info := x.1, at_ := x.2.1, word := x.2.2, resume := resume, pa := pa, pb := pb, kept := [], slot := none, skip := skip }) ∧
      (s.returnTrap n resume pa pb past skip).store = s.store ∧ ∀ m, m ≠ n → (s.returnTrap n resume pa pb past skip).thread? m = s.thread? m

/-- THE START OF A GANG (R7, R8, R19): every launched thread is READY at word 0 of its crew's entry clause, at program level, with registers 0,
P0 true and P1 to P15 false, the launch's FCTL, FSTAT 0, both stacks empty and both counters 0; no byte of its scratchpad allocation is
other than 0 (R445), and no other byte of a scratchpad or of memory changes. -/
def Obligations.InitialThread : Prop :=
  ∀ (s : State) (l : Launch) (g : Workgroup),
    (g.crews.Pairwise (fun a b => ∀ x < a.nth, ∀ y < b.nth, 32 * a.firstSquad + x ≠ 32 * b.firstSquad + y) →
      ∀ c ∈ g.crews, ∀ i < c.nth, s.thread? { core := g.core, slot := g.slot, wti := 32 * c.firstSquad + i, ctx := 0 } = none →
      ∃ t, (s.startGang l g).thread? { core := g.core, slot := g.slot, wti := 32 * c.firstSquad + i, ctx := 0 } = some t ∧
        t.pc = { ca := c.epc, wi := 0 } ∧ t.crew = c.crew ∧ t.level = 0 ∧ (∀ v, t.reg v = 0) ∧ t.pred 0 = true ∧
        (∀ q, 1 ≤ q → q ≤ 15 → t.pred q = false) ∧ t.fctl = l.fctl ∧ t.fstat = 0 ∧ t.calls = [] ∧ t.depth = 0 ∧ t.loops = [] ∧
        t.progress = 0 ∧ t.region = 0 ∧ t.st = .ready) ∧
    (∀ a < g.size, (s.startGang l g).scratchByte g.core (g.base + a) = 0) ∧
    (∀ b, (b < g.core * 2 ^ 20 + g.base ∨ g.core * 2 ^ 20 + g.base + g.size ≤ b) →
      Mem.byte (s.startGang l g).store.scratch b = Mem.byte s.store.scratch b) ∧
    (s.startGang l g).store.mem = s.store.mem

/-- The frame of a word that raised no trap, where none is due (R11, R45): what retires it for its one thread changes neither memory nor scratchpads nor engines
nor time nor any launch, workgroup or task, nor another thread, nor that thread's registers, predicates, status, stack of calls or region. -/
def Obligations.FinishKeeps : Prop :=
  ∀ (i : Instr) (s : State) (p : Pack) (t : Thread) (s1 : State) (fate : Fate) (t1 : Thread), Lone i s p t → killRegs i = [] → s1.thread? t.name = some t1 → fate ≠ .gone →
    t1.boundary = [] →
    (hStep p.hdr && s1.stepOn t.name.core) = false →
    (finish i p t.name s s1 fate).store = s1.store ∧ (finish i p t.name s s1 fate).engines = s1.engines ∧
    (finish i p t.name s s1 fate).clock = s1.clock ∧ (finish i p t.name s s1 fate).media = s1.media ∧
    (finish i p t.name s s1 fate).work.launches = s1.work.launches ∧ (finish i p t.name s s1 fate).work.groups = s1.work.groups ∧
    (finish i p t.name s s1 fate).work.tasks = s1.work.tasks ∧
    (∀ m, m ≠ t.name → (finish i p t.name s s1 fate).thread? m = s1.thread? m) ∧
    ∃ v, (finish i p t.name s s1 fate).thread? t.name = some v ∧ v.regs = t1.regs ∧ v.preds = t1.preds ∧ v.fctl = t1.fctl ∧ v.fstat = t1.fstat ∧
      v.calls = t1.calls ∧ v.depth = t1.depth ∧ v.region = t1.region

/-- R45: after the last word of the clause at A, when it does not transfer control, the thread continues at A + 8·(NI + 2), modulo 2^57; but
where the top of its loop stack ends at this clause at its depth, the loop-back of R397 comes first. After any other word it goes on to
the next word of the clause. -/
def Obligations.NextWord : Prop :=
  ∀ (i : Instr) (s : State) (p : Pack) (t : Thread) (s1 : State) (t1 : Thread), Lone i s p t → killRegs i = [] → s1.thread? t.name = some t1 →
    (hStep p.hdr && s1.stepOn t.name.core) = false → t1.boundary = [] →
    ∃ v, (finish i p t.name s s1 .next).thread? t.name = some v ∧
      (p.wi ≠ hNi p.hdr → v.pc = { ca := p.ca, wi := p.wi + 1 } ∧ v.loops = t1.loops) ∧
      (p.wi = hNi p.hdr → (∀ x r, t1.loops = x :: r → x.stop ≠ p.ca ∨ x.depth ≠ t1.depth) →
        v.pc = { ca := BitVec.ofNat 57 ((p.ca.toNat + 8 * (hNi p.hdr + 2)) % 2 ^ 57), wi := 0 } ∧ v.loops = t1.loops) ∧
      (p.wi = hNi p.hdr → ∀ x r, t1.loops = x :: r → x.stop = p.ca → x.depth = t1.depth → 1 < x.count.toNat →
        v.pc = { ca := x.start, wi := 0 } ∧ v.loops = { x with count := x.count - 1 } :: r) ∧
      (counts ((encode i).getD 0) = true → v.progress = (if t1.progress = 0xFFFFFFFF then t1.progress else t1.progress + 1)) ∧
      (counts ((encode i).getD 0) = false → v.progress = t1.progress)

/-! ## Memory -/

/-- The machine right after reset is canonical, and no checkpoint image is held. -/
def Obligations.ResetTidy : Prop := tidy State.reset ∧ State.reset.control.image = none

/-- EVERY STEP KEEPS THE CANONICAL FORM of the memories and the sparse registers, of the state and of its checkpoint image. -/
def Obligations.StepTidy : Prop := ∀ s u, tidy s → step s = .next u → tidy u

/-- R4: bytes written from an address up read back, the first lowest, every other byte of memory is as before, and a value of `n` bytes reads
back little-endian. -/
def Obligations.ReadAfterWrite : Prop :=
  (∀ m a l b, Memory.wf m = true → Mem.byte (m.write a l) b = if a ≤ b ∧ b < a + l.length then l.getD (b - a) 0 else Mem.byte m b) ∧
  (∀ m a n v, Memory.wf m = true → (m.write a (leBytes v n)).val a n = v % 2 ^ (8 * n))

/-- The canonical form is one: two canonical memories that read alike at every address are equal data. -/
def Obligations.CanonicalUnique : Prop :=
  ∀ m k : Mem, Memory.wf m = true → Memory.wf k = true → (∀ a, m.byte a = k.byte a) → m = k

/-- A plain store at its home (R47, R147, R149): once performed its bytes stand in memory, low byte first, EVERY OTHER BYTE is as before, and no
scratchpad, register, thread, engine or launch changes. The core has no copy of the line, and the thread has not ended. -/
def Obligations.StoreFrame : Prop :=
  ∀ (s : State) (o : Outstanding) (pa leaf : Nat), Sys2Proof.canonical s = true → MayPerform s o → o.kind = .store → o.peer = none → o.tr = some (pa, leaf) →
    bits leaf 57 56 ≠ 1 → bit leaf 61 = false → o.sync = false → s.inL1 o pa leaf = false → s.poisoned pa o.bytes = false →
    unwatched s (homeCluster pa) = true → (∀ l ∈ s.store.l1, l.core = o.thread.core → l.tag ≠ pa / 128) → s.ended o.thread = false →
    ∃ u, exec (.memoryAccessPerformed o.id []) s = .next u ∧
      (∀ b, Mem.byte u.store.mem b =
        if pa ≤ b ∧ b < pa + o.bytes then BitVec.ofNat 8 (o.data.toNat / 256 ^ (b - pa)) else Mem.byte s.store.mem b) ∧
      u.store.scratch = s.store.scratch ∧ u.store.dregs = s.store.dregs ∧ u.store.acc = s.store.acc ∧ u.work = s.work ∧ u.engines = s.engines ∧
      u.media = s.media ∧ u.clock = s.clock

/-- A plain load at its home (R47, R147, R149): its registers take the bytes at the address, low byte first and extended as the word says, every
byte of memory and of the scratchpads is as before, and no other thread changes. The core has no dirty copy of the line. -/
def Obligations.LoadFrame : Prop :=
  ∀ (s : State) (o : Outstanding) (pa leaf : Nat) (t : Thread), MayPerform s o → o.kind = .load → o.peer = none → o.tr = some (pa, leaf) →
    bits leaf 57 56 ≠ 1 → bit leaf 61 = false → o.sync = false → s.inL1 o pa leaf = false → s.poisoned pa o.bytes = false →
    unwatched s (homeCluster pa) = true → (∀ l ∈ s.store.l1, l.core = o.thread.core → l.tag = pa / 128 → l.dirty = 0) →
    s.thread? o.thread = some t → t.st ≠ .exited →
    ∃ u, exec (.memoryAccessPerformed o.id []) s = .next u ∧
      u.thread? o.thread = some (t.setRegs o.dst.toNat (cutRegs (o.extend (s.store.mem.val pa o.bytes)) o.regs)) ∧
      (∀ m, m ≠ o.thread → u.thread? m = s.thread? m) ∧ u.store.mem = s.store.mem ∧ u.store.scratch = s.store.scratch ∧
      u.store.dregs = s.store.dregs ∧ u.engines = s.engines ∧ u.work.packs = s.work.packs ∧ u.work.launches = s.work.launches

/-- LD, ST and RED that are neither checked nor synchronising, at their word (R47, R162): nothing is stored yet, every byte of memory and of the
scratchpads and every register and flag of the thread is as before; the access stands outstanding with its physical address. -/
def Obligations.IssueFrame : Prop :=
  ∀ i s p t req pa leaf, Lone i s p t → requestOf i = some req → countsRoom s (req (ctxOf p i) s t).2 →
    AtMemory s (accessOf req i s p t).1 (accessOf req i s p t).2 pa leaf → bits leaf 57 56 ≠ 1 → atOnce (accessOf req i s p t).2 leaf = false →
    s.accessPoisoned (accessOf req i s p t).2 pa leaf = false → s.watchpoints = [] → t.boundary = [] →
    killRegs i = [] → (hStep p.hdr && s.stepOn t.name.core) = false →
    ∃ u v, exec i s = .next u ∧ u.store.mem = s.store.mem ∧ u.store.scratch = s.store.scratch ∧ u.store.acc = s.store.acc ∧
      u.store.dregs = s.store.dregs ∧ u.engines = s.engines ∧ u.clock = s.clock ∧ (∀ m, m ≠ t.name → u.thread? m = s.thread? m) ∧
      u.thread? t.name = some v ∧ v.regs = t.regs ∧ v.preds = t.preds ∧ v.fctl = t.fctl ∧ v.fstat = t.fstat ∧ v.region = t.region ∧
      v.calls = t.calls ∧ v.depth = t.depth ∧
      ∃ o ∈ u.store.outst, o.thread = t.name ∧ o.kind = (accessOf req i s p t).2.kind ∧ o.tr = some (pa, leaf) ∧ o.data = (accessOf req i s p t).2.data

/-- LDS, STS, ATOMS and LDW without ordering (R144, R341, R388, R391, R430): where a word stores, its bytes at the address that the word gives, taken to
the scratchpad it names, take the value; every other byte of every scratchpad, and all of memory, is as before; a load's or an atomic's
registers take the old value; no other thread, no flag and no predicate changes. -/
def Obligations.ScratchFrame : Prop :=
  ∀ i s p t req core a s1, Sys2Proof.canonical s = true → Lone i s p t → requestOf i = some req → countsRoom s (req (ctxOf p i) s t).2 →
    AtScratch s (accessOf req i s p t).1 (accessOf req i s p t).2 core a s1 → unwatched s (clusterOf core) = true →
    (accessOf req i s p t).2.sync = false → t.boundary = [] → killRegs i = [] → (hStep p.hdr && s.stepOn t.name.core) = false → t.st ≠ .exited →
    ∃ u v, exec i s = .next u ∧
      (let q := (accessOf req i s p t).2
       let old := s.scratchVal core a q.bytes
       (∀ b, Mem.byte u.store.scratch b =
         if q.writes ∧ core * 2 ^ 20 + a ≤ b ∧ b < core * 2 ^ 20 + a + q.bytes then
           BitVec.ofNat 8 ((if q.kind = .store then q.data.toNat else atomNew q.aop (8 * q.bytes) old q.data.toNat) / 256 ^ (b - (core * 2 ^ 20 + a)))
         else Mem.byte s.store.scratch b) ∧
       (q.kind = .store → v.regs = t.regs) ∧
       (q.kind = .load → v.regs = (t.setRegs q.dst.toNat (cutRegs (q.extend old) q.regs)).regs) ∧
       (q.kind = .atomic → v.regs = (t.setRegs q.dst.toNat (cutRegs old q.regs)).regs)) ∧
      u.store.mem = s.store.mem ∧ u.store.dregs = s.store.dregs ∧ u.store.acc = s.store.acc ∧ u.engines = s.engines ∧ u.clock = s.clock ∧
      (∀ m, m ≠ t.name → u.thread? m = s.thread? m) ∧ u.thread? t.name = some v ∧ v.preds = t.preds ∧ v.fctl = t.fctl ∧ v.fstat = t.fstat ∧
      v.region = t.region ∧ v.calls = t.calls ∧ v.depth = t.depth

/-- R201: a credit or arrivals at a sound object that nothing watches, that holds no surplus and whose steps wait for no trail log. While either count stays above zero afterwards the
phase goes on with the counts lowered; when both come to exactly zero PH flips and both counts are reloaded. PH, the counts and the reload
values are all that the object's bytes then show, and no byte of the scratchpads outside the object changes. -/
def Obligations.BarrierPhase : Prop :=
  ∀ (s : State) (core a bytes n : Nat) (m : Mark), Sys2Proof.canonical s = true → s.mark? core a false = some m → m.overBytes = 0 → m.overArrivals = 0 →
    unwatched s (clusterOf core) = true → s.stop? (clusterOf core) = none → (∀ x ∈ s.work.threads, ∀ off ph sc, x.st ≠ .blocked (.barrier off ph sc)) →
    bytes ≤ (s.readBar core a).pby → n ≤ (s.readBar core a).par → (∀ o ∈ s.engines.delayed, o.object ≠ { core := core, addr := a }) →
    s.scratchPoisoned core a 32 = false →
    (let b := s.readBar core a
     let u := s.barApply { core := core, addr := a } bytes n none false
     (b.pby ≠ bytes ∨ b.par ≠ n → u.readBar core a = { b with pby := b.pby - bytes, par := b.par - n }) ∧
     (b.pby = bytes → b.par = n → 0 < b.rby ∨ 0 < b.rar → u.readBar core a = { b with ph := !b.ph, pby := b.rby, par := b.rar }) ∧
     (∀ k, (k < core * 2 ^ 20 + a ∨ core * 2 ^ 20 + a + 32 ≤ k) → Mem.byte u.store.scratch k = Mem.byte s.store.scratch k) ∧
     u.store.mem = s.store.mem ∧ u.clock = s.clock)

/-! ## Arithmetic, formats, engines, time -/

/-- The eight integer words of R384 (R129): each element of the destination is the exact result wrapped modulo 2^width, or under SAT clamped to
the range of its type; no flag and no predicate changes. -/
def Obligations.IntegerResults : Prop :=
  ∀ i c s o sp t r k e, vectorResult i c s o sp t = some r → k < elemCount (vecIn c o sp t).ty →
    (let x := vecIn c o sp t
     let w := elemBits x.ty
     let sg := tySigned x.ty
     exactInt i w (elemInt sg w x.a k) (elemInt sg w x.b k) (elemInt sg w x.c k) = some e →
     ((r.val / 2 ^ (w * k) % 2 ^ w : Nat) : Int) =
       (if x.ctl.sat then max (leastInt sg w) (min e (greatestInt sg w)) else e) % (2 ^ w : Nat) ∧
     r.val < 2 ^ (w * elemCount x.ty) ∧ r.flags = 0 ∧ r.preds = [])

/-- IADC (R385): the sum of both operands and the carry predicate, which reads 1 when it is P0; the predicate takes the carry out. -/
def Obligations.AddWithCarry : Prop :=
  ∀ o c s v sp t r, vectorResult (.iadc o) c s v sp t = some r →
    (let x := vecIn c v sp t
     let n := elemBits x.ty
     let sum := x.a + x.b + (if t.pred x.sub then 1 else 0)
     r.val = sum % 2 ^ n ∧ (∀ q, q ≠ 0 → (t.setPreds r.preds).pred q = if q = x.sub ∧ x.sub < 16 then decide (2 ^ n ≤ sum) else t.pred q) ∧
     (t.setPreds r.preds).pred 0 = true ∧ (t.pred 0 = true) ∧ r.flags = 0)

/-- R427: SHL, SHR and SAR by the low eight bits of the count. From the width up SHL and SHR give 0, and SAR gives 0 or all ones by the sign. -/
def Obligations.Shifts : Prop :=
  ∀ i c s o sp t r, vectorResult i c s o sp t = some r →
    (let x := vecIn c o sp t
     let n := elemBits x.ty
     let k := x.b % 256
     (∀ p, i = .shl p → r.val = if k < n then x.a * 2 ^ k % 2 ^ n else 0) ∧
     (∀ p, i = .shr p → r.val = if k < n then x.a / 2 ^ k else 0) ∧
     (∀ p, i = .sar p → x.a < 2 ^ n → 0 < n →
       (r.val : Int) = (if k < n then elemInt true n x.a 0 / (2 ^ k : Nat) else if elemInt true n x.a 0 < 0 then -1 else 0) % (2 ^ n : Nat)) ∧
     (∀ p, i = .shl p ∨ i = .shr p ∨ i = .sar p → r.flags = 0 ∧ r.preds = []))

/-- R57: a 32-bit constant read as a 64-bit source is sign-extended for SI64, zero-extended for UI64, and read as FP32 and converted exactly for
F64; as a 32-bit or packed source it stands as it is. So are the clause literal, which a source field of 127 names, and IMM32 of the VI form
read. -/
def Obligations.ConstantWidening : Prop :=
  (∀ b < 2 ^ 32, widen 2 2 b = (if b < 2 ^ 31 then b else b + (2 ^ 64 - 2 ^ 32)) ∧ widen 3 2 b = b ∧
    sameReal (fp64.val (widen 5 2 b)) (fp32.val b) ∧ widen 5 2 b < 2 ^ 64 ∧ ∀ ty, widen ty 1 b = b) ∧
  (∀ lit t ty n, srcField lit t ty (.s n) 127 = widen ty n lit) ∧
  (∀ c sp t d a ty sub ka imm n, sp.b = .s n → (vecIn c (.i d a ty sub ka imm) sp t).b = widen ty n imm.toNat)

/-- R122: infinities and NaNs of the formats. -/
def Obligations.FloatClasses : Prop :=
  (∀ f ∈ infFormats, ∀ b, expField f b = 2 ^ f.eb - 1 →
    (manField f b = 0 → f.val b = .inf (b.testBit f.signBit)) ∧
    (manField f b ≠ 0 → f.val b = .nan (!(manField f b).testBit (f.p - 1)))) ∧
  (∀ f ∈ infFormats, ∀ b, expField f b ≠ 2 ^ f.eb - 1 → ∃ s n d, f.val b = .fin s n d ∧ 0 < d) ∧
  (∀ b < 256, b = 0x7F ∨ b = 0xFF → f8a.val b = .nan false) ∧
  (∀ b < 256, b ≠ 0x7F → b ≠ 0xFF → ∃ s n d, f8a.val b = .fin s n d ∧ 0 < d ∧ n ≤ 448 * d) ∧
  (∃ n d, f8a.val 0x7E = .fin false n d ∧ n = 448 * d ∧ 0 < d)

/-- R126: the product of two L6 values is exact in the sum of their exponent codes, with the sign of both; with a zero it is +0. The matrix engine
and the grammar evaluator multiply L6 by L6 so. -/
def Obligations.L6Products : Prop :=
  (∀ a < 64, ∀ b < 64, a ≠ 0x30 → b ≠ 0x30 →
    elemMul 4 4 a b = .fin (a.testBit 5 != b.testBit 5) (logL (l6Field a + l6Field b)).1 (logL (l6Field a + l6Field b)).2 ∧
    -32 ≤ l6Field a + l6Field b ∧ l6Field a + l6Field b ≤ 30) ∧
  (∀ a < 64, ∀ b < 64, a = 0x30 ∨ b = 0x30 → elemMul 4 4 a b = .fin false 0 1) ∧
  (∀ a < 64, ∀ fb b, fb ≠ 4 → elemMul 4 fb a b = (l6Val a).mul (fmtVal fb b)) ∧
  (∀ b < 64, ∀ fa a, fa ≠ 4 → elemMul fa 4 a b = (fmtVal fa a).mul (l6Val b)) ∧
  (∀ cfg code x, termProduct cfg code x = (elemMul cfg.fw cfg.fx code x).scaled cfg.scl) ∧
  elemMul 4 4 0x06 0x3F = .fin true 0x9838 (2 ^ 14) ∧ logL (-3) = (0x9838, 2 ^ 16) ∧
  sameReal ((elemMul 4 4 0x06 0x3F).add .rne (.fin false 0x9838 (2 ^ 16))) (.fin true 17838134765625 (10 ^ 13))

/-- R226: a quarter's results stand in the accumulators: each of its 8 rows by 64 columns is its prior value plus the sum of products, rounded
once; every other accumulator element, and all memory, is as before. -/
def Obligations.QuarterResults : Prop :=
  ∀ (s : State) (p : Pass) (q : PassQuarter) (rest : List Pass), Sys2Proof.canonical s = true → s.engines.passes = p :: rest → p.quarters = [q] →
    q.creditA = none → q.creditB = none → q.row + 8 ≤ 1024 →
    ∃ u, exec (.passComplete p.cluster) s = .next u ∧
      (∀ m < 8, ∀ n < 64, u.accGet p.cluster (q.row + m) (64 * b2n q.half + n) =
        roundAcc p.mode (quarterSum p q (s.accGet p.cluster (q.row + m) (64 * b2n q.half + n)).toNat m n)) ∧
      (∀ c, ∀ r < 1024, ∀ k < 128, (c ≠ p.cluster ∨ r < q.row ∨ q.row + 8 ≤ r ∨ k < 64 * b2n q.half ∨ 64 * b2n q.half + 64 ≤ k) →
        u.accGet c r k = s.accGet c r k) ∧
      u.store.mem = s.store.mem ∧ u.store.scratch = s.store.scratch ∧ u.work = s.work ∧ u.clock = s.clock

/-- R247: the device time counter. At reset it is 0 and so is its adjustment; a cycle adds floor((2^74 + ADJ·2^34) / 5) units of 2^-72 ns, so
that it rises unless it wraps; DTCN and DTCFR read its top 96 bits; ADJ is clamped to ±549,755,814; the three registers at 0x10 to 0x20 are
written at machine level only. -/
def Obligations.DeviceTime : Prop :=
  (State.reset.clock.dtc = 0 ∧ State.reset.clock.adj = 0 ∧ State.reset.clock.stref = false) ∧
  (∀ s : State, s.control.fw.powerOff = false → ∃ u, exec .dtcTick s = .next u ∧
    u.clock.dtc.toNat = (s.clock.dtc.toNat + (((2 ^ 74 : Nat) + s.clock.adj.toInt * (2 ^ 34 : Nat)) / 5).toNat) % 2 ^ 136 ∧
    (s.clock.dtc.toNat + 2 ^ 73 < 2 ^ 136 → s.clock.dtc.toNat < u.clock.dtc.toNat)) ∧
  (∀ s : State, s.devRead 0xF000000001000 8 = s.clock.dtc.toNat / 2 ^ 72 % 2 ^ 64 ∧
    s.devRead 0xF000000001008 8 = s.clock.dtc.toNat / 2 ^ 40 % 2 ^ 32) ∧
  (∀ (s : State) (v : BitVec 64), ∃ u, exec (.adjWrite v) s = .next u ∧
    u.clock.adj.toInt = max (-549755814) (min 549755814 (v.setWidth 32).toInt) ∧ u.clock.dtc = s.clock.dtc) ∧
  (∀ (s : State) (o : Nat) (v : BitVec 64) (level : BitVec 2), o = 0x10 ∨ o = 0x18 ∨ o = 0x20 → level.toNat < 2 →
    ∃ u, exec (.registerWrite (BitVec.ofNat 52 (0xF000000001000 + o)) v level) s = .next u ∧ u.clock = s.clock)

/-- R248: a step is applied only while strip mode is off and it is not negative; otherwise it is refused and STREF is set. An applied step adds
STEPV·2^72 units and leaves the residue below DTCFR as it is. -/
def Obligations.TimeStep : Prop :=
  ∀ (s : State) (v : BitVec 64), ∃ u, exec (.stepvWrite v) s = .next u ∧
    (s.stripMode = false → 0 ≤ v.toInt → u.clock.dtc.toNat = (s.clock.dtc.toNat + v.toNat * 2 ^ 72) % 2 ^ 136 ∧
      u.clock.dtc.toNat % 2 ^ 40 = s.clock.dtc.toNat % 2 ^ 40 ∧ u.clock.stref = s.clock.stref) ∧
    (s.stripMode = true ∨ v.toInt < 0 → u.clock.dtc = s.clock.dtc ∧ u.clock.stref = true) ∧
    u.clock.adj = s.clock.adj ∧ u.clock.clk = s.clock.clk ∧ u.store = s.store ∧ u.work = s.work ∧ u.engines = s.engines ∧ u.media = s.media

/-- R65: a target from a register pair or the call stack whose low three bits are not zero traps MISALIGN at the word; one with a bit of 63-57 set
traps PROT with reason 5. The thread stays at the word. A return at a depth above 8 checks the target after its refill (R422). -/
def Obligations.TargetChecks : Prop :=
  (∀ i s p t v, Lone i s p t → targetOf t i = some v →
    (v % 8 ≠ 0 → exec i s = .next (trappedWord i p s t.name { trapOf .misalign (v % 2 ^ 32) with vaddr := BitVec.ofNat 64 v })) ∧
    (v % 8 = 0 → 2 ^ 57 ≤ v → exec i s = .next (trappedWord i p s t.name { protOf 5 with vaddr := BitVec.ofNat 64 v }))) ∧
  (∀ (s : State) (t : Thread) (x : CallXfer) (pa tr : Nat), s.thread? t.name = some t → t.st = .blocked .calls → t.callXfer = some x →
    x.store = none → x.fid = none → s.stopped t.name.core = false → s.poisoned pa 8 = false → s.watchpoints = [] →
    s.xlat (.core t.name.core) (s.asidOf t.name) (s.tsaOf t.name + 512 + 8 * x.entry) 1 { write := false, thread := true, bytes := 8 } = .ok pa tr →
    (x.target.toNat % 8 ≠ 0 → exec (.callStackTransfer t.name) s =
      .next ((noTransfer (s.homeRead t.name.core pa 8).2 t.name).wakeTrap t.name
        { trapOf .misalign (x.target.toNat % 2 ^ 32) with vaddr := x.target })) ∧
    (x.target.toNat % 8 = 0 → 2 ^ 57 ≤ x.target.toNat → exec (.callStackTransfer t.name) s =
      .next ((noTransfer (s.homeRead t.name.core pa 8).2 t.name).wakeTrap t.name { protOf 5 with vaddr := x.target })))
end

