-- ==== Sys2Proof/Laws/Issue.lean ====
section
/-! SUPPORT. What a word that executes comes to: one lemma for `runWord`, one for a pack of one thread. -/

namespace Sys2Proof

open Machine

/-- Where no active thread reads a lost register, none traps for it. -/
theorem lost_id {i : Instr} {s : State} {p : Pack}
    (h : ((ctxOf p i).actives s).all (fun n => match s.thread? n with
      | some t => ((ctxOf p i).reads.find? (fun v => t.reg? v == some .bad)).isNone
      | none => true) = true) : (ctxOf p i).lost s = s := by
  unfold Ctx.lost
  generalize (ctxOf p i).actives s = l at h
  induction l with
  | nil => rfl
  | cons n r ih =>
    simp only [List.all_cons, Bool.and_eq_true] at h
    simp only [List.foldl_cons]
    have h1 := h.1
    have hr := ih h.2
    cases hq : s.thread? n with
    | none => exact hr
    | some t =>
      rw [hq] at h1
      simp only [Option.isNone_iff_eq_none] at h1
      simp only [h1]
      exact hr

/-- What a word that executes does, from its body's answer. -/
def wordResult (i : Instr) (p : Pack) (s : State) : Body → State
  | .stall => s.stallPack p
  | .full => s.stallFull p
  | .held l => s.holdPack p l
  | .more s1 => s1
  | .done s1 outs => (s1.wordRegs s (ctxOf p i) outs).retire (ctxOf p i) outs (nextHalves i p.pb).1 (nextHalves i p.pb).2

/-- `runWord` under the conditions of R78. -/
theorem runWord_of_runs {i : Instr} {s : State} {p : Pack} (body : BodyFn) (h : runs i s p = true) :
    runWord i body s = wordResult i p s (body (ctxOf p i) s) := by
  unfold runs at h
  simp only [Bool.and_eq_true, decide_eq_true_eq] at h
  obtain ⟨⟨⟨⟨⟨⟨h1, h2⟩, h3⟩, h4⟩, h5⟩, h6⟩, h7⟩ := h
  have hl := lost_id h6
  simp only [Option.isNone_iff_eq_none] at h3
  unfold runWord
  simp only [h1]
  rw [h3]
  simp only [h4, h5, hl, h1]
  cases body (ctxOf p i) s <;> rfl

theorem Lone.xrem {i : Instr} {s : State} {p : Pack} {t : Thread} (h : Lone i s p t) : p.xrem = none := by
  have := h.go
  unfold runs at this
  simp only [Bool.and_eq_true, Option.isNone_iff_eq_none] at this
  exact this.1.1.1.1.1.2

/-- The active threads of a lone pack. -/
theorem lone_actives {i : Instr} {s : State} {p : Pack} {t : Thread} (h : Lone i s p t) : (ctxOf p i).actives s = [t.name] := by
  have hx := h.xrem
  unfold Ctx.actives
  show List.filter _ p.threads = _
  rw [h.threads]
  have : (ctxOf p i).toIssue t.name = true := by
    show (match p.xrem with | some l => l.contains t.name | none => true) = true
    rw [hx]
  simp [List.filter, this, h.found, h.active]

/-- A word of which no thread's read parks is done. -/
theorem settle_done {s : State} {outs : List Out} (h : ∀ o ∈ outs, o.park = none) : settle s outs = .done s outs := by
  have e : outs.filterMap (fun o => o.park.map (fun p => (o.name, p))) = [] := by
    rw [List.filterMap_eq_nil_iff]
    intro o ho
    rw [h o ho]
    rfl
  unfold settle
  rw [e]

/-- A word run thread by thread, on a lone pack whose thread completes. -/
theorem eachThread_lone {i : Instr} {s s1 : State} {p : Pack} {t : Thread} {need : Ctx → State → Thread → Bool}
    {f : Ctx → State → Thread → TRes} {off : Ctx → State → Thread → State} {fate : Fate} {after : List TrapInfo} (h : Lone i s p t)
    (hn : need (ctxOf p i) s t = true) (hf : f (ctxOf p i) s t = .ok s1 fate after) :
    eachThread need f off (ctxOf p i) s = .done (s1.kill t.name i) [{ name := t.name, fate := fate, after := after }] := by
  have ht : (ctxOf p i).pack.threads = [t.name] := h.threads
  have hl : (ctxOf p i).lacks need s = false := by
    unfold Ctx.lacks
    simp [lone_actives h, h.found, hn]
  unfold eachThread
  simp only [hl, Bool.false_eq_true, if_false, ht, List.foldl_cons, List.foldl_nil, Ctx.part, h.found, h.active, if_true, hf]
  rfl

/-- The next state of a lone pack's word whose thread completes. -/
theorem lone_done {i : Instr} {s s1 : State} {p : Pack} {t : Thread} {need : Ctx → State → Thread → Bool}
    {f : Ctx → State → Thread → TRes} {off : Ctx → State → Thread → State} {fate : Fate} {after : List TrapInfo} (h : Lone i s p t)
    (hn : need (ctxOf p i) s t = true) (hf : f (ctxOf p i) s t = .ok s1 fate after) :
    runWord i (eachThread need f off) s = finish i p t.name s s1 fate after := by
  rw [runWord_of_runs _ h.go, eachThread_lone h hn hf]
  rfl

end Sys2Proof
end

