-- ==== Sys2Proof/Laws/Memory.lean ====
section
/-! SUPPORT. What accesses to memory leave alone: the device registers, and with them the debug unit's view, and what an access is once
its checks have passed. -/

namespace Sys2Proof

open Machine

/-- With no watchpoint set no access is seen (R308). -/
theorem watch_none {s : State} (h : s.watchpoints = []) (ag : Agent) (sc : Option Nat) (a n : Nat) (rd wr : Bool) (only : Nat → Bool) :
    s.watch ag sc a n rd wr only = ([], s) := by
  unfold State.watch
  rw [h]
  rfl

/-- The device registers, which memory accesses never change while no watchpoint is set. -/
theorem watchpoints_of {u s : State} (h : u.store.dregs = s.store.dregs) : u.watchpoints = s.watchpoints := by
  unfold State.watchpoints
  rw [h]

theorem unwatched_of {u s : State} (h : u.store.dregs = s.store.dregs) (k : Nat) : unwatched u k = unwatched s k := by
  unfold unwatched State.logging State.replaying State.dbg State.dreg
  rw [watchpoints_of h, h]

theorem unwatched_points {s : State} {k : Nat} (h : unwatched s k = true) : s.watchpoints = [] := by
  unfold unwatched at h
  simp only [Bool.and_eq_true, List.isEmpty_iff] at h
  exact h.1.1

/-- Nothing is logged or replayed in a cluster the debug unit does not look at. -/
theorem trail_none {s : State} {k : Nat} (h : unwatched s k = true) (w0 w1 : Nat) : s.trail k w0 w1 = s := by
  unfold unwatched at h
  simp only [Bool.and_eq_true, Bool.not_eq_true'] at h
  unfold State.trail
  simp only [h.1.2, h.2, Bool.false_eq_true, if_false]

theorem trailOk_none {s : State} {k : Nat} (h : unwatched s k = true) (w0 : Nat) (b : Bool) (w1 : Option Nat := none) :
    s.trailOk k w0 b w1 = true := by
  unfold unwatched at h
  simp only [Bool.and_eq_true, Bool.not_eq_true'] at h
  unfold State.trailOk
  simp only [h.1.2, h.2, Bool.false_eq_true, if_false]

theorem trailAll_one {s : State} {x : Entry} (h : unwatched s x.1 = true) (b : Bool) : s.trailAll [x] b = true := by
  unfold unwatched at h
  simp only [Bool.and_eq_true, Bool.not_eq_true'] at h
  unfold State.trailAll
  simp only [List.map_cons, List.map_nil]
  rw [show ([x.1] : List Nat).dedup = [x.1] from rfl]
  simp only [List.all_cons, List.all_nil, h.1.2, h.2, Bool.false_eq_true, if_false, Bool.and_true]

theorem trailAll_nil (s : State) (b : Bool) : s.trailAll [] b = true := rfl

theorem logError_dregs (s : State) (lid c a : Nat) : (s.logError lid c a).store.dregs = s.store.dregs := rfl

theorem writeOver_dregs (s : State) (lid base a : Nat) (b : List Byte) (m : Mem) : (s.writeOver lid base a b m).2.store.dregs = s.store.dregs := by
  unfold State.writeOver
  split
  · rfl
  · simp only
    split <;> rfl

theorem memWrite_dregs (s : State) (lid pa : Nat) (b : List Byte) : (s.memWrite lid pa b).store.dregs = s.store.dregs := by
  unfold State.memWrite
  exact writeOver_dregs ..

theorem scratchStore_dregs (s : State) (lid core a : Nat) (b : List Byte) : (s.scratchStore lid core a b).store.dregs = s.store.dregs := by
  unfold State.scratchStore
  exact writeOver_dregs ..

theorem writeResult_dregs (s : State) (o : Outstanding) (x : Nat) : (s.writeResult o x).store.dregs = s.store.dregs := rfl

/-- One half of a line's write-back. -/
theorem foldl_dregs {α : Type} (l : List α) (f : State → α → State) (h : ∀ s x, (f s x).store.dregs = s.store.dregs) (s : State) :
    (l.foldl f s).store.dregs = s.store.dregs := by
  induction l generalizing s with
  | nil => rfl
  | cons x r ih => exact (ih _).trans (h s x)

theorem storeMem_dregs (s : State) (pa n : Nat) (m : Mem) : (s.storeMem pa n m).store.dregs = s.store.dregs := rfl

theorem writeHalf_dregs (s : State) (l : Line) (k : Nat) : (s.writeHalf l k).store.dregs = s.store.dregs := by
  unfold State.writeHalf
  simp only
  repeat' split
  all_goals first
    | rfl
    | exact memWrite_dregs ..

theorem writeBack_dregs {s : State} (h : s.watchpoints = []) (l : Line) : (s.writeBack l).store.dregs = s.store.dregs := by
  unfold State.writeBack
  split
  · rfl
  · have e : ((s.writeHalf l 0).writeHalf l 1).store.dregs = s.store.dregs := (writeHalf_dregs ..).trans (writeHalf_dregs ..)
    generalize (s.writeHalf l 0).writeHalf l 1 = u at e
    generalize List.range 16 = r
    induction r generalizing u with
    | nil => exact e
    | cons k r ih =>
      simp only [List.foldl_cons]
      split
      · exact ih u e
      · rw [watch_none ((watchpoints_of e).trans h)]
        exact ih u e

theorem writeBacks_dregs (go : List Line) {s : State} (h : s.watchpoints = []) :
    (go.foldl (fun s l => s.writeBack l) s).store.dregs = s.store.dregs := by
  induction go generalizing s with
  | nil => rfl
  | cons x r ih =>
    have e := writeBack_dregs h x
    exact (ih ((watchpoints_of e).trans h)).trans e

theorem evict_dregs {s : State} (h : s.watchpoints = []) (core : Nat) (p : Line → Bool) : (s.evict core p).store.dregs = s.store.dregs :=
  writeBacks_dregs _ h

theorem cleanCore_dregs {s : State} (h : s.watchpoints = []) (core : Nat) : (s.cleanCore core).store.dregs = s.store.dregs :=
  writeBacks_dregs _ h

theorem release_dregs {s : State} (h : s.watchpoints = []) (core scope : Nat) : (s.release core scope).store.dregs = s.store.dregs := by
  unfold State.release
  split
  · exact cleanCore_dregs h core
  · rfl

theorem acquire_dregs {s : State} (h : s.watchpoints = []) (core scope : Nat) : (s.acquire core scope).store.dregs = s.store.dregs := by
  unfold State.acquire
  split
  · exact evict_dregs h core _
  · rfl

theorem homeWrite_dregs {s : State} (h : s.watchpoints = []) (core pa : Nat) (b : List Byte) (lid : Nat) :
    (s.homeWrite core pa b lid).store.dregs = s.store.dregs := by
  unfold State.homeWrite
  exact (memWrite_dregs ..).trans (evict_dregs h core _)

theorem homeRead_dregs {s : State} (h : s.watchpoints = []) (core pa n : Nat) : (s.homeRead core pa n).2.store.dregs = s.store.dregs :=
  evict_dregs h core _

theorem performData_dregs {s : State} (h : s.watchpoints = []) (o : Outstanding) (pa leaf : Nat) :
    (s.performData o pa leaf).store.dregs = s.store.dregs := by
  unfold State.performData
  simp only
  split
  · split
    · rfl
    · exact homeWrite_dregs h ..
  · have e := homeRead_dregs h o.thread.core pa o.bytes
    have e2 := (homeWrite_dregs ((watchpoints_of e).trans h) o.thread.core pa
      (leBytes (atomNew o.aop (8 * o.bytes) (leVal (s.homeRead o.thread.core pa o.bytes).1) o.data.toNat) o.bytes) o.lid).trans e
    split <;> exact e2
  · have e := homeRead_dregs h o.thread.core pa o.bytes
    have e2 := (homeWrite_dregs ((watchpoints_of e).trans h) o.thread.core pa
      (leBytes (atomNew o.aop (8 * o.bytes) (leVal (s.homeRead o.thread.core pa o.bytes).1) o.data.toNat) o.bytes) o.lid).trans e
    split <;> exact e2
  · split
    · rfl
    · exact homeRead_dregs h o.thread.core pa o.bytes

/-- The conflict records are no device registers. -/
theorem checkGranule_dregs {s u : State} {n : ThreadName} {region : Word32} {kind : Acc} {sc : Option Nat} {g : Nat}
    (h : s.checkGranule n region kind sc g = .ok u) : u.store.dregs = s.store.dregs := by
  unfold State.checkGranule at h
  simp only at h
  have key : ∀ r, ConRes.ok (s.putCon r) = ConRes.ok u → u.store.dregs = s.store.dregs := by
    intro r e
    cases e
    rfl
  repeat' split at h
  all_goals first
    | exact key _ h
    | exact absurd h (fun e => by cases e)

theorem checkGranules_dregs {n : ThreadName} {region : Word32} {kind : Acc} {sc : Option Nat} (l : List Nat) {s u : State}
    (h : s.checkGranules n region kind sc l = .ok u) : u.store.dregs = s.store.dregs := by
  induction l generalizing s with
  | nil => injection h with h; subst h; rfl
  | cons g r ih =>
    unfold State.checkGranules at h
    split at h
    · exact (ih h).trans (checkGranule_dregs ‹_›)
    · exact ConAll.noConfusion h
    · exact ConAll.noConfusion h

theorem conflictCheck_dregs {s u : State} {o : Outstanding} {sc : Option Nat} {a : Nat} (h : s.conflictCheck o sc a = .ok u) :
    u.store.dregs = s.store.dregs := by
  unfold State.conflictCheck at h
  split at h
  · exact checkGranules_dregs _ h
  · injection h with h; subst h; rfl

end Sys2Proof
end

