-- ==== Sys2Proof/Laws/State.lean ====
section
/-! SUPPORT. One lemma for each update of the state and each field it leaves alone, and what finding a thread gives after an
update. -/

namespace Sys2Proof.Machine

/-! ## setThreads -/

section

variable (s : State) (l : List Thread)

@[simp] theorem State.setThreads_clock : (s.setThreads l).clock = s.clock := rfl
@[simp] theorem State.setThreads_store : (s.setThreads l).store = s.store := rfl
@[simp] theorem State.setThreads_engines : (s.setThreads l).engines = s.engines := rfl
@[simp] theorem State.setThreads_media : (s.setThreads l).media = s.media := rfl
@[simp] theorem State.setThreads_control : (s.setThreads l).control = s.control := rfl
@[simp] theorem State.setThreads_agenda : (s.setThreads l).agenda = s.agenda := rfl
@[simp] theorem State.setThreads_cur : (s.setThreads l).cur = s.cur := rfl
@[simp] theorem State.setThreads_freeCtr : (s.setThreads l).freeCtr = s.freeCtr := rfl
@[simp] theorem State.setThreads_work_launches : (s.setThreads l).work.launches = s.work.launches := rfl
@[simp] theorem State.setThreads_work_nextLid : (s.setThreads l).work.nextLid = s.work.nextLid := rfl
@[simp] theorem State.setThreads_work_groups : (s.setThreads l).work.groups = s.work.groups := rfl
@[simp] theorem State.setThreads_work_packs : (s.setThreads l).work.packs = s.work.packs := rfl
@[simp] theorem State.setThreads_work_resumes : (s.setThreads l).work.resumes = s.work.resumes := rfl
@[simp] theorem State.setThreads_work_tasks : (s.setThreads l).work.tasks = s.work.tasks := rfl
@[simp] theorem State.setThreads_work_trapQueue : (s.setThreads l).work.trapQueue = s.work.trapQueue := rfl
@[simp] theorem State.setThreads_work_waitOrder : (s.setThreads l).work.waitOrder = s.work.waitOrder := rfl
@[simp] theorem State.setThreads_work_spilling : (s.setThreads l).work.spilling = s.work.spilling := rfl
@[simp] theorem State.setThreads_work_decided : (s.setThreads l).work.decided = s.work.decided := rfl

end

/-! ## modThread -/

section

variable (s : State) (n : ThreadName) (f : Thread → Thread)

@[simp] theorem State.modThread_clock : (s.modThread n f).clock = s.clock := rfl
@[simp] theorem State.modThread_store : (s.modThread n f).store = s.store := rfl
@[simp] theorem State.modThread_engines : (s.modThread n f).engines = s.engines := rfl
@[simp] theorem State.modThread_media : (s.modThread n f).media = s.media := rfl
@[simp] theorem State.modThread_control : (s.modThread n f).control = s.control := rfl
@[simp] theorem State.modThread_agenda : (s.modThread n f).agenda = s.agenda := rfl
@[simp] theorem State.modThread_cur : (s.modThread n f).cur = s.cur := rfl
@[simp] theorem State.modThread_freeCtr : (s.modThread n f).freeCtr = s.freeCtr := rfl
@[simp] theorem State.modThread_work_launches : (s.modThread n f).work.launches = s.work.launches := rfl
@[simp] theorem State.modThread_work_nextLid : (s.modThread n f).work.nextLid = s.work.nextLid := rfl
@[simp] theorem State.modThread_work_groups : (s.modThread n f).work.groups = s.work.groups := rfl
@[simp] theorem State.modThread_work_packs : (s.modThread n f).work.packs = s.work.packs := rfl
@[simp] theorem State.modThread_work_resumes : (s.modThread n f).work.resumes = s.work.resumes := rfl
@[simp] theorem State.modThread_work_tasks : (s.modThread n f).work.tasks = s.work.tasks := rfl
@[simp] theorem State.modThread_work_trapQueue : (s.modThread n f).work.trapQueue = s.work.trapQueue := rfl
@[simp] theorem State.modThread_work_waitOrder : (s.modThread n f).work.waitOrder = s.work.waitOrder := rfl
@[simp] theorem State.modThread_work_spilling : (s.modThread n f).work.spilling = s.work.spilling := rfl
@[simp] theorem State.modThread_work_decided : (s.modThread n f).work.decided = s.work.decided := rfl

end

/-! ## modThreads -/

section

variable (s : State) (p : Thread → Bool) (f : Thread → Thread)

@[simp] theorem State.modThreads_clock : (s.modThreads p f).clock = s.clock := rfl
@[simp] theorem State.modThreads_store : (s.modThreads p f).store = s.store := rfl
@[simp] theorem State.modThreads_engines : (s.modThreads p f).engines = s.engines := rfl
@[simp] theorem State.modThreads_media : (s.modThreads p f).media = s.media := rfl
@[simp] theorem State.modThreads_control : (s.modThreads p f).control = s.control := rfl
@[simp] theorem State.modThreads_agenda : (s.modThreads p f).agenda = s.agenda := rfl
@[simp] theorem State.modThreads_cur : (s.modThreads p f).cur = s.cur := rfl
@[simp] theorem State.modThreads_freeCtr : (s.modThreads p f).freeCtr = s.freeCtr := rfl
@[simp] theorem State.modThreads_work_launches : (s.modThreads p f).work.launches = s.work.launches := rfl
@[simp] theorem State.modThreads_work_nextLid : (s.modThreads p f).work.nextLid = s.work.nextLid := rfl
@[simp] theorem State.modThreads_work_groups : (s.modThreads p f).work.groups = s.work.groups := rfl
@[simp] theorem State.modThreads_work_packs : (s.modThreads p f).work.packs = s.work.packs := rfl
@[simp] theorem State.modThreads_work_resumes : (s.modThreads p f).work.resumes = s.work.resumes := rfl
@[simp] theorem State.modThreads_work_tasks : (s.modThreads p f).work.tasks = s.work.tasks := rfl
@[simp] theorem State.modThreads_work_trapQueue : (s.modThreads p f).work.trapQueue = s.work.trapQueue := rfl
@[simp] theorem State.modThreads_work_waitOrder : (s.modThreads p f).work.waitOrder = s.work.waitOrder := rfl
@[simp] theorem State.modThreads_work_spilling : (s.modThreads p f).work.spilling = s.work.spilling := rfl
@[simp] theorem State.modThreads_work_decided : (s.modThreads p f).work.decided = s.work.decided := rfl

end

/-! ## modGroup -/

section

variable (s : State) (core slot : Nat) (f : Workgroup → Workgroup)

@[simp] theorem State.modGroup_clock : (s.modGroup core slot f).clock = s.clock := rfl
@[simp] theorem State.modGroup_store : (s.modGroup core slot f).store = s.store := rfl
@[simp] theorem State.modGroup_engines : (s.modGroup core slot f).engines = s.engines := rfl
@[simp] theorem State.modGroup_media : (s.modGroup core slot f).media = s.media := rfl
@[simp] theorem State.modGroup_control : (s.modGroup core slot f).control = s.control := rfl
@[simp] theorem State.modGroup_agenda : (s.modGroup core slot f).agenda = s.agenda := rfl
@[simp] theorem State.modGroup_cur : (s.modGroup core slot f).cur = s.cur := rfl
@[simp] theorem State.modGroup_freeCtr : (s.modGroup core slot f).freeCtr = s.freeCtr := rfl
@[simp] theorem State.modGroup_work_launches : (s.modGroup core slot f).work.launches = s.work.launches := rfl
@[simp] theorem State.modGroup_work_nextLid : (s.modGroup core slot f).work.nextLid = s.work.nextLid := rfl
@[simp] theorem State.modGroup_work_threads : (s.modGroup core slot f).work.threads = s.work.threads := rfl
@[simp] theorem State.modGroup_work_packs : (s.modGroup core slot f).work.packs = s.work.packs := rfl
@[simp] theorem State.modGroup_work_resumes : (s.modGroup core slot f).work.resumes = s.work.resumes := rfl
@[simp] theorem State.modGroup_work_tasks : (s.modGroup core slot f).work.tasks = s.work.tasks := rfl
@[simp] theorem State.modGroup_work_trapQueue : (s.modGroup core slot f).work.trapQueue = s.work.trapQueue := rfl
@[simp] theorem State.modGroup_work_waitOrder : (s.modGroup core slot f).work.waitOrder = s.work.waitOrder := rfl
@[simp] theorem State.modGroup_work_spilling : (s.modGroup core slot f).work.spilling = s.work.spilling := rfl
@[simp] theorem State.modGroup_work_decided : (s.modGroup core slot f).work.decided = s.work.decided := rfl

end

/-! ## modLaunch -/

section

variable (s : State) (lid : Nat) (f : Launch → Launch)

@[simp] theorem State.modLaunch_clock : (s.modLaunch lid f).clock = s.clock := rfl
@[simp] theorem State.modLaunch_store : (s.modLaunch lid f).store = s.store := rfl
@[simp] theorem State.modLaunch_engines : (s.modLaunch lid f).engines = s.engines := rfl
@[simp] theorem State.modLaunch_media : (s.modLaunch lid f).media = s.media := rfl
@[simp] theorem State.modLaunch_control : (s.modLaunch lid f).control = s.control := rfl
@[simp] theorem State.modLaunch_agenda : (s.modLaunch lid f).agenda = s.agenda := rfl
@[simp] theorem State.modLaunch_cur : (s.modLaunch lid f).cur = s.cur := rfl
@[simp] theorem State.modLaunch_freeCtr : (s.modLaunch lid f).freeCtr = s.freeCtr := rfl
@[simp] theorem State.modLaunch_work_nextLid : (s.modLaunch lid f).work.nextLid = s.work.nextLid := rfl
@[simp] theorem State.modLaunch_work_groups : (s.modLaunch lid f).work.groups = s.work.groups := rfl
@[simp] theorem State.modLaunch_work_threads : (s.modLaunch lid f).work.threads = s.work.threads := rfl
@[simp] theorem State.modLaunch_work_packs : (s.modLaunch lid f).work.packs = s.work.packs := rfl
@[simp] theorem State.modLaunch_work_resumes : (s.modLaunch lid f).work.resumes = s.work.resumes := rfl
@[simp] theorem State.modLaunch_work_tasks : (s.modLaunch lid f).work.tasks = s.work.tasks := rfl
@[simp] theorem State.modLaunch_work_trapQueue : (s.modLaunch lid f).work.trapQueue = s.work.trapQueue := rfl
@[simp] theorem State.modLaunch_work_waitOrder : (s.modLaunch lid f).work.waitOrder = s.work.waitOrder := rfl
@[simp] theorem State.modLaunch_work_spilling : (s.modLaunch lid f).work.spilling = s.work.spilling := rfl
@[simp] theorem State.modLaunch_work_decided : (s.modLaunch lid f).work.decided = s.work.decided := rfl

end

/-! ## modPack -/

section

variable (s : State) (core pipe : Nat) (f : Pack → Pack)

@[simp] theorem State.modPack_clock : (s.modPack core pipe f).clock = s.clock := rfl
@[simp] theorem State.modPack_store : (s.modPack core pipe f).store = s.store := rfl
@[simp] theorem State.modPack_engines : (s.modPack core pipe f).engines = s.engines := rfl
@[simp] theorem State.modPack_media : (s.modPack core pipe f).media = s.media := rfl
@[simp] theorem State.modPack_control : (s.modPack core pipe f).control = s.control := rfl
@[simp] theorem State.modPack_agenda : (s.modPack core pipe f).agenda = s.agenda := rfl
@[simp] theorem State.modPack_cur : (s.modPack core pipe f).cur = s.cur := rfl
@[simp] theorem State.modPack_freeCtr : (s.modPack core pipe f).freeCtr = s.freeCtr := rfl
@[simp] theorem State.modPack_work_launches : (s.modPack core pipe f).work.launches = s.work.launches := rfl
@[simp] theorem State.modPack_work_nextLid : (s.modPack core pipe f).work.nextLid = s.work.nextLid := rfl
@[simp] theorem State.modPack_work_groups : (s.modPack core pipe f).work.groups = s.work.groups := rfl
@[simp] theorem State.modPack_work_threads : (s.modPack core pipe f).work.threads = s.work.threads := rfl
@[simp] theorem State.modPack_work_resumes : (s.modPack core pipe f).work.resumes = s.work.resumes := rfl
@[simp] theorem State.modPack_work_tasks : (s.modPack core pipe f).work.tasks = s.work.tasks := rfl
@[simp] theorem State.modPack_work_trapQueue : (s.modPack core pipe f).work.trapQueue = s.work.trapQueue := rfl
@[simp] theorem State.modPack_work_waitOrder : (s.modPack core pipe f).work.waitOrder = s.work.waitOrder := rfl
@[simp] theorem State.modPack_work_spilling : (s.modPack core pipe f).work.spilling = s.work.spilling := rfl
@[simp] theorem State.modPack_work_decided : (s.modPack core pipe f).work.decided = s.work.decided := rfl

end

/-! ## dropPack -/

section

variable (s : State) (core pipe : Nat)

@[simp] theorem State.dropPack_clock : (s.dropPack core pipe).clock = s.clock := rfl
@[simp] theorem State.dropPack_store : (s.dropPack core pipe).store = s.store := rfl
@[simp] theorem State.dropPack_engines : (s.dropPack core pipe).engines = s.engines := rfl
@[simp] theorem State.dropPack_media : (s.dropPack core pipe).media = s.media := rfl
@[simp] theorem State.dropPack_control : (s.dropPack core pipe).control = s.control := rfl
@[simp] theorem State.dropPack_agenda : (s.dropPack core pipe).agenda = s.agenda := rfl
@[simp] theorem State.dropPack_cur : (s.dropPack core pipe).cur = s.cur := rfl
@[simp] theorem State.dropPack_freeCtr : (s.dropPack core pipe).freeCtr = s.freeCtr := rfl
@[simp] theorem State.dropPack_work_launches : (s.dropPack core pipe).work.launches = s.work.launches := rfl
@[simp] theorem State.dropPack_work_nextLid : (s.dropPack core pipe).work.nextLid = s.work.nextLid := rfl
@[simp] theorem State.dropPack_work_groups : (s.dropPack core pipe).work.groups = s.work.groups := rfl
@[simp] theorem State.dropPack_work_threads : (s.dropPack core pipe).work.threads = s.work.threads := rfl
@[simp] theorem State.dropPack_work_resumes : (s.dropPack core pipe).work.resumes = s.work.resumes := rfl
@[simp] theorem State.dropPack_work_tasks : (s.dropPack core pipe).work.tasks = s.work.tasks := rfl
@[simp] theorem State.dropPack_work_trapQueue : (s.dropPack core pipe).work.trapQueue = s.work.trapQueue := rfl
@[simp] theorem State.dropPack_work_waitOrder : (s.dropPack core pipe).work.waitOrder = s.work.waitOrder := rfl
@[simp] theorem State.dropPack_work_spilling : (s.dropPack core pipe).work.spilling = s.work.spilling := rfl
@[simp] theorem State.dropPack_work_decided : (s.dropPack core pipe).work.decided = s.work.decided := rfl

end

/-! ## leavePack -/

section

variable (s : State) (n : ThreadName)

@[simp] theorem State.leavePack_clock : (s.leavePack n).clock = s.clock := rfl
@[simp] theorem State.leavePack_store : (s.leavePack n).store = s.store := rfl
@[simp] theorem State.leavePack_engines : (s.leavePack n).engines = s.engines := rfl
@[simp] theorem State.leavePack_media : (s.leavePack n).media = s.media := rfl
@[simp] theorem State.leavePack_control : (s.leavePack n).control = s.control := rfl
@[simp] theorem State.leavePack_agenda : (s.leavePack n).agenda = s.agenda := rfl
@[simp] theorem State.leavePack_cur : (s.leavePack n).cur = s.cur := rfl
@[simp] theorem State.leavePack_freeCtr : (s.leavePack n).freeCtr = s.freeCtr := rfl
@[simp] theorem State.leavePack_work_launches : (s.leavePack n).work.launches = s.work.launches := rfl
@[simp] theorem State.leavePack_work_nextLid : (s.leavePack n).work.nextLid = s.work.nextLid := rfl
@[simp] theorem State.leavePack_work_groups : (s.leavePack n).work.groups = s.work.groups := rfl
@[simp] theorem State.leavePack_work_threads : (s.leavePack n).work.threads = s.work.threads := rfl
@[simp] theorem State.leavePack_work_tasks : (s.leavePack n).work.tasks = s.work.tasks := rfl
@[simp] theorem State.leavePack_work_trapQueue : (s.leavePack n).work.trapQueue = s.work.trapQueue := rfl
@[simp] theorem State.leavePack_work_waitOrder : (s.leavePack n).work.waitOrder = s.work.waitOrder := rfl
@[simp] theorem State.leavePack_work_spilling : (s.leavePack n).work.spilling = s.work.spilling := rfl
@[simp] theorem State.leavePack_work_decided : (s.leavePack n).work.decided = s.work.decided := rfl

end

/-! ## setDreg -/

section

variable (s : State) (pa v : Nat)

@[simp] theorem State.setDreg_clock : (s.setDreg pa v).clock = s.clock := rfl
@[simp] theorem State.setDreg_work : (s.setDreg pa v).work = s.work := rfl
@[simp] theorem State.setDreg_engines : (s.setDreg pa v).engines = s.engines := rfl
@[simp] theorem State.setDreg_media : (s.setDreg pa v).media = s.media := rfl
@[simp] theorem State.setDreg_control : (s.setDreg pa v).control = s.control := rfl
@[simp] theorem State.setDreg_agenda : (s.setDreg pa v).agenda = s.agenda := rfl
@[simp] theorem State.setDreg_cur : (s.setDreg pa v).cur = s.cur := rfl
@[simp] theorem State.setDreg_freeCtr : (s.setDreg pa v).freeCtr = s.freeCtr := rfl
@[simp] theorem State.setDreg_store_mem : (s.setDreg pa v).store.mem = s.store.mem := rfl
@[simp] theorem State.setDreg_store_scratch : (s.setDreg pa v).store.scratch = s.store.scratch := rfl
@[simp] theorem State.setDreg_store_acc : (s.setDreg pa v).store.acc = s.store.acc := rfl
@[simp] theorem State.setDreg_store_awning : (s.setDreg pa v).store.awning = s.store.awning := rfl
@[simp] theorem State.setDreg_store_l1 : (s.setDreg pa v).store.l1 = s.store.l1 := rfl
@[simp] theorem State.setDreg_store_stale : (s.setDreg pa v).store.stale = s.store.stale := rfl
@[simp] theorem State.setDreg_store_tlb : (s.setDreg pa v).store.tlb = s.store.tlb := rfl
@[simp] theorem State.setDreg_store_walks : (s.setDreg pa v).store.walks = s.store.walks := rfl
@[simp] theorem State.setDreg_store_poison : (s.setDreg pa v).store.poison = s.store.poison := rfl
@[simp] theorem State.setDreg_store_conflicts : (s.setDreg pa v).store.conflicts = s.store.conflicts := rfl
@[simp] theorem State.setDreg_store_outst : (s.setDreg pa v).store.outst = s.store.outst := rfl
@[simp] theorem State.setDreg_store_faults : (s.setDreg pa v).store.faults = s.store.faults := rfl
@[simp] theorem State.setDreg_store_errs : (s.setDreg pa v).store.errs = s.store.errs := rfl
@[simp] theorem State.setDreg_store_nextFid : (s.setDreg pa v).store.nextFid = s.store.nextFid := rfl
@[simp] theorem State.setDreg_store_carveouts : (s.setDreg pa v).store.carveouts = s.store.carveouts := rfl

end

/-! ## setMem -/

section

variable (s : State) (m : Mem)

@[simp] theorem State.setMem_clock : (s.setMem m).clock = s.clock := rfl
@[simp] theorem State.setMem_work : (s.setMem m).work = s.work := rfl
@[simp] theorem State.setMem_engines : (s.setMem m).engines = s.engines := rfl
@[simp] theorem State.setMem_media : (s.setMem m).media = s.media := rfl
@[simp] theorem State.setMem_control : (s.setMem m).control = s.control := rfl
@[simp] theorem State.setMem_agenda : (s.setMem m).agenda = s.agenda := rfl
@[simp] theorem State.setMem_cur : (s.setMem m).cur = s.cur := rfl
@[simp] theorem State.setMem_freeCtr : (s.setMem m).freeCtr = s.freeCtr := rfl
@[simp] theorem State.setMem_store_scratch : (s.setMem m).store.scratch = s.store.scratch := rfl
@[simp] theorem State.setMem_store_acc : (s.setMem m).store.acc = s.store.acc := rfl
@[simp] theorem State.setMem_store_awning : (s.setMem m).store.awning = s.store.awning := rfl
@[simp] theorem State.setMem_store_dregs : (s.setMem m).store.dregs = s.store.dregs := rfl
@[simp] theorem State.setMem_store_l1 : (s.setMem m).store.l1 = s.store.l1 := rfl
@[simp] theorem State.setMem_store_stale : (s.setMem m).store.stale = s.store.stale := rfl
@[simp] theorem State.setMem_store_tlb : (s.setMem m).store.tlb = s.store.tlb := rfl
@[simp] theorem State.setMem_store_walks : (s.setMem m).store.walks = s.store.walks := rfl
@[simp] theorem State.setMem_store_poison : (s.setMem m).store.poison = s.store.poison := rfl
@[simp] theorem State.setMem_store_conflicts : (s.setMem m).store.conflicts = s.store.conflicts := rfl
@[simp] theorem State.setMem_store_outst : (s.setMem m).store.outst = s.store.outst := rfl
@[simp] theorem State.setMem_store_faults : (s.setMem m).store.faults = s.store.faults := rfl
@[simp] theorem State.setMem_store_errs : (s.setMem m).store.errs = s.store.errs := rfl
@[simp] theorem State.setMem_store_nextFid : (s.setMem m).store.nextFid = s.store.nextFid := rfl
@[simp] theorem State.setMem_store_carveouts : (s.setMem m).store.carveouts = s.store.carveouts := rfl

end

/-! ## storeMem -/

section

variable (s : State) (pa n : Nat) (m : Mem)

@[simp] theorem State.storeMem_clock : (s.storeMem pa n m).clock = s.clock := rfl
@[simp] theorem State.storeMem_work : (s.storeMem pa n m).work = s.work := rfl
@[simp] theorem State.storeMem_engines : (s.storeMem pa n m).engines = s.engines := rfl
@[simp] theorem State.storeMem_media : (s.storeMem pa n m).media = s.media := rfl
@[simp] theorem State.storeMem_control : (s.storeMem pa n m).control = s.control := rfl
@[simp] theorem State.storeMem_agenda : (s.storeMem pa n m).agenda = s.agenda := rfl
@[simp] theorem State.storeMem_cur : (s.storeMem pa n m).cur = s.cur := rfl
@[simp] theorem State.storeMem_freeCtr : (s.storeMem pa n m).freeCtr = s.freeCtr := rfl
@[simp] theorem State.storeMem_store_scratch : (s.storeMem pa n m).store.scratch = s.store.scratch := rfl
@[simp] theorem State.storeMem_store_acc : (s.storeMem pa n m).store.acc = s.store.acc := rfl
@[simp] theorem State.storeMem_store_awning : (s.storeMem pa n m).store.awning = s.store.awning := rfl
@[simp] theorem State.storeMem_store_dregs : (s.storeMem pa n m).store.dregs = s.store.dregs := rfl
@[simp] theorem State.storeMem_store_l1 : (s.storeMem pa n m).store.l1 = s.store.l1 := rfl
@[simp] theorem State.storeMem_store_tlb : (s.storeMem pa n m).store.tlb = s.store.tlb := rfl
@[simp] theorem State.storeMem_store_walks : (s.storeMem pa n m).store.walks = s.store.walks := rfl
@[simp] theorem State.storeMem_store_poison : (s.storeMem pa n m).store.poison = s.store.poison := rfl
@[simp] theorem State.storeMem_store_conflicts : (s.storeMem pa n m).store.conflicts = s.store.conflicts := rfl
@[simp] theorem State.storeMem_store_outst : (s.storeMem pa n m).store.outst = s.store.outst := rfl
@[simp] theorem State.storeMem_store_faults : (s.storeMem pa n m).store.faults = s.store.faults := rfl
@[simp] theorem State.storeMem_store_errs : (s.storeMem pa n m).store.errs = s.store.errs := rfl
@[simp] theorem State.storeMem_store_nextFid : (s.storeMem pa n m).store.nextFid = s.store.nextFid := rfl
@[simp] theorem State.storeMem_store_carveouts : (s.storeMem pa n m).store.carveouts = s.store.carveouts := rfl

end

/-! ## setScratch -/

section

variable (s : State) (m : Mem)

@[simp] theorem State.setScratch_clock : (s.setScratch m).clock = s.clock := rfl
@[simp] theorem State.setScratch_work : (s.setScratch m).work = s.work := rfl
@[simp] theorem State.setScratch_engines : (s.setScratch m).engines = s.engines := rfl
@[simp] theorem State.setScratch_media : (s.setScratch m).media = s.media := rfl
@[simp] theorem State.setScratch_control : (s.setScratch m).control = s.control := rfl
@[simp] theorem State.setScratch_agenda : (s.setScratch m).agenda = s.agenda := rfl
@[simp] theorem State.setScratch_cur : (s.setScratch m).cur = s.cur := rfl
@[simp] theorem State.setScratch_freeCtr : (s.setScratch m).freeCtr = s.freeCtr := rfl
@[simp] theorem State.setScratch_store_mem : (s.setScratch m).store.mem = s.store.mem := rfl
@[simp] theorem State.setScratch_store_acc : (s.setScratch m).store.acc = s.store.acc := rfl
@[simp] theorem State.setScratch_store_awning : (s.setScratch m).store.awning = s.store.awning := rfl
@[simp] theorem State.setScratch_store_dregs : (s.setScratch m).store.dregs = s.store.dregs := rfl
@[simp] theorem State.setScratch_store_l1 : (s.setScratch m).store.l1 = s.store.l1 := rfl
@[simp] theorem State.setScratch_store_stale : (s.setScratch m).store.stale = s.store.stale := rfl
@[simp] theorem State.setScratch_store_tlb : (s.setScratch m).store.tlb = s.store.tlb := rfl
@[simp] theorem State.setScratch_store_walks : (s.setScratch m).store.walks = s.store.walks := rfl
@[simp] theorem State.setScratch_store_poison : (s.setScratch m).store.poison = s.store.poison := rfl
@[simp] theorem State.setScratch_store_conflicts : (s.setScratch m).store.conflicts = s.store.conflicts := rfl
@[simp] theorem State.setScratch_store_outst : (s.setScratch m).store.outst = s.store.outst := rfl
@[simp] theorem State.setScratch_store_faults : (s.setScratch m).store.faults = s.store.faults := rfl
@[simp] theorem State.setScratch_store_errs : (s.setScratch m).store.errs = s.store.errs := rfl
@[simp] theorem State.setScratch_store_nextFid : (s.setScratch m).store.nextFid = s.store.nextFid := rfl
@[simp] theorem State.setScratch_store_carveouts : (s.setScratch m).store.carveouts = s.store.carveouts := rfl

end

/-! ## scratchWrite -/

section

variable (s : State) (core a : Nat) (l : List Byte)

@[simp] theorem State.scratchWrite_clock : (s.scratchWrite core a l).clock = s.clock := rfl
@[simp] theorem State.scratchWrite_work : (s.scratchWrite core a l).work = s.work := rfl
@[simp] theorem State.scratchWrite_engines : (s.scratchWrite core a l).engines = s.engines := rfl
@[simp] theorem State.scratchWrite_media : (s.scratchWrite core a l).media = s.media := rfl
@[simp] theorem State.scratchWrite_control : (s.scratchWrite core a l).control = s.control := rfl
@[simp] theorem State.scratchWrite_agenda : (s.scratchWrite core a l).agenda = s.agenda := rfl
@[simp] theorem State.scratchWrite_cur : (s.scratchWrite core a l).cur = s.cur := rfl
@[simp] theorem State.scratchWrite_freeCtr : (s.scratchWrite core a l).freeCtr = s.freeCtr := rfl
@[simp] theorem State.scratchWrite_store_mem : (s.scratchWrite core a l).store.mem = s.store.mem := rfl
@[simp] theorem State.scratchWrite_store_acc : (s.scratchWrite core a l).store.acc = s.store.acc := rfl
@[simp] theorem State.scratchWrite_store_awning : (s.scratchWrite core a l).store.awning = s.store.awning := rfl
@[simp] theorem State.scratchWrite_store_dregs : (s.scratchWrite core a l).store.dregs = s.store.dregs := rfl
@[simp] theorem State.scratchWrite_store_l1 : (s.scratchWrite core a l).store.l1 = s.store.l1 := rfl
@[simp] theorem State.scratchWrite_store_stale : (s.scratchWrite core a l).store.stale = s.store.stale := rfl
@[simp] theorem State.scratchWrite_store_tlb : (s.scratchWrite core a l).store.tlb = s.store.tlb := rfl
@[simp] theorem State.scratchWrite_store_walks : (s.scratchWrite core a l).store.walks = s.store.walks := rfl
@[simp] theorem State.scratchWrite_store_poison : (s.scratchWrite core a l).store.poison = s.store.poison := rfl
@[simp] theorem State.scratchWrite_store_conflicts : (s.scratchWrite core a l).store.conflicts = s.store.conflicts := rfl
@[simp] theorem State.scratchWrite_store_outst : (s.scratchWrite core a l).store.outst = s.store.outst := rfl
@[simp] theorem State.scratchWrite_store_faults : (s.scratchWrite core a l).store.faults = s.store.faults := rfl
@[simp] theorem State.scratchWrite_store_errs : (s.scratchWrite core a l).store.errs = s.store.errs := rfl
@[simp] theorem State.scratchWrite_store_nextFid : (s.scratchWrite core a l).store.nextFid = s.store.nextFid := rfl
@[simp] theorem State.scratchWrite_store_carveouts : (s.scratchWrite core a l).store.carveouts = s.store.carveouts := rfl

end

/-! ## accPut -/

section

variable (s : State) (cluster row col : Nat) (v : Word32)

@[simp] theorem State.accPut_clock : (s.accPut cluster row col v).clock = s.clock := rfl
@[simp] theorem State.accPut_work : (s.accPut cluster row col v).work = s.work := rfl
@[simp] theorem State.accPut_engines : (s.accPut cluster row col v).engines = s.engines := rfl
@[simp] theorem State.accPut_media : (s.accPut cluster row col v).media = s.media := rfl
@[simp] theorem State.accPut_control : (s.accPut cluster row col v).control = s.control := rfl
@[simp] theorem State.accPut_agenda : (s.accPut cluster row col v).agenda = s.agenda := rfl
@[simp] theorem State.accPut_cur : (s.accPut cluster row col v).cur = s.cur := rfl
@[simp] theorem State.accPut_freeCtr : (s.accPut cluster row col v).freeCtr = s.freeCtr := rfl
@[simp] theorem State.accPut_store_mem : (s.accPut cluster row col v).store.mem = s.store.mem := rfl
@[simp] theorem State.accPut_store_scratch : (s.accPut cluster row col v).store.scratch = s.store.scratch := rfl
@[simp] theorem State.accPut_store_awning : (s.accPut cluster row col v).store.awning = s.store.awning := rfl
@[simp] theorem State.accPut_store_dregs : (s.accPut cluster row col v).store.dregs = s.store.dregs := rfl
@[simp] theorem State.accPut_store_l1 : (s.accPut cluster row col v).store.l1 = s.store.l1 := rfl
@[simp] theorem State.accPut_store_stale : (s.accPut cluster row col v).store.stale = s.store.stale := rfl
@[simp] theorem State.accPut_store_tlb : (s.accPut cluster row col v).store.tlb = s.store.tlb := rfl
@[simp] theorem State.accPut_store_walks : (s.accPut cluster row col v).store.walks = s.store.walks := rfl
@[simp] theorem State.accPut_store_poison : (s.accPut cluster row col v).store.poison = s.store.poison := rfl
@[simp] theorem State.accPut_store_conflicts : (s.accPut cluster row col v).store.conflicts = s.store.conflicts := rfl
@[simp] theorem State.accPut_store_outst : (s.accPut cluster row col v).store.outst = s.store.outst := rfl
@[simp] theorem State.accPut_store_faults : (s.accPut cluster row col v).store.faults = s.store.faults := rfl
@[simp] theorem State.accPut_store_errs : (s.accPut cluster row col v).store.errs = s.store.errs := rfl
@[simp] theorem State.accPut_store_nextFid : (s.accPut cluster row col v).store.nextFid = s.store.nextFid := rfl
@[simp] theorem State.accPut_store_carveouts : (s.accPut cluster row col v).store.carveouts = s.store.carveouts := rfl

end

/-! ## putOut -/

section

variable (s : State) (o : Outstanding)

@[simp] theorem State.putOut_clock : (s.putOut o).clock = s.clock := rfl
@[simp] theorem State.putOut_engines : (s.putOut o).engines = s.engines := rfl
@[simp] theorem State.putOut_media : (s.putOut o).media = s.media := rfl
@[simp] theorem State.putOut_control : (s.putOut o).control = s.control := rfl
@[simp] theorem State.putOut_agenda : (s.putOut o).agenda = s.agenda := rfl
@[simp] theorem State.putOut_cur : (s.putOut o).cur = s.cur := rfl
@[simp] theorem State.putOut_freeCtr : (s.putOut o).freeCtr = s.freeCtr := rfl
@[simp] theorem State.putOut_work_launches : (s.putOut o).work.launches = s.work.launches := rfl
@[simp] theorem State.putOut_work_nextLid : (s.putOut o).work.nextLid = s.work.nextLid := rfl
@[simp] theorem State.putOut_work_groups : (s.putOut o).work.groups = s.work.groups := rfl
@[simp] theorem State.putOut_work_threads : (s.putOut o).work.threads = s.work.threads := rfl
@[simp] theorem State.putOut_work_packs : (s.putOut o).work.packs = s.work.packs := rfl
@[simp] theorem State.putOut_work_resumes : (s.putOut o).work.resumes = s.work.resumes := rfl
@[simp] theorem State.putOut_work_tasks : (s.putOut o).work.tasks = s.work.tasks := rfl
@[simp] theorem State.putOut_work_trapQueue : (s.putOut o).work.trapQueue = s.work.trapQueue := rfl
@[simp] theorem State.putOut_work_spilling : (s.putOut o).work.spilling = s.work.spilling := rfl
@[simp] theorem State.putOut_work_decided : (s.putOut o).work.decided = s.work.decided := rfl
@[simp] theorem State.putOut_store_mem : (s.putOut o).store.mem = s.store.mem := rfl
@[simp] theorem State.putOut_store_scratch : (s.putOut o).store.scratch = s.store.scratch := rfl
@[simp] theorem State.putOut_store_acc : (s.putOut o).store.acc = s.store.acc := rfl
@[simp] theorem State.putOut_store_awning : (s.putOut o).store.awning = s.store.awning := rfl
@[simp] theorem State.putOut_store_dregs : (s.putOut o).store.dregs = s.store.dregs := rfl
@[simp] theorem State.putOut_store_l1 : (s.putOut o).store.l1 = s.store.l1 := rfl
@[simp] theorem State.putOut_store_stale : (s.putOut o).store.stale = s.store.stale := rfl
@[simp] theorem State.putOut_store_tlb : (s.putOut o).store.tlb = s.store.tlb := rfl
@[simp] theorem State.putOut_store_walks : (s.putOut o).store.walks = s.store.walks := rfl
@[simp] theorem State.putOut_store_poison : (s.putOut o).store.poison = s.store.poison := rfl
@[simp] theorem State.putOut_store_conflicts : (s.putOut o).store.conflicts = s.store.conflicts := rfl
@[simp] theorem State.putOut_store_faults : (s.putOut o).store.faults = s.store.faults := rfl
@[simp] theorem State.putOut_store_errs : (s.putOut o).store.errs = s.store.errs := rfl
@[simp] theorem State.putOut_store_nextFid : (s.putOut o).store.nextFid = s.store.nextFid := rfl
@[simp] theorem State.putOut_store_carveouts : (s.putOut o).store.carveouts = s.store.carveouts := rfl

end

/-! ## closeRegion -/

section

variable (s : State) (n : ThreadName)

@[simp] theorem State.closeRegion_clock : (s.closeRegion n).clock = s.clock := rfl
@[simp] theorem State.closeRegion_store : (s.closeRegion n).store = s.store := rfl
@[simp] theorem State.closeRegion_engines : (s.closeRegion n).engines = s.engines := rfl
@[simp] theorem State.closeRegion_media : (s.closeRegion n).media = s.media := rfl
@[simp] theorem State.closeRegion_control : (s.closeRegion n).control = s.control := rfl
@[simp] theorem State.closeRegion_agenda : (s.closeRegion n).agenda = s.agenda := rfl
@[simp] theorem State.closeRegion_cur : (s.closeRegion n).cur = s.cur := rfl
@[simp] theorem State.closeRegion_freeCtr : (s.closeRegion n).freeCtr = s.freeCtr := rfl
@[simp] theorem State.closeRegion_work_launches : (s.closeRegion n).work.launches = s.work.launches := rfl
@[simp] theorem State.closeRegion_work_nextLid : (s.closeRegion n).work.nextLid = s.work.nextLid := rfl
@[simp] theorem State.closeRegion_work_groups : (s.closeRegion n).work.groups = s.work.groups := rfl
@[simp] theorem State.closeRegion_work_packs : (s.closeRegion n).work.packs = s.work.packs := rfl
@[simp] theorem State.closeRegion_work_resumes : (s.closeRegion n).work.resumes = s.work.resumes := rfl
@[simp] theorem State.closeRegion_work_tasks : (s.closeRegion n).work.tasks = s.work.tasks := rfl
@[simp] theorem State.closeRegion_work_trapQueue : (s.closeRegion n).work.trapQueue = s.work.trapQueue := rfl
@[simp] theorem State.closeRegion_work_waitOrder : (s.closeRegion n).work.waitOrder = s.work.waitOrder := rfl
@[simp] theorem State.closeRegion_work_spilling : (s.closeRegion n).work.spilling = s.work.spilling := rfl
@[simp] theorem State.closeRegion_work_decided : (s.closeRegion n).work.decided = s.work.decided := rfl

end

/-! ## modStop -/

section

variable (s : State) (p : Nat) (f : Stop → Stop)

@[simp] theorem State.modStop_clock : (s.modStop p f).clock = s.clock := rfl
@[simp] theorem State.modStop_store : (s.modStop p f).store = s.store := rfl
@[simp] theorem State.modStop_work : (s.modStop p f).work = s.work := rfl
@[simp] theorem State.modStop_engines : (s.modStop p f).engines = s.engines := rfl
@[simp] theorem State.modStop_media : (s.modStop p f).media = s.media := rfl
@[simp] theorem State.modStop_agenda : (s.modStop p f).agenda = s.agenda := rfl
@[simp] theorem State.modStop_cur : (s.modStop p f).cur = s.cur := rfl
@[simp] theorem State.modStop_freeCtr : (s.modStop p f).freeCtr = s.freeCtr := rfl

end

/-! ## putMark -/

section

variable (s : State) (core a : Nat) (queue : Bool)

@[simp] theorem State.putMark_clock : (s.putMark core a queue).clock = s.clock := rfl
@[simp] theorem State.putMark_store : (s.putMark core a queue).store = s.store := rfl
@[simp] theorem State.putMark_work : (s.putMark core a queue).work = s.work := rfl
@[simp] theorem State.putMark_media : (s.putMark core a queue).media = s.media := rfl
@[simp] theorem State.putMark_control : (s.putMark core a queue).control = s.control := rfl
@[simp] theorem State.putMark_agenda : (s.putMark core a queue).agenda = s.agenda := rfl
@[simp] theorem State.putMark_cur : (s.putMark core a queue).cur = s.cur := rfl
@[simp] theorem State.putMark_freeCtr : (s.putMark core a queue).freeCtr = s.freeCtr := rfl
@[simp] theorem State.putMark_engines_tiles : (s.putMark core a queue).engines.tiles = s.engines.tiles := rfl
@[simp] theorem State.putMark_engines_delayed : (s.putMark core a queue).engines.delayed = s.engines.delayed := rfl
@[simp] theorem State.putMark_engines_copies : (s.putMark core a queue).engines.copies = s.engines.copies := rfl
@[simp] theorem State.putMark_engines_nextCopy : (s.putMark core a queue).engines.nextCopy = s.engines.nextCopy := rfl
@[simp] theorem State.putMark_engines_heldDeliveries : (s.putMark core a queue).engines.heldDeliveries = s.engines.heldDeliveries := rfl
@[simp] theorem State.putMark_engines_ptrs : (s.putMark core a queue).engines.ptrs = s.engines.ptrs := rfl
@[simp] theorem State.putMark_engines_pitches : (s.putMark core a queue).engines.pitches = s.engines.pitches := rfl
@[simp] theorem State.putMark_engines_units : (s.putMark core a queue).engines.units = s.engines.units := rfl
@[simp] theorem State.putMark_engines_passes : (s.putMark core a queue).engines.passes = s.engines.passes := rfl
@[simp] theorem State.putMark_engines_accOps : (s.putMark core a queue).engines.accOps = s.engines.accOps := rfl
@[simp] theorem State.putMark_engines_evals : (s.putMark core a queue).engines.evals = s.engines.evals := rfl
@[simp] theorem State.putMark_engines_bslots : (s.putMark core a queue).engines.bslots = s.engines.bslots := rfl
@[simp] theorem State.putMark_engines_rasts : (s.putMark core a queue).engines.rasts = s.engines.rasts := rfl

end

/-! ## modMark -/

section

variable (s : State) (core a : Nat) (queue : Bool) (f : Mark → Mark)

@[simp] theorem State.modMark_clock : (s.modMark core a queue f).clock = s.clock := rfl
@[simp] theorem State.modMark_store : (s.modMark core a queue f).store = s.store := rfl
@[simp] theorem State.modMark_work : (s.modMark core a queue f).work = s.work := rfl
@[simp] theorem State.modMark_media : (s.modMark core a queue f).media = s.media := rfl
@[simp] theorem State.modMark_control : (s.modMark core a queue f).control = s.control := rfl
@[simp] theorem State.modMark_agenda : (s.modMark core a queue f).agenda = s.agenda := rfl
@[simp] theorem State.modMark_cur : (s.modMark core a queue f).cur = s.cur := rfl
@[simp] theorem State.modMark_freeCtr : (s.modMark core a queue f).freeCtr = s.freeCtr := rfl
@[simp] theorem State.modMark_engines_tiles : (s.modMark core a queue f).engines.tiles = s.engines.tiles := rfl
@[simp] theorem State.modMark_engines_delayed : (s.modMark core a queue f).engines.delayed = s.engines.delayed := rfl
@[simp] theorem State.modMark_engines_copies : (s.modMark core a queue f).engines.copies = s.engines.copies := rfl
@[simp] theorem State.modMark_engines_nextCopy : (s.modMark core a queue f).engines.nextCopy = s.engines.nextCopy := rfl
@[simp] theorem State.modMark_engines_heldDeliveries : (s.modMark core a queue f).engines.heldDeliveries = s.engines.heldDeliveries := rfl
@[simp] theorem State.modMark_engines_ptrs : (s.modMark core a queue f).engines.ptrs = s.engines.ptrs := rfl
@[simp] theorem State.modMark_engines_pitches : (s.modMark core a queue f).engines.pitches = s.engines.pitches := rfl
@[simp] theorem State.modMark_engines_units : (s.modMark core a queue f).engines.units = s.engines.units := rfl
@[simp] theorem State.modMark_engines_passes : (s.modMark core a queue f).engines.passes = s.engines.passes := rfl
@[simp] theorem State.modMark_engines_accOps : (s.modMark core a queue f).engines.accOps = s.engines.accOps := rfl
@[simp] theorem State.modMark_engines_evals : (s.modMark core a queue f).engines.evals = s.engines.evals := rfl
@[simp] theorem State.modMark_engines_bslots : (s.modMark core a queue f).engines.bslots = s.engines.bslots := rfl
@[simp] theorem State.modMark_engines_rasts : (s.modMark core a queue f).engines.rasts = s.engines.rasts := rfl

end

/-! ## modPitch -/

section

variable (s : State) (cluster n : Nat) (f : Pitch → Pitch)

@[simp] theorem State.modPitch_clock : (s.modPitch cluster n f).clock = s.clock := rfl
@[simp] theorem State.modPitch_store : (s.modPitch cluster n f).store = s.store := rfl
@[simp] theorem State.modPitch_work : (s.modPitch cluster n f).work = s.work := rfl
@[simp] theorem State.modPitch_media : (s.modPitch cluster n f).media = s.media := rfl
@[simp] theorem State.modPitch_control : (s.modPitch cluster n f).control = s.control := rfl
@[simp] theorem State.modPitch_agenda : (s.modPitch cluster n f).agenda = s.agenda := rfl
@[simp] theorem State.modPitch_cur : (s.modPitch cluster n f).cur = s.cur := rfl
@[simp] theorem State.modPitch_freeCtr : (s.modPitch cluster n f).freeCtr = s.freeCtr := rfl
@[simp] theorem State.modPitch_engines_tiles : (s.modPitch cluster n f).engines.tiles = s.engines.tiles := rfl
@[simp] theorem State.modPitch_engines_marks : (s.modPitch cluster n f).engines.marks = s.engines.marks := rfl
@[simp] theorem State.modPitch_engines_delayed : (s.modPitch cluster n f).engines.delayed = s.engines.delayed := rfl
@[simp] theorem State.modPitch_engines_copies : (s.modPitch cluster n f).engines.copies = s.engines.copies := rfl
@[simp] theorem State.modPitch_engines_nextCopy : (s.modPitch cluster n f).engines.nextCopy = s.engines.nextCopy := rfl
@[simp] theorem State.modPitch_engines_heldDeliveries : (s.modPitch cluster n f).engines.heldDeliveries = s.engines.heldDeliveries := rfl
@[simp] theorem State.modPitch_engines_ptrs : (s.modPitch cluster n f).engines.ptrs = s.engines.ptrs := rfl
@[simp] theorem State.modPitch_engines_units : (s.modPitch cluster n f).engines.units = s.engines.units := rfl
@[simp] theorem State.modPitch_engines_passes : (s.modPitch cluster n f).engines.passes = s.engines.passes := rfl
@[simp] theorem State.modPitch_engines_accOps : (s.modPitch cluster n f).engines.accOps = s.engines.accOps := rfl
@[simp] theorem State.modPitch_engines_evals : (s.modPitch cluster n f).engines.evals = s.engines.evals := rfl
@[simp] theorem State.modPitch_engines_bslots : (s.modPitch cluster n f).engines.bslots = s.engines.bslots := rfl
@[simp] theorem State.modPitch_engines_rasts : (s.modPitch cluster n f).engines.rasts = s.engines.rasts := rfl

end

/-! ## putInst -/

section

variable (s : State) (t : TileInst)

@[simp] theorem State.putInst_clock : (s.putInst t).clock = s.clock := rfl
@[simp] theorem State.putInst_store : (s.putInst t).store = s.store := rfl
@[simp] theorem State.putInst_work : (s.putInst t).work = s.work := rfl
@[simp] theorem State.putInst_media : (s.putInst t).media = s.media := rfl
@[simp] theorem State.putInst_control : (s.putInst t).control = s.control := rfl
@[simp] theorem State.putInst_agenda : (s.putInst t).agenda = s.agenda := rfl
@[simp] theorem State.putInst_cur : (s.putInst t).cur = s.cur := rfl
@[simp] theorem State.putInst_freeCtr : (s.putInst t).freeCtr = s.freeCtr := rfl
@[simp] theorem State.putInst_engines_marks : (s.putInst t).engines.marks = s.engines.marks := rfl
@[simp] theorem State.putInst_engines_delayed : (s.putInst t).engines.delayed = s.engines.delayed := rfl
@[simp] theorem State.putInst_engines_copies : (s.putInst t).engines.copies = s.engines.copies := rfl
@[simp] theorem State.putInst_engines_nextCopy : (s.putInst t).engines.nextCopy = s.engines.nextCopy := rfl
@[simp] theorem State.putInst_engines_heldDeliveries : (s.putInst t).engines.heldDeliveries = s.engines.heldDeliveries := rfl
@[simp] theorem State.putInst_engines_ptrs : (s.putInst t).engines.ptrs = s.engines.ptrs := rfl
@[simp] theorem State.putInst_engines_pitches : (s.putInst t).engines.pitches = s.engines.pitches := rfl
@[simp] theorem State.putInst_engines_units : (s.putInst t).engines.units = s.engines.units := rfl
@[simp] theorem State.putInst_engines_passes : (s.putInst t).engines.passes = s.engines.passes := rfl
@[simp] theorem State.putInst_engines_accOps : (s.putInst t).engines.accOps = s.engines.accOps := rfl
@[simp] theorem State.putInst_engines_evals : (s.putInst t).engines.evals = s.engines.evals := rfl
@[simp] theorem State.putInst_engines_bslots : (s.putInst t).engines.bslots = s.engines.bslots := rfl
@[simp] theorem State.putInst_engines_rasts : (s.putInst t).engines.rasts = s.engines.rasts := rfl

end

/-! ## tlbDrop -/

section

variable (s : State) (l : List TlbiRange)

@[simp] theorem State.tlbDrop_clock : (s.tlbDrop l).clock = s.clock := rfl
@[simp] theorem State.tlbDrop_work : (s.tlbDrop l).work = s.work := rfl
@[simp] theorem State.tlbDrop_engines : (s.tlbDrop l).engines = s.engines := rfl
@[simp] theorem State.tlbDrop_media : (s.tlbDrop l).media = s.media := rfl
@[simp] theorem State.tlbDrop_control : (s.tlbDrop l).control = s.control := rfl
@[simp] theorem State.tlbDrop_agenda : (s.tlbDrop l).agenda = s.agenda := rfl
@[simp] theorem State.tlbDrop_cur : (s.tlbDrop l).cur = s.cur := rfl
@[simp] theorem State.tlbDrop_freeCtr : (s.tlbDrop l).freeCtr = s.freeCtr := rfl
@[simp] theorem State.tlbDrop_store_mem : (s.tlbDrop l).store.mem = s.store.mem := rfl
@[simp] theorem State.tlbDrop_store_scratch : (s.tlbDrop l).store.scratch = s.store.scratch := rfl
@[simp] theorem State.tlbDrop_store_acc : (s.tlbDrop l).store.acc = s.store.acc := rfl
@[simp] theorem State.tlbDrop_store_awning : (s.tlbDrop l).store.awning = s.store.awning := rfl
@[simp] theorem State.tlbDrop_store_dregs : (s.tlbDrop l).store.dregs = s.store.dregs := rfl
@[simp] theorem State.tlbDrop_store_l1 : (s.tlbDrop l).store.l1 = s.store.l1 := rfl
@[simp] theorem State.tlbDrop_store_stale : (s.tlbDrop l).store.stale = s.store.stale := rfl
@[simp] theorem State.tlbDrop_store_poison : (s.tlbDrop l).store.poison = s.store.poison := rfl
@[simp] theorem State.tlbDrop_store_conflicts : (s.tlbDrop l).store.conflicts = s.store.conflicts := rfl
@[simp] theorem State.tlbDrop_store_outst : (s.tlbDrop l).store.outst = s.store.outst := rfl
@[simp] theorem State.tlbDrop_store_faults : (s.tlbDrop l).store.faults = s.store.faults := rfl
@[simp] theorem State.tlbDrop_store_errs : (s.tlbDrop l).store.errs = s.store.errs := rfl
@[simp] theorem State.tlbDrop_store_nextFid : (s.tlbDrop l).store.nextFid = s.store.nextFid := rfl
@[simp] theorem State.tlbDrop_store_carveouts : (s.tlbDrop l).store.carveouts = s.store.carveouts := rfl

end

/-! ## modFw -/

section

variable (s : State) (f : Firmware → Firmware)

@[simp] theorem State.modFw_clock : (s.modFw f).clock = s.clock := rfl
@[simp] theorem State.modFw_store : (s.modFw f).store = s.store := rfl
@[simp] theorem State.modFw_work : (s.modFw f).work = s.work := rfl
@[simp] theorem State.modFw_engines : (s.modFw f).engines = s.engines := rfl
@[simp] theorem State.modFw_media : (s.modFw f).media = s.media := rfl
@[simp] theorem State.modFw_agenda : (s.modFw f).agenda = s.agenda := rfl
@[simp] theorem State.modFw_cur : (s.modFw f).cur = s.cur := rfl
@[simp] theorem State.modFw_freeCtr : (s.modFw f).freeCtr = s.freeCtr := rfl

end

/-! ## Finding a thread after an update -/

/-- The thread of a name has that name. -/
theorem State.thread?_name {s : State} {n : ThreadName} {t : Thread} (h : s.thread? n = some t) : t.name = n := by
  have := List.find?_some h
  simpa using this

/-- An update of one thread, read back. -/
theorem State.thread?_modThread_same {s : State} {n : ThreadName} {t : Thread} {f : Thread → Thread} (h : s.thread? n = some t)
    (hf : ∀ x, (f x).name = x.name) : (s.modThread n f).thread? n = some (f t) := by
  unfold State.thread? State.modThread State.setThreads at *
  generalize s.work.threads = l at h
  simp only
  induction l with
  | nil => simp at h
  | cons x r ih =>
    simp only [List.map_cons, List.find?_cons] at *
    by_cases hx : x.name = n
    · have h1 : (x.name == n) = true := by simpa using hx
      have h2 : ((f x).name == n) = true := by rw [hf]; exact h1
      rw [h1] at h
      rw [if_pos h1, h2]
      simpa using congrArg (Option.map f) h
    · have h1 : (x.name == n) = false := by simpa using hx
      rw [h1] at h
      rw [if_neg (by simp [h1]), h1]
      exact ih h

/-- An update of one thread leaves the others. -/
theorem State.thread?_modThread_other {s : State} {n m : ThreadName} {f : Thread → Thread} (h : m ≠ n)
    (hf : ∀ x, (f x).name = x.name) : (s.modThread n f).thread? m = s.thread? m := by
  unfold State.thread? State.modThread State.setThreads
  generalize s.work.threads = l
  simp only
  induction l with
  | nil => rfl
  | cons x r ih =>
    simp only [List.map_cons, List.find?_cons, ih]
    by_cases hx : x.name = n
    · have : (n == m) = false := by simpa using fun e => h e.symm
      simp only [beq_iff_eq, hx, if_true, hf, this]
    · simp only [beq_iff_eq, hx, if_false]

/-- An update of a thread that is absent does nothing to any thread's lookup. -/
theorem State.thread?_modThread_none {s : State} {n : ThreadName} {f : Thread → Thread} (h : s.thread? n = none) :
    (s.modThread n f).thread? n = none := by
  unfold State.thread? State.modThread State.setThreads at *
  simp only [List.find?_eq_none, List.mem_map, beq_iff_eq] at *
  rintro y ⟨x, hx, rfl⟩ hy
  have := h x hx
  rw [if_neg this] at hy
  exact this hy

end Sys2Proof.Machine
end

