-- ==== Sys2Proof/Laws/Retire.lean ====
section
/-! SUPPORT. What the retirement of a word leaves alone. -/

namespace Sys2Proof

open Machine

/-- Two threads with the same architectural values: registers, predicates, control and status, stacks but the loop stack, accesses. -/
structure SameValues (v t : Thread) : Prop where
  name : v.name = t.name
  regs : v.regs = t.regs
  preds : v.preds = t.preds
  fctl : v.fctl = t.fctl
  fstat : v.fstat = t.fstat
  xfn : v.xfn = t.xfn
  region : v.region = t.region
  calls : v.calls = t.calls
  depth : v.depth = t.depth
  batches : v.batches = t.batches

theorem SameValues.refl (t : Thread) : SameValues t t := ⟨rfl, rfl, rfl, rfl, rfl, rfl, rfl, rfl, rfl, rfl⟩

theorem SameValues.trans {a b c : Thread} (h : SameValues a b) (k : SameValues b c) : SameValues a c :=
  ⟨h.name.trans k.name, h.regs.trans k.regs, h.preds.trans k.preds, h.fctl.trans k.fctl, h.fstat.trans k.fstat, h.xfn.trans k.xfn,
    h.region.trans k.region, h.calls.trans k.calls, h.depth.trans k.depth, h.batches.trans k.batches⟩

/-- Going to a clause changes no value. -/
theorem goto_same (t : Thread) (ca : VAddr) (now : Nat) : SameValues (t.goto ca now) t := ⟨rfl, rfl, rfl, rfl, rfl, rfl, rfl, rfl, rfl, rfl⟩

theorem past_same (t : Thread) (ca : VAddr) (h : Word64) (now : Nat) : SameValues (t.past ca h now) t := by
  unfold Thread.past
  generalize loopBack ca (afterClause ca h) t.depth t.loops = x
  exact ⟨rfl, rfl, rfl, rfl, rfl, rfl, rfl, rfl, rfl, rfl⟩

theorem retired_same (t : Thread) (w : Word64) : SameValues (t.retired w) t := by
  unfold Thread.retired
  split
  · exact ⟨rfl, rfl, rfl, rfl, rfl, rfl, rfl, rfl, rfl, rfl⟩
  · exact SameValues.refl t

theorem goesOn_same (t : Thread) (fate : Fate) (pc : Pc) (h w : Word64) (now : Nat) : SameValues (t.goesOn fate pc h w now) t := by
  have k := retired_same t w
  unfold Thread.goesOn
  split
  · exact ⟨k.name, k.regs, k.preds, k.fctl, k.fstat, k.xfn, k.region, k.calls, k.depth, k.batches⟩
  · exact ⟨k.name, k.regs, k.preds, k.fctl, k.fstat, k.xfn, k.region, k.calls, k.depth, k.batches⟩
  · split
    · exact ⟨k.name, k.regs, k.preds, k.fctl, k.fstat, k.xfn, k.region, k.calls, k.depth, k.batches⟩
    · exact ⟨k.name, k.regs, k.preds, k.fctl, k.fstat, k.xfn, k.region, k.calls, k.depth, k.batches⟩

/-- A thread to which no trap is due has none due after it went on. -/
theorem goesOn_boundary {t : Thread} (ht : t.boundary = []) (fate : Fate) (pc : Pc) (h w : Word64) (now : Nat) :
    (t.goesOn fate pc h w now).boundary = [] := by
  unfold Thread.goesOn
  rw [ht]
  split
  · rfl
  · rfl
  · split
    · rfl
    · rfl

/-- No cause follows a word that raised none and whose header asks for no STEP, for a thread to which none is due. -/
theorem causesAfter_nil {s : State} {o : Out} {pc : Pc} {h : Word64} (ho : o.after = []) (hs : (hStep h && s.stepOn o.name.core) = false)
    (hb : ∀ t, s.thread? o.name = some t → t.boundary = []) : s.causesAfter o pc h = [] := by
  have hd : s.dueAt o.name pc = [] := by
    unfold State.dueAt
    cases ht : s.thread? o.name with
    | none => rfl
    | some t => simp only [hb t ht, List.filter_nil, List.map_nil]
  unfold State.causesAfter
  rw [ho, hs, hd, Bool.and_false]
  rfl

/-- A thread to which no trap is due takes none. -/
theorem takeDue_nil {s : State} {n : ThreadName} (hb : ∀ t, s.thread? n = some t → t.boundary = []) : s.takeDue n = s := by
  unfold State.takeDue
  cases ht : s.thread? n with
  | none => rfl
  | some t => simp only [hb t ht]

/-- A word that retires for a thread without a cause after it, and with none due, only moves the thread. -/
theorem retireThread_plain {s : State} {o : Out} {pc : Pc} {h w : Word64} {pa pb : BitVec 28} (hg : o.fate ≠ .gone)
    (hw : ∀ x, o.fate ≠ .wait x) (ho : o.after = []) (hs : (hStep h && s.stepOn o.name.core) = false)
    (hb : ∀ t, s.thread? o.name = some t → t.boundary = []) :
    s.retireThread o pc h w pa pb = s.modThread o.name (fun t => t.goesOn o.fate pc h w s.now) := by
  have hq : (s.modThread o.name (fun t => t.goesOn o.fate pc h w s.now)).takeDue o.name =
      s.modThread o.name (fun t => t.goesOn o.fate pc h w s.now) := by
    apply takeDue_nil
    intro v hv
    cases ht : s.thread? o.name with
    | none => rw [State.thread?_modThread_none ht] at hv; cases hv
    | some t =>
      rw [State.thread?_modThread_same ht (fun t => (goesOn_same t _ _ _ _ _).name)] at hv
      cases hv
      exact goesOn_boundary (hb t ht) _ _ _ _ _
  unfold State.retireThread
  rw [causesAfter_nil ho hs hb]
  split
  · exact absurd ‹_› hg
  · exact absurd ‹_› (hw _)
  · exact hq

end Sys2Proof

namespace Sys2Proof

open Machine

/-- Reading a thread after an update of every thread that keeps names. -/
theorem thread?_mapped {s : State} {g : Thread → Thread} (hg : ∀ t, (g t).name = t.name) (m : ThreadName) :
    (s.setThreads (s.work.threads.map g)).thread? m = (s.thread? m).map g := by
  unfold State.thread? State.setThreads
  generalize s.work.threads = l
  simp only
  induction l with
  | nil => rfl
  | cons x r ih =>
    simp only [List.map_cons, List.find?_cons, hg, ih]
    split <;> rfl

/-- What a state keeps while a word retires. -/
structure Kept (u s : State) : Prop where
  clock : u.clock = s.clock
  store : u.store = s.store
  engines : u.engines = s.engines
  media : u.media = s.media
  launches : u.work.launches = s.work.launches
  groups : u.work.groups = s.work.groups
  tasks : u.work.tasks = s.work.tasks

theorem Kept.refl (s : State) : Kept s s := ⟨rfl, rfl, rfl, rfl, rfl, rfl, rfl⟩

theorem Kept.trans {a b c : State} (h : Kept a b) (k : Kept b c) : Kept a c :=
  ⟨h.clock.trans k.clock, h.store.trans k.store, h.engines.trans k.engines, h.media.trans k.media, h.launches.trans k.launches,
    h.groups.trans k.groups, h.tasks.trans k.tasks⟩

theorem kept_modThread (s : State) (n : ThreadName) (f : Thread → Thread) : Kept (s.modThread n f) s := ⟨rfl, rfl, rfl, rfl, rfl, rfl, rfl⟩

theorem kept_modThreads (s : State) (p : Thread → Bool) (f : Thread → Thread) : Kept (s.modThreads p f) s :=
  ⟨rfl, rfl, rfl, rfl, rfl, rfl, rfl⟩

theorem kept_countWords (s : State) (core slot n : Nat) : Kept (s.countWords core slot n) s := by
  unfold State.countWords
  split
  · exact Kept.refl s
  · exact ⟨rfl, rfl, rfl, rfl, rfl, rfl, rfl⟩

theorem countWords_threads (s : State) (core slot n : Nat) : (s.countWords core slot n).work = s.work := by
  unfold State.countWords
  split <;> rfl

theorem kept_advance (s : State) (p : Pack) (pa pb : BitVec 28) (b : Bool) : Kept (s.advance p pa pb b) s := by
  unfold State.advance
  split <;> exact ⟨rfl, rfl, rfl, rfl, rfl, rfl, rfl⟩

theorem advance_threads (s : State) (p : Pack) (pa pb : BitVec 28) (b : Bool) : (s.advance p pa pb b).work.threads = s.work.threads := by
  unfold State.advance
  split <;> rfl

theorem thread?_of_threads {u s : State} (h : u.work.threads = s.work.threads) (n : ThreadName) : u.thread? n = s.thread? n := by
  unfold State.thread?
  rw [h]

/-- The threads of a pack retire a word in turn: everything but them is kept. -/
theorem retireAll_kept {pc : Pc} {h w : Word64} {pa pb : BitVec 28} (l : List Out) (s : State)
    (hl : ∀ o ∈ l, o.fate ≠ .gone ∧ (∀ x, o.fate ≠ .wait x) ∧ o.after = []) (hs : ∀ o ∈ l, (hStep h && s.stepOn o.name.core) = false)
    (hb : ∀ o ∈ l, ∀ t, s.thread? o.name = some t → t.boundary = []) :
    Kept (l.foldl (fun s o => s.retireThread o pc h w pa pb) s) s ∧
    ∀ n, ((∀ o ∈ l, o.name ≠ n) → (l.foldl (fun s o => s.retireThread o pc h w pa pb) s).thread? n = s.thread? n) ∧
      ∀ t, s.thread? n = some t → ∃ v, (l.foldl (fun s o => s.retireThread o pc h w pa pb) s).thread? n = some v ∧ SameValues v t := by
  induction l generalizing s with
  | nil => exact ⟨Kept.refl s, fun n => ⟨fun _ => rfl, fun t ht => ⟨t, ht, SameValues.refl t⟩⟩⟩
  | cons o r ih =>
    have h1 := hl o (List.mem_cons_self ..)
    have e := retireThread_plain (s := s) (pc := pc) (w := w) (pa := pa) (pb := pb) h1.1 h1.2.1 h1.2.2 (hs o (List.mem_cons_self ..))
      (hb o (List.mem_cons_self ..))
    simp only [List.foldl_cons, e]
    have hs' : ∀ x ∈ r, (hStep h && (s.modThread o.name (fun t => t.goesOn o.fate pc h w s.now)).stepOn x.name.core) = false :=
      fun x hx => hs x (List.mem_cons_of_mem _ hx)
    have hn : ∀ t : Thread, (t.goesOn o.fate pc h w s.now).name = t.name := fun t => (goesOn_same t _ _ _ _ _).name
    have hb' : ∀ x ∈ r, ∀ t, (s.modThread o.name (fun t => t.goesOn o.fate pc h w s.now)).thread? x.name = some t → t.boundary = [] := by
      intro x hx t ht
      by_cases hxo : x.name = o.name
      · rw [hxo] at ht
        cases hq : s.thread? o.name with
        | none => rw [State.thread?_modThread_none hq] at ht; cases ht
        | some y =>
          rw [State.thread?_modThread_same hq hn] at ht
          cases ht
          exact goesOn_boundary (hb o (List.mem_cons_self ..) y hq) _ _ _ _ _
      · rw [State.thread?_modThread_other hxo hn] at ht
        exact hb x (List.mem_cons_of_mem _ hx) t ht
    have k := ih (s.modThread o.name (fun t => t.goesOn o.fate pc h w s.now)) (fun x hx => hl x (List.mem_cons_of_mem _ hx)) hs' hb'
    refine ⟨k.1.trans (kept_modThread _ _ _), fun n => ⟨fun ha => ?_, fun t ht => ?_⟩⟩
    · rw [((k.2 n).1 (fun x hx => ha x (List.mem_cons_of_mem _ hx)))]
      exact State.thread?_modThread_other (fun e => ha o (List.mem_cons_self ..) e.symm) hn
    · by_cases hno : n = o.name
      · subst hno
        obtain ⟨v, hv, hsv⟩ := (k.2 o.name).2 _ (State.thread?_modThread_same ht hn)
        exact ⟨v, hv, hsv.trans (goesOn_same t _ _ _ _ _)⟩
      · exact (k.2 n).2 t ((State.thread?_modThread_other hno hn).trans ht)

/-- RETIREMENT of a word whose threads all go on: nothing but positions, packs and debug counts changes. -/
theorem retire_kept {i : Instr} {p : Pack} {l : List Out} {s : State} {pa pb : BitVec 28}
    (hl : ∀ o ∈ l, o.fate ≠ .gone ∧ (∀ x, o.fate ≠ .wait x) ∧ o.after = [])
    (hs : ∀ o ∈ l, (hStep p.hdr && s.stepOn o.name.core) = false) (hb : ∀ o ∈ l, ∀ t, s.thread? o.name = some t → t.boundary = []) :
    Kept (s.retire (ctxOf p i) l pa pb) s ∧
    ∀ n, ((∀ o ∈ l, o.name ≠ n) → (s.retire (ctxOf p i) l pa pb).thread? n = s.thread? n) ∧
      ∀ t, s.thread? n = some t → ∃ v, (s.retire (ctxOf p i) l pa pb).thread? n = some v ∧ SameValues v t := by
  have k := retireAll_kept (pc := (ctxOf p i).pc) (h := p.hdr) (w := (ctxOf p i).word) (pa := pa) (pb := pb) l s hl hs hb
  unfold State.retire
  simp only [show (ctxOf p i).pack = p from rfl]
  generalize l.foldl (fun s o => s.retireThread o (ctxOf p i).pc p.hdr (ctxOf p i).word pa pb) s = s1 at k
  generalize hkin : (if hNrg p.hdr then p.threads else []) = kin
  generalize hs2 : (if p.wi == hNi p.hdr then s1.modThreads (fun t => l.any (·.name == t.name)) (fun t => { t with kin := kin }) else s1) = s2
  have k2 : Kept s2 s1 := by subst hs2; split; exact kept_modThreads _ _ _; exact Kept.refl _
  have t2 : ∀ n, ((∀ o ∈ l, o.name ≠ n) → s2.thread? n = s1.thread? n) ∧ ∀ t, s1.thread? n = some t → ∃ v, s2.thread? n = some v ∧ SameValues v t := by
    subst hs2
    intro n
    split
    · have hm : (s1.modThreads (fun t => l.any (·.name == t.name)) (fun t => { t with kin := kin })).thread? n =
          (s1.thread? n).map (fun t => if l.any (·.name == t.name) then { t with kin := kin } else t) :=
        thread?_mapped (fun t => by simp only; split <;> rfl) n
      refine ⟨fun ha => ?_, fun t ht => ?_⟩
      · rw [hm]
        cases hq : s1.thread? n with
        | none => rfl
        | some t =>
          have hname : t.name = n := State.thread?_name hq
          have : l.any (·.name == t.name) = false := by
            rw [List.any_eq_false]; intro o ho; rw [hname]; simpa using ha o ho
          simp only [Option.map_some, this, Bool.false_eq_true, if_false]
      · rw [hm, ht]
        refine ⟨_, rfl, ?_⟩
        simp only
        split
        · exact ⟨rfl, rfl, rfl, rfl, rfl, rfl, rfl, rfl, rfl, rfl⟩
        · exact SameValues.refl t
    · exact ⟨fun _ => rfl, fun t ht => ⟨t, ht, SameValues.refl t⟩⟩
  generalize hc : s2.countWords p.core p.slot (b2n (counts (ctxOf p i).word) * l.length) = s3
  have k3 : Kept s3 s2 := by subst hc; exact kept_countWords _ _ _ _
  have t3 : s3.work.threads = s2.work.threads := by subst hc; rw [countWords_threads]
  generalize hp : (if p.wi == hNi p.hdr then s3.pastPack p (counts (ctxOf p i).word) (l.map (·.name))
    else if (s3.pack? p.core p.pipe).isNone then s3.pastPack p false p.threads else s3) = s4
  have k4 : Kept s4 s3 := by
    subst hp
    repeat' split
    all_goals first
      | exact Kept.refl _
      | exact ⟨rfl, rfl, rfl, rfl, rfl, rfl, rfl⟩
  have t4 : s4.work.threads = s3.work.threads := by subst hp; (repeat' split) <;> rfl
  have k5 := kept_advance s4 p pa pb (counts (ctxOf p i).word)
  have t5 := advance_threads s4 p pa pb (counts (ctxOf p i).word)
  have tall : ∀ n, (s4.advance p pa pb (counts (ctxOf p i).word)).thread? n = s2.thread? n :=
    fun n => thread?_of_threads (t5.trans (t4.trans t3)) n
  refine ⟨k5.trans (k4.trans (k3.trans (k2.trans k.1))), fun n => ⟨fun ha => ?_, fun t ht => ?_⟩⟩
  · rw [tall, (t2 n).1 ha, (k.2 n).1 ha]
  · obtain ⟨v, hv, hvt⟩ := (k.2 n).2 t ht
    obtain ⟨x, hx, hxv⟩ := (t2 n).2 v hv
    exact ⟨x, (tall n).trans hx, hxv.trans hvt⟩

end Sys2Proof

namespace Sys2Proof

open Machine

/-- An update of one thread that keeps its values and the traps due to it. -/
theorem modThread_same {s : State} {n : ThreadName} {f : Thread → Thread} (hf : ∀ x, SameValues (f x) x ∧ (f x).boundary = x.boundary)
    (m : ThreadName) :
    (m ≠ n → (s.modThread n f).thread? m = s.thread? m) ∧
    ∀ t, s.thread? m = some t → ∃ v, (s.modThread n f).thread? m = some v ∧ SameValues v t ∧ v.boundary = t.boundary := by
  refine ⟨fun h => State.thread?_modThread_other h (fun x => (hf x).1.name), fun t ht => ?_⟩
  by_cases h : m = n
  · subst h
    exact ⟨f t, State.thread?_modThread_same ht (fun x => (hf x).1.name), hf t⟩
  · exact ⟨t, (State.thread?_modThread_other h (fun x => (hf x).1.name)).trans ht, SameValues.refl t, rfl⟩

theorem allocRegs_kept (s b : State) (n : ThreadName) (l : List Nat) :
    Kept (s.allocRegs b n l) s ∧ ∀ m, (m ≠ n → (s.allocRegs b n l).thread? m = s.thread? m) ∧
      ∀ t, s.thread? m = some t → ∃ v, (s.allocRegs b n l).thread? m = some v ∧ SameValues v t ∧ v.boundary = t.boundary := by
  unfold State.allocRegs
  generalize (!(s.stripMode) || n.ctx != 0 || (match s.groupOf n with | some g => g.cls != 0 | none => true)) = c
  cases c
  case true => exact ⟨Kept.refl s, fun m => ⟨fun _ => rfl, fun t ht => ⟨t, ht, SameValues.refl t, rfl⟩⟩⟩
  case false =>
    refine ⟨kept_modThread _ _ _, fun m => ?_⟩
    apply modThread_same
    exact fun _ => ⟨⟨rfl, rfl, rfl, rfl, rfl, rfl, rfl, rfl, rfl, rfl⟩, rfl⟩

/-- The bookkeeping of registers after a word (R102, R103) keeps every value, and threads outside the pack whole. -/
theorem wordRegs_kept (s b : State) (c : Ctx) (outs : List Out) :
    Kept (s.wordRegs b c outs) s ∧ ∀ m, (m ∉ c.pack.threads → (s.wordRegs b c outs).thread? m = s.thread? m) ∧
      ∀ t, s.thread? m = some t → ∃ v, (s.wordRegs b c outs).thread? m = some v ∧ SameValues v t ∧ v.boundary = t.boundary := by
  unfold State.wordRegs
  have hsub : ∀ n ∈ (c.actives b).filter (fun n => outs.any (·.name == n)), n ∈ c.pack.threads :=
    fun n hn => (List.mem_filter.mp (List.mem_filter.mp hn).1).1
  generalize (c.actives b).filter (fun n => outs.any (·.name == n)) = l at hsub
  induction l generalizing s with
  | nil => exact ⟨Kept.refl s, fun m => ⟨fun _ => rfl, fun t ht => ⟨t, ht, SameValues.refl t, rfl⟩⟩⟩
  | cons n r ih =>
    simp only [List.foldl_cons]
    have hn := hsub n (List.mem_cons_self ..)
    have a := modThread_same (s := s) (n := n) (f := (·.touch c.regs)) (fun _ => ⟨⟨rfl, rfl, rfl, rfl, rfl, rfl, rfl, rfl, rfl, rfl⟩, rfl⟩)
    have k := allocRegs_kept (s.modThread n (·.touch c.regs)) b n (dstRegs c.instr)
    have h := ih ((s.modThread n (·.touch c.regs)).allocRegs b n (dstRegs c.instr)) (fun x hx => hsub x (List.mem_cons_of_mem _ hx))
    refine ⟨h.1.trans (k.1.trans (kept_modThread _ _ _)), fun m => ⟨fun hm => ?_, fun t ht => ?_⟩⟩
    · have hmn : m ≠ n := fun e => hm (e ▸ hn)
      rw [(h.2 m).1 hm, (k.2 m).1 hmn, (a m).1 hmn]
    · obtain ⟨v, hv, s1, b1⟩ := (a m).2 t ht
      obtain ⟨x, hx, s2, b2⟩ := (k.2 m).2 v hv
      obtain ⟨y, hy, s3, b3⟩ := (h.2 m).2 x hx
      exact ⟨y, hy, s3.trans (s2.trans s1), b3.trans (b2.trans b1)⟩

/-- `u` is `s` with thread `n` become `v`. -/
structure Own (u s : State) (n : ThreadName) (v : Thread) : Prop where
  kept : Kept u s
  other : ∀ m, m ≠ n → u.thread? m = s.thread? m
  mine : u.thread? n = some v

theorem own_modThread {s : State} {n : ThreadName} {t : Thread} {f : Thread → Thread} (h : s.thread? n = some t)
    (hf : ∀ x, (f x).name = x.name) : Own (s.modThread n f) s n (f t) :=
  ⟨kept_modThread s n f, fun _ hm => State.thread?_modThread_other hm hf, State.thread?_modThread_same h hf⟩

/-- A word without kill bits leaves the state its effect left. -/
theorem kill_nil {s : State} {n : ThreadName} {i : Instr} (h : killRegs i = []) : s.kill n i = s := by
  unfold State.kill
  rw [h]
  rfl

/-- The outcome of a thread that goes on. -/
def nextOut (n : ThreadName) : Out := { name := n, fate := .next, after := [] }

/-- A word that every thread of the pack runs on itself alone. -/
theorem eachThread_own {i : Instr} {s : State} {p : Pack} {need : Ctx → State → Thread → Bool} {f : Ctx → State → Thread → TRes}
    {off : Ctx → State → Thread → State} (R : Thread → Thread → Prop) (hk : killRegs i = []) (hd : p.threads.Nodup)
    (he : ∀ n ∈ p.threads, ∃ t, s.thread? n = some t)
    (hn : ∀ n ∈ p.threads, ∀ t, s.thread? n = some t → need (ctxOf p i) s t = true)
    (hf : ∀ s1 n t, Kept s1 s → n ∈ p.threads → s.thread? n = some t → s1.thread? n = some t → (ctxOf p i).active t = true →
      ∃ u v, f (ctxOf p i) s1 t = .ok u .next [] ∧ Own u s1 n v ∧ R v t)
    (ho : ∀ s1 n t, Kept s1 s → n ∈ p.threads → s.thread? n = some t → s1.thread? n = some t → (ctxOf p i).active t = false →
      ∃ v, Own (off (ctxOf p i) s1 t) s1 n v ∧ R v t) :
    ∃ u, eachThread need f off (ctxOf p i) s = .done u (p.threads.map nextOut) ∧ Kept u s ∧
      (∀ n, n ∉ p.threads → u.thread? n = s.thread? n) ∧
      ∀ n ∈ p.threads, ∀ t, s.thread? n = some t → ∃ v, u.thread? n = some v ∧ R v t := by
  unfold eachThread
  have hno : (ctxOf p i).lacks need s = false := by
    unfold Ctx.lacks
    rw [List.any_eq_false]
    intro n hm
    have hmem : n ∈ p.threads := (List.mem_filter.mp hm).1
    obtain ⟨t, ht⟩ := he n hmem
    rw [ht]
    simp [hn n hmem t ht]
  rw [hno]
  simp only [Bool.false_eq_true, if_false, show (ctxOf p i).pack = p from rfl]
  -- the fold over the rest of the pack, from a state in which the rest is untouched
  have fold : ∀ (l : List ThreadName) (s1 : State) (outs : List Out), l.Nodup → (∀ n ∈ l, n ∈ p.threads) → Kept s1 s →
      (∀ n ∈ l, s1.thread? n = s.thread? n) →
      ∃ u, l.foldl ((ctxOf p i).part f off) (s1, outs) = (u, outs ++ l.map nextOut) ∧
        Kept u s ∧ (∀ n, n ∉ l → u.thread? n = s1.thread? n) ∧
        ∀ n ∈ l, ∀ t, s.thread? n = some t → ∃ v, u.thread? n = some v ∧ R v t := by
    intro l
    induction l with
    | nil =>
      intro s1 outs _ _ k _
      exact ⟨s1, by simp, k, fun _ _ => rfl, fun n hn => absurd hn (List.not_mem_nil)⟩
    | cons n r ih =>
      intro s1 outs hdl hsub k same
      have hmem := hsub n (List.mem_cons_self ..)
      obtain ⟨t, ht⟩ := he n hmem
      have ht1 : s1.thread? n = some t := (same n (List.mem_cons_self ..)).trans ht
      have hnr : n ∉ r := (List.nodup_cons.mp hdl).1
      have step : ∃ u v, (ctxOf p i).part f off (s1, outs) n = (u, outs ++ [nextOut n]) ∧ Own u s1 n v ∧ R v t := by
        unfold Ctx.part
        simp only [ht1]
        cases ha : (ctxOf p i).active t with
        | true =>
          obtain ⟨u, v, h1, h2, h3⟩ := hf s1 n t k hmem ht ht1 ha
          refine ⟨u, v, ?_, h2, h3⟩
          simp only [if_true, h1, Ctx.take]
          rw [kill_nil (show killRegs (ctxOf p i).instr = [] from hk)]
          rfl
        | false =>
          obtain ⟨v, h2, h3⟩ := ho s1 n t k hmem ht ht1 ha
          exact ⟨_, v, by simp only [Bool.false_eq_true, if_false]; rfl, h2, h3⟩
      obtain ⟨u, v, hu, own, hR⟩ := step
      simp only [List.foldl_cons, hu]
      have same' : ∀ m ∈ r, u.thread? m = s.thread? m := by
        intro m hm
        rw [own.other m (fun e => hnr (e ▸ hm))]
        exact same m (List.mem_cons_of_mem _ hm)
      obtain ⟨w, hw, kw, now_, ins⟩ := ih u (outs ++ [nextOut n]) (List.nodup_cons.mp hdl).2 (fun m hm => hsub m (List.mem_cons_of_mem _ hm))
        (own.kept.trans k) same'
      refine ⟨w, by rw [hw]; simp, kw, ?_, ?_⟩
      · intro m hm
        rw [now_ m (fun h => hm (List.mem_cons_of_mem _ h)), own.other m (fun e => hm (e ▸ List.mem_cons_self ..))]
      · intro m hm x hx
        rcases List.mem_cons.mp hm with rfl | hm
        · rw [ht] at hx
          cases hx
          exact ⟨v, (now_ m hnr).trans own.mine, hR⟩
        · exact ins m hm x hx
  obtain ⟨u, hu, k, h1, h2⟩ := fold p.threads s [] hd (fun _ h => h) (Kept.refl s) (fun _ _ => rfl)
  refine ⟨u, ?_, k, h1, h2⟩
  rw [hu]
  refine settle_done ?_
  intro o ho
  simp only [List.nil_append, List.mem_map] at ho
  obtain ⟨n, _, rfl⟩ := ho
  rfl

end Sys2Proof
end

