-- ==== Sys2Proof/Laws/Sparse.lean ====
section
/-! SUPPORT. Sparse memories: a write reads back, other places are as before, and every operation on a memory keeps the canonical form. -/

namespace Sys2Proof

open Machine

/-! ## Sparse lists -/

/-- Every number listed is above a bound. -/
def sparseAbove {α : Type} (k : Nat) (l : Sparse α) : Prop := ∀ e ∈ l, k < e.1

theorem sparseWf_cons {α : Type} [BEq α] {d : α} {k : Nat} {v : α} {r : Sparse α} :
    sparseWf d ((k, v) :: r) = true ↔ (v == d) = false ∧ (match r with | [] => True | (j, _) :: _ => k < j) ∧ sparseWf d r = true := by
  cases r with
  | nil => simp [sparseWf]
  | cons e r => obtain ⟨j, x⟩ := e; simp [sparseWf, and_assoc]

theorem sparseWf_tail {α : Type} [BEq α] {d : α} {e : Nat × α} {r : Sparse α} (h : sparseWf d (e :: r) = true) : sparseWf d r = true :=
  (sparseWf_cons.mp h).2.2

/-- A canonical list rises from its head. -/
theorem sparseWf_above {α : Type} [BEq α] {d : α} {k : Nat} {v : α} {r : Sparse α} (h : sparseWf d ((k, v) :: r) = true) :
    sparseAbove k r := by
  induction r generalizing k v with
  | nil => intro e he; cases he
  | cons e r ih =>
    obtain ⟨j, x⟩ := e
    have hk := (sparseWf_cons.mp h).2
    intro f hf
    rcases List.mem_cons.mp hf with rfl | hf
    · exact hk.1
    · exact Nat.lt_trans hk.1 (ih hk.2 f hf)

theorem sget_above {α : Type} {d : α} {k n : Nat} {l : Sparse α} (h : sparseAbove k l) (hn : n ≤ k) : sget d l n = d := by
  induction l with
  | nil => rfl
  | cons e r ih =>
    obtain ⟨j, x⟩ := e
    have hj : k < j := h (j, x) (List.mem_cons_self ..)
    have hjn : (j == n) = false := by simp; omega
    simp only [sget, hjn, Bool.false_eq_true, if_false]
    exact ih (fun f hf => h f (List.mem_cons_of_mem _ hf))

theorem sput_above {α : Type} [BEq α] {d : α} {k n : Nat} {v : α} {l : Sparse α} (h : sparseAbove k l) (hn : k < n) :
    sparseAbove k (sput d l n v) := by
  induction l with
  | nil =>
    unfold sput
    split
    · intro e he; cases he
    · intro e he; simp at he; subst he; exact hn
  | cons e r ih =>
    obtain ⟨j, x⟩ := e
    have hr : sparseAbove k r := fun f hf => h f (List.mem_cons_of_mem _ hf)
    have hj : k < j := h (j, x) (List.mem_cons_self ..)
    unfold sput
    split
    · split
      · exact h
      · intro f hf
        rcases List.mem_cons.mp hf with rfl | hf
        · exact hn
        · exact h f hf
    · split
      · split
        · exact hr
        · intro f hf
          rcases List.mem_cons.mp hf with rfl | hf
          · exact hn
          · exact hr f hf
      · intro f hf
        rcases List.mem_cons.mp hf with rfl | hf
        · exact hj
        · exact ih hr f hf

theorem sparseWf_of_above {α : Type} [BEq α] {d : α} {k : Nat} {v : α} {r : Sparse α} (hv : (v == d) = false) (ha : sparseAbove k r)
    (hr : sparseWf d r = true) : sparseWf d ((k, v) :: r) = true := by
  refine sparseWf_cons.mpr ⟨hv, ?_, hr⟩
  cases r with
  | nil => trivial
  | cons e r => exact ha e (List.mem_cons_self ..)

/-- A write keeps the canonical form. -/
theorem sput_wf {α : Type} [BEq α] {d : α} (l : Sparse α) (n : Nat) (v : α) (h : sparseWf d l = true) : sparseWf d (sput d l n v) = true := by
  induction l with
  | nil =>
    unfold sput
    split
    · rfl
    · rename_i hv; exact sparseWf_of_above (by simpa using hv) (fun e he => by cases he) rfl
  | cons e r ih =>
    obtain ⟨j, x⟩ := e
    have hr := sparseWf_tail h
    have ha := sparseWf_above h
    have hx := (sparseWf_cons.mp h).1
    unfold sput
    split
    · split
      · exact h
      · rename_i hn hv
        refine sparseWf_of_above (by simpa using hv) (fun f hf => ?_) h
        rcases List.mem_cons.mp hf with rfl | hf
        · exact hn
        · exact Nat.lt_trans hn (ha f hf)
    · rename_i hn
      split
      · rename_i hj
        have hj : n = j := by simpa using hj
        split
        · exact hr
        · rename_i hv; exact sparseWf_of_above (by simpa using hv) (hj ▸ ha) hr
      · rename_i hj
        have hj : n ≠ j := by simpa using hj
        exact sparseWf_of_above hx (sput_above ha (by omega)) (ih hr)

/-- A written value reads back, and every other place is as before. -/
theorem sget_sput {α : Type} [BEq α] [LawfulBEq α] {d : α} (l : Sparse α) (n k : Nat) (v : α) (h : sparseWf d l = true) :
    sget d (sput d l n v) k = if k = n then v else sget d l k := by
  induction l with
  | nil =>
    unfold sput
    split
    · rename_i hv; have hv : v = d := by simpa using hv
      subst hv; simp [sget]
    · simp only [sget]
      by_cases hk : k = n
      · subst hk; simp
      · have : (n == k) = false := by simpa using fun e => hk e.symm
        simp [this, hk]
  | cons e r ih =>
    obtain ⟨j, x⟩ := e
    have hr := sparseWf_tail h
    have ha := sparseWf_above h
    unfold sput
    split
    · rename_i hn
      have hout : sget d ((j, x) :: r) n = d := by
        refine sget_above (k := n) (fun f hf => ?_) (Nat.le_refl n)
        rcases List.mem_cons.mp hf with rfl | hf
        · exact hn
        · exact Nat.lt_trans hn (ha f hf)
      split
      · rename_i hv; have hv : v = d := by simpa using hv
        by_cases hk : k = n
        · subst hk; rw [hout]; simp [hv]
        · simp [hk]
      · by_cases hk : k = n
        · subst hk; simp [sget]
        · have : (n == k) = false := by simpa using fun e => hk e.symm
          show (if (n == k) = true then v else sget d ((j, x) :: r) k) = _
          simp [this, hk]
    · rename_i hn
      split
      · rename_i hj
        have hj : n = j := by simpa using hj
        subst hj
        by_cases hk : k = n
        · subst hk
          split
          · rename_i hv; have hv : v = d := by simpa using hv
            rw [sget_above ha (Nat.le_refl k)]; simp [hv]
          · simp [sget]
        · have : (n == k) = false := by simpa using fun e => hk e.symm
          split <;> simp [sget, this]
      · rename_i hj
        have hj : n ≠ j := by simpa using hj
        simp only [sget]
        by_cases hk : k = n
        · subst hk
          have : (j == k) = false := by simpa using fun e => hj e.symm
          simp [this, ih hr]
        · simp only [ih hr, hk, if_false]

/-- Entries that a test on their numbers keeps: the others read as unlisted. -/
theorem sget_filter {α : Type} (d : α) (q : Nat → Bool) (l : Sparse α) (k : Nat) :
    sget d (l.filter (fun e => q e.1)) k = if q k then sget d l k else d := by
  induction l with
  | nil => simp [sget]
  | cons e r ih =>
    obtain ⟨j, x⟩ := e
    simp only [List.filter_cons]
    by_cases hj : j = k
    · subst hj
      cases hq : q j
      · simp [ih, hq]
      · simp [sget]
    · have hb : (j == k) = false := by simpa using hj
      cases hq : q j
      · simp [ih, sget, hb]
      · simp [ih, sget, hb]

theorem filter_wf {α : Type} [BEq α] {d : α} (q : Nat × α → Bool) (l : Sparse α) (h : sparseWf d l = true) :
    sparseWf d (l.filter q) = true := by
  induction l with
  | nil => rfl
  | cons e r ih =>
    obtain ⟨j, x⟩ := e
    have hr := sparseWf_tail h
    simp only [List.filter_cons]
    split
    · exact sparseWf_of_above (sparseWf_cons.mp h).1 (fun f hf => sparseWf_above h f (List.mem_filter.mp hf).1) (ih hr)
    · exact ih hr

/-! ## Memories -/

theorem put_wf {m : Mem} (a : Nat) (v : Byte) (h : Memory.wf m = true) : Memory.wf (m.put a v) = true := sput_wf m a v h

theorem write_wf (l : List Byte) {m : Mem} (a : Nat) (h : Memory.wf m = true) : Memory.wf (m.write a l) = true := by
  induction l generalizing m a with
  | nil => exact h
  | cons b r ih => exact ih (a + 1) (put_wf a b h)

theorem byte_put {m : Mem} (a k : Nat) (v : Byte) (h : Memory.wf m = true) : (m.put a v).byte k = if k = a then v else m.byte k :=
  sget_sput m a k v h

/-- A write changes no byte outside it. -/
theorem byte_write_outside (l : List Byte) {m : Mem} (a k : Nat) (h : Memory.wf m = true) (hk : k < a ∨ a + l.length ≤ k) :
    (m.write a l).byte k = m.byte k := by
  induction l generalizing m a with
  | nil => rfl
  | cons b r ih =>
    simp only [List.length_cons] at hk
    show ((m.put a b).write (a + 1) r).byte k = _
    rw [ih (a + 1) (put_wf a b h) (by omega), byte_put a k b h, if_neg (by omega)]

theorem fold_wf {α : Type} (l : List α) (f : Mem → α → Mem) (hf : ∀ m x, Memory.wf m = true → Memory.wf (f m x) = true) {m : Mem}
    (h : Memory.wf m = true) : Memory.wf (l.foldl f m) = true := by
  induction l generalizing m with
  | nil => exact h
  | cons x r ih => exact ih (hf m x h)

theorem writeOver_wf (s : State) (lid base a : Nat) (b : List Byte) {m : Mem} (h : Memory.wf m = true) :
    Memory.wf (s.writeOver lid base a b m).1 = true := by
  unfold State.writeOver
  split
  · exact write_wf b a h
  · have : ∀ (cut : List Nat), Memory.wf ((b.zip (List.range b.length)).foldl (fun (m : Mem) x =>
        if cut.contains (base + (a + x.2) / 64) then m else m.put (a + x.2) x.1) m) = true := by
      intro cut
      refine fold_wf _ _ (fun m x hm => ?_) h
      split
      · exact hm
      · exact put_wf _ _ hm
    simp only
    split <;> exact this _

/-! ## Stores that differ only in one memory -/

/-- The memories and sparse registers of a store are canonical. -/
def storeOk (x : Store) : Bool :=
  Memory.wf x.mem && Memory.wf x.scratch && Memory.wf x.awning && sparseWf (0 : Word64) x.dregs && sparseWf (0 : Word32) x.acc

theorem canonical_iff (s : State) : canonical s = storeOk s.store := rfl

theorem canonical_of {u s : State} (h : canonical s = true) (hm : Memory.wf u.store.mem = true) (hs : Memory.wf u.store.scratch = true)
    (ha : Memory.wf u.store.awning = true) (hd : u.store.dregs = s.store.dregs) (hc : u.store.acc = s.store.acc) : canonical u = true := by
  unfold canonical at *
  simp only [Bool.and_eq_true] at *
  rw [hd, hc]
  exact ⟨⟨⟨⟨hm, hs⟩, ha⟩, h.1.2⟩, h.2⟩

theorem canonical_mem {s : State} (h : canonical s = true) : Memory.wf s.store.mem = true := by
  unfold canonical at h; simp only [Bool.and_eq_true] at h; exact h.1.1.1.1

theorem canonical_scratch {s : State} (h : canonical s = true) : Memory.wf s.store.scratch = true := by
  unfold canonical at h; simp only [Bool.and_eq_true] at h; exact h.1.1.1.2

theorem canonical_awning {s : State} (h : canonical s = true) : Memory.wf s.store.awning = true := by
  unfold canonical at h; simp only [Bool.and_eq_true] at h; exact h.1.1.2

/-- The stores of the memory operations: what the operation may write, and the rest as it was. -/
theorem writeOver_store (s : State) (lid base a : Nat) (b : List Byte) (m : Mem) :
    (s.writeOver lid base a b m).2.store.mem = s.store.mem ∧ (s.writeOver lid base a b m).2.store.scratch = s.store.scratch ∧
    (s.writeOver lid base a b m).2.store.awning = s.store.awning ∧ (s.writeOver lid base a b m).2.store.dregs = s.store.dregs ∧
    (s.writeOver lid base a b m).2.store.acc = s.store.acc := by
  unfold State.writeOver
  split
  · exact ⟨rfl, rfl, rfl, rfl, rfl⟩
  · simp only
    split <;> exact ⟨rfl, rfl, rfl, rfl, rfl⟩

theorem memWrite_canonical {s : State} (lid pa : Nat) (b : List Byte) (h : canonical s = true) : canonical (s.memWrite lid pa b) = true := by
  have w := writeOver_store s lid 0 pa b s.store.mem
  refine canonical_of h ?_ ?_ ?_ ?_ ?_
  · exact writeOver_wf s lid 0 pa b (canonical_mem h)
  · show Memory.wf (s.writeOver lid 0 pa b s.store.mem).2.store.scratch = true
    rw [w.2.1]; exact canonical_scratch h
  · show Memory.wf (s.writeOver lid 0 pa b s.store.mem).2.store.awning = true
    rw [w.2.2.1]; exact canonical_awning h
  · exact w.2.2.2.1
  · exact w.2.2.2.2

theorem scratchStore_canonical {s : State} (lid core a : Nat) (b : List Byte) (h : canonical s = true) :
    canonical (s.scratchStore lid core a b) = true := by
  have w := writeOver_store s lid scratchUnits (core * 2 ^ 20 + a) b s.store.scratch
  refine canonical_of h ?_ ?_ ?_ ?_ ?_
  · show Memory.wf (s.writeOver lid scratchUnits (core * 2 ^ 20 + a) b s.store.scratch).2.store.mem = true
    rw [w.1]; exact canonical_mem h
  · exact writeOver_wf s lid _ _ b (canonical_scratch h)
  · show Memory.wf (s.writeOver lid scratchUnits (core * 2 ^ 20 + a) b s.store.scratch).2.store.awning = true
    rw [w.2.2.1]; exact canonical_awning h
  · exact w.2.2.2.1
  · exact w.2.2.2.2

theorem awningStore_canonical {s : State} (lid a : Nat) (b : List Byte) (h : canonical s = true) :
    canonical (s.awningStore lid a b) = true := by
  have w := writeOver_store s lid awningUnits a b s.store.awning
  refine canonical_of h ?_ ?_ ?_ ?_ ?_
  · show Memory.wf (s.writeOver lid awningUnits a b s.store.awning).2.store.mem = true
    rw [w.1]; exact canonical_mem h
  · show Memory.wf (s.writeOver lid awningUnits a b s.store.awning).2.store.scratch = true
    rw [w.2.1]; exact canonical_scratch h
  · exact writeOver_wf s lid _ _ b (canonical_awning h)
  · exact w.2.2.2.1
  · exact w.2.2.2.2

theorem scratchWrite_canonical {s : State} (core a : Nat) (b : List Byte) (h : canonical s = true) :
    canonical (s.scratchWrite core a b) = true :=
  canonical_of h (canonical_mem (s := s) h) (write_wf b _ (canonical_scratch h)) (canonical_awning (s := s) h) rfl rfl

theorem setDreg_canonical {s : State} (pa v : Nat) (h : canonical s = true) : canonical (s.setDreg pa v) = true := by
  unfold canonical at *
  simp only [Bool.and_eq_true] at *
  exact ⟨⟨h.1.1, sput_wf _ pa _ h.1.2⟩, h.2⟩

theorem accPut_canonical {s : State} (cluster row col : Nat) (v : Word32) (h : canonical s = true) :
    canonical (s.accPut cluster row col v) = true := by
  unfold canonical at *
  simp only [Bool.and_eq_true] at *
  exact ⟨h.1, sput_wf _ _ v h.2⟩

theorem clearScratch_canonical {s : State} (core base size : Nat) (h : canonical s = true) :
    canonical (s.clearScratch core base size) = true :=
  canonical_of h (canonical_mem (s := s) h) (filter_wf _ _ (canonical_scratch h)) (canonical_awning (s := s) h) rfl rfl

/-- Reset's memories are canonical: nothing is listed in them. -/
theorem reset_memories : Memory.wf State.reset.store.mem = true ∧ Memory.wf State.reset.store.scratch = true ∧
    Memory.wf State.reset.store.awning = true := ⟨rfl, rfl, rfl⟩

end Sys2Proof
end

