-- ==== Sys2Proof/Laws/Vector.lean ====
section
/-! SUPPORT. What the writes of a vector word leave of a thread, and the shape of the vector bodies. -/

namespace Sys2Proof

open Machine

/-- What a vector word never changes of a thread. -/
structure Outside (v t : Thread) : Prop where
  name : v.name = t.name
  fctl : v.fctl = t.fctl
  xfn : v.xfn = t.xfn
  region : v.region = t.region
  calls : v.calls = t.calls
  depth : v.depth = t.depth
  batches : v.batches = t.batches
  boundary : v.boundary = t.boundary

theorem Outside.refl (t : Thread) : Outside t t := ⟨rfl, rfl, rfl, rfl, rfl, rfl, rfl, rfl⟩

theorem Outside.trans {a b c : Thread} (h : Outside a b) (k : Outside b c) : Outside a c :=
  ⟨h.name.trans k.name, h.fctl.trans k.fctl, h.xfn.trans k.xfn, h.region.trans k.region, h.calls.trans k.calls, h.depth.trans k.depth,
    h.batches.trans k.batches, h.boundary.trans k.boundary⟩

theorem outside_setReg (t : Thread) (v : Nat) (x : Word32) : Outside (t.setReg v x) t := by
  unfold Thread.setReg
  split
  · exact Outside.refl t
  · exact ⟨rfl, rfl, rfl, rfl, rfl, rfl, rfl, rfl⟩

theorem outside_setRegs (l : List Word32) (t : Thread) (v : Nat) : Outside (t.setRegs v l) t := by
  induction l generalizing t v with
  | nil => exact Outside.refl t
  | cons x r ih =>
    unfold Thread.setRegs
    split
    · exact Outside.refl t
    · exact (ih _ _).trans (outside_setReg t v x)

theorem outside_setPred (t : Thread) (p : Nat) (b : Bool) : Outside (t.setPred p b) t := by
  unfold Thread.setPred
  split
  · exact Outside.refl t
  · exact ⟨rfl, rfl, rfl, rfl, rfl, rfl, rfl, rfl⟩

theorem outside_setPreds (l : List (Nat × Bool)) (t : Thread) : Outside (t.setPreds l) t := by
  unfold Thread.setPreds
  induction l generalizing t with
  | nil => exact Outside.refl t
  | cons x r ih => exact (ih _).trans (outside_setPred t x.1 x.2)

theorem outside_withResult (o : VOp) (sp : VSpec) (t : Thread) (r : VOut) : Outside (withResult o sp t r) t :=
  Outside.trans (b := (t.writeD sp o r.val).setPreds r.preds) ⟨rfl, rfl, rfl, rfl, rfl, rfl, rfl, rfl⟩
    ((outside_setPreds _ _).trans (outside_setRegs _ _ _))

theorem outside_maskedOff (i : Instr) (c : Ctx) (o : VOp) (sp : VSpec) (t : Thread) : Outside (maskedOff i c o sp t) t := by
  unfold maskedOff
  repeat' split
  all_goals first
    | exact outside_setRegs _ _ _
    | exact outside_setPred _ _ _
    | exact ⟨rfl, rfl, rfl, rfl, rfl, rfl, rfl, rfl⟩

/-- A masked-off thread is left as R73 says, and nothing else changes. -/
theorem vecOff_own {o : VOp} {sp : VSpec} {c : Ctx} {s : State} {t : Thread} (h : s.thread? t.name = some t) :
    Own (vecOff o sp c s t) s t.name (maskedOff c.instr c o sp t) := by
  have own0 : Own s s t.name t := ⟨Kept.refl s, fun _ _ => rfl, h⟩
  unfold vecOff maskedOff
  cases sp.d with
  | w n =>
    simp only
    split
    · exact own_modThread (f := fun x => x.setRegs o.d.toNat (cutRegs 0 n)) h (fun x => (outside_setRegs _ x _).name)
    · split
      · exact own_modThread (f := fun x => x.setRegs o.d.toNat (cutRegs (srcField (hLit32 c.pack.hdr) t o.ty (.s n) (pfFourth c.half)) n))
          h (fun x => (outside_setRegs _ x _).name)
      · exact own0
  | p =>
    simp only
    split
    · exact own_modThread (f := fun x => x.setPred o.d.toNat false) h (fun x => (outside_setPred x _ _).name)
    · exact own0
  | _ =>
    simp only
    split
    · exact own_modThread (f := fun x => { x with preds := 0 }) h (fun _ => rfl)
    · exact own0

/-- The body of a vector word whose operands are known. -/
theorem vecBody_eq {f : VIn → VOut} {c : Ctx} {s : State} {o : VOp} {sp : VSpec} (h : vecSpec c.instr = some (o, sp)) :
    vecBody f c s = eachThread noNeed (fun c s t => vecWrite o sp s t (f (vecIn c o sp t))) (vecOff o sp) c s := by
  unfold vecBody
  simp only [h]

/-- The body of a cross-lane word whose operands are known. -/
theorem crossBody_eq {f : Lanes → Nat → VIn → Option Nat → VOut} {c : Ctx} {s : State} {o : VOp} {sp : VSpec}
    (h : vecSpec c.instr = some (o, sp)) :
    crossBody f c s =
      eachThread noNeed (fun d u t => vecWrite o sp u t (f (lanesOf c o sp s) (sqix t.name) (vecIn d o sp t) (fillOf d o sp t)))
        (vecOff o sp) c s := by
  unfold crossBody
  simp only [h]
  rfl

end Sys2Proof
end

