-- ==== Sys2Proof/Tests/Slice0.lean ====
section
/-! SUPPORT. The model's own tests: words of the spec's worked cases decode as they are written, ill-formed terms are refused, values of
worked cases come out, and every statement with hypotheses has a state and operands that meet them all. The states are the machine of log
13, one thread at one word, with what the case needs added. -/

namespace Sys2Proof.Tests

open Sys2Proof.Machine

-- One proof at a time: the proofs by evaluation of this file need little memory each and much together.
set_option Elab.async false

/-! ## States of the tests -/

/-- The machine with an instruction placed (log 13), when the turn of its pipe has fetched and decoded the word. -/
def placed (i : Instr) : State := { State.reset.placeWord ((encode i).getD 0).toNat with agenda := [], cur := some (0, 0) }

/-- A change of the one thread, of its workgroup, of its pack, of the pages. -/
def withThread (s : State) (f : Thread → Thread) : State := { s with work := { s.work with threads := s.work.threads.map f } }
def withGroup (s : State) (f : Workgroup → Workgroup) : State := { s with work := { s.work with groups := s.work.groups.map f } }
def withPack (s : State) (f : Pack → Pack) : State := { s with work := { s.work with packs := s.work.packs.map f } }
def withLeaf (s : State) (leaf : Nat) : State :=
  { s with store := { s.store with tlb := [{ placedTrans with leaf := BitVec.ofNat 64 leaf }] } }

/-- The placed thread with values in registers. -/
def withRegs (s : State) (l : List (Nat × Nat)) : State :=
  withThread s (fun t => l.foldl (fun t x => t.setReg x.1 (BitVec.ofNat 32 x.2)) t)

/-- Memory bytes of the placed machine. -/
def withMem (s : State) (a n v : Nat) : State := { s with store := { s.store with mem := s.store.mem.write a (leBytes v n) } }
def withScratch (s : State) (a n v : Nat) : State := { s with store := { s.store with scratch := s.store.scratch.write a (leBytes v n) } }

def packOf (s : State) : Pack := s.work.packs.headD (placedPack 0)
def threadOf (s : State) : Thread := s.work.threads.headD (newThread placedName 1 0 0 0 0 0)
def groupOf (s : State) : Workgroup := s.work.groups.headD placedGroup

/-- `Lone` of a well-formed word, as a test. -/
def loneB (i : Instr) (s : State) : Bool :=
  runs i s (packOf s) && decide ((packOf s).threads = [(threadOf s).name]) && decide (s.thread? (threadOf s).name = some (threadOf s)) &&
    (ctxOf (packOf s) i).active (threadOf s) && i.wellFormed

theorem lone_of {i : Instr} {s : State} (h : loneB i s = true) : Lone i s (packOf s) (threadOf s) := by
  simp only [loneB, Bool.and_eq_true, decide_eq_true_eq] at h
  exact ⟨h.1.1.1.1, h.1.1.1.2, h.1.1.2, h.1.2⟩

/-- A word that meets the premises of a rule of its family in a state. -/
def ControlMet (i : Instr) (s : State) : Prop :=
  Lone i s (packOf s) (threadOf s) ∧ ∃ s1 fate, ControlRule s (packOf s) (threadOf s) i s1 fate

def ct (a : RegF) (sub : BitVec 12) (off : Word32) : CtOp := { g := 0, gn := false, a := a, sub12 := sub, off := off }

/-! ## Control transfer: a case for each clause -/

theorem wit_bra : ControlMet (.bra (ct 0 0 4)) (placed (.bra (ct 0 0 4))) := ⟨lone_of (by decide), _, _, .bra _⟩
theorem wit_brx : ControlMet (.brx (ct 2 0 1)) (withRegs (placed (.brx (ct 2 0 1))) [(2, 0xFFFFFFF0), (3, 0x01FFFFFF)]) :=
  ⟨lone_of (by decide), _, _, .brx _ (by decide) (by decide)⟩
theorem wit_call : ControlMet (.call (ct 0 0 0x40)) (withThread (placed (.call (ct 0 0 0x40))) (fun t => { t with depth := 7, calls := List.replicate 7 8 })) :=
  ⟨lone_of (by decide), _, _, .call _ (by decide)⟩
theorem wit_callx : ControlMet (.callx (ct 2 0 0)) (withRegs (placed (.callx (ct 2 0 0))) [(2, 0x1000)]) :=
  ⟨lone_of (by decide), _, _, .callx _ (by decide) (by decide) (by decide)⟩
theorem wit_callDeep : ControlMet (.call (ct 0 0 0x40)) (withThread (placed (.call (ct 0 0 0x40))) (fun t => { t with depth := 8, calls := List.replicate 8 8 })) :=
  ⟨lone_of (by decide), _, _, .callDeep _ (by decide) (by decide)⟩
theorem wit_ret : ControlMet (.ret (ct 0 0 0)) (withThread (placed (.ret (ct 0 0 0))) (fun t => { t with depth := 8, calls := List.replicate 8 0x1FFFFFFFFFFFFF8 })) :=
  ⟨lone_of (by decide), _, _, .ret _ (by decide) (by decide) (by decide) (by decide)⟩
theorem wit_retDeep : ControlMet (.ret (ct 0 0 0)) (withThread (placed (.ret (ct 0 0 0))) (fun t => { t with depth := 9, calls := List.replicate 8 8 })) :=
  ⟨lone_of (by decide), _, _, .retDeep _ (by decide)⟩
theorem wit_retEnd : ControlMet (.ret (ct 0 0 0)) (placed (.ret (ct 0 0 0))) := ⟨lone_of (by decide), _, _, .retEnd _ (by decide) (by decide)⟩
theorem wit_exit : ControlMet (.exit (ct 0 0 0)) (placed (.exit (ct 0 0 0))) := ⟨lone_of (by decide), _, _, .exit _ (by decide)⟩
theorem wit_switchPast : ControlMet (.switch (ct 5 2 2)) (withRegs (placed (.switch (ct 5 2 2))) [(5, 3)]) :=
  ⟨lone_of (by decide), _, _, .switchPast _ (by decide)⟩
/-- A table of three offsets in a DATA clause of two payload words at 0x1010: entry 2 is the clause itself. -/
def switched : State := withMem (withRegs (placed (.switch (ct 5 2 2))) [(5, 2)]) 0x1010 24 0x000000040000000200000000A58FFF71
theorem wit_switch : ControlMet (.switch (ct 5 2 2)) switched :=
  ⟨lone_of (by decide), _, _, .switch _ 2 _ _ _ _ (by decide) (by decide) rfl (by decide) rfl⟩
theorem wit_loopNone : ControlMet (.loop (ct 5 0x800 4)) (placed (.loop (ct 5 0x800 4))) := ⟨lone_of (by decide), _, _, .loopNone _ (by decide)⟩
theorem wit_loop : ControlMet (.loop (ct 0 3 5))
    (withThread (placed (.loop (ct 0 3 5))) (fun t => { t with loops := List.replicate 3 { start := 8, stop := 16, count := 2, depth := 0 } })) :=
  ⟨lone_of (by decide), _, _, .loop _ 3 (by decide) (by decide) (by decide)⟩
theorem wit_lpop : ControlMet (.lpop (ct 0 0 0)) (withThread (placed (.lpop (ct 0 0 0))) (fun t => { t with loops := [{ start := 8, stop := 16, count := 2, depth := 0 }] })) :=
  ⟨lone_of (by decide), _, _, .lpop _ { start := 8, stop := 16, count := 2, depth := 0 } [] rfl rfl⟩
theorem wit_lpopDrop : ControlMet (.lpopDrop (ct 0 1 0)) (withThread (placed (.lpopDrop (ct 0 1 0))) (fun t => { t with loops := [{ start := 8, stop := 16, count := 2, depth := 0 }] })) :=
  ⟨lone_of (by decide), _, _, .lpopDrop _ { start := 8, stop := 16, count := 2, depth := 0 } [] rfl rfl⟩
theorem wit_lpopNone : ControlMet (.lpop (ct 0 0 0)) (placed (.lpop (ct 0 0 0))) ∧ ControlMet (.lpopDrop (ct 0 1 0)) (placed (.lpopDrop (ct 0 1 0))) :=
  ⟨⟨lone_of (by decide), _, _, .lpopNone _ (by intro x h; cases h)⟩, lone_of (by decide), _, _, .lpopDropNone _ (by intro x h; cases h)⟩
theorem wit_yield : ControlMet (.yield (ct 0 0 0)) (placed (.yield (ct 0 0 0))) := ⟨lone_of (by decide), _, _, .yield _⟩
theorem wit_waittAbs : ControlMet (.waittAbs (ct 2 0 0)) (placed (.waittAbs (ct 2 0 0))) ∧
    ControlMet (.waittAbs (ct 2 0 0)) (withRegs (placed (.waittAbs (ct 2 0 0))) [(2, 1)]) :=
  ⟨⟨lone_of (by decide), _, _, .waittAbsPast _ (by decide)⟩, lone_of (by decide), _, _, .waittAbs _ (by decide)⟩
theorem wit_waittRel : ControlMet (.waittRel (ct 0 1 0)) (placed (.waittRel (ct 0 1 0))) ∧ ControlMet (.waittRel (ct 0 1 9)) (placed (.waittRel (ct 0 1 9))) :=
  ⟨⟨lone_of (by decide), _, _, .waittRelPast _ (by decide)⟩, lone_of (by decide), _, _, .waittRel _ (by decide)⟩

/-! ## Memory words -/

def mr (d a : RegF) (width : BitVec 3) (off : BitVec 24) : MrOp :=
  { d := d, a := a, g := 0, gn := false, scope := 0, ord := 0, pol := 1, width := width, sx := false, ka := false, kd := false, off := off }
/-- A scratchpad word has no policy. -/
def ms (d a : RegF) (width : BitVec 3) (off : BitVec 24) : MrOp := { mr d a width off with pol := 0 }
/-- A synchronising access at device scope. -/
def sync (o : MrOp) (ord : BitVec 2) : MrOp := { o with scope := 4, ord := ord }

def withLaunch (s : State) (f : Launch → Launch) : State := { s with work := { s.work with launches := s.work.launches.map f } }

/-- A cluster group of two core roles, the second not yet started. -/
def withPeer (s : State) : State :=
  withLaunch s (fun l => { l with
    crm := 3, levels := [{ scope := 2, dom := 2, ext := 2 }], clusters := [some { pcl := 0, cores := [some 0, some 1, none, none] }] })

/-- A memory word that is placed on user pages with its operands, and meets a clause. -/
def AccessMet (i : Instr) (s : State) : Prop :=
  Lone i s (packOf s) (threadOf s) ∧
  (∀ req, requestOf i = some req → countsRoom s (req (ctxOf (packOf s) i) s (threadOf s)).2) ∧ ∃ s1, AccessRule s (packOf s) (threadOf s) i s1

/-- The address of the pair V6:V7. -/
def basedAt (i : Instr) (a : Nat) : State := withRegs (placed i) [(6, a % 2 ^ 32), (7, a / 2 ^ 32)]

theorem room_of {i : Instr} {s : State} (req : ReqFn) (h : requestOf i = some req)
    (r : countsRoom s (req (ctxOf (packOf s) i) s (threadOf s)).2) :
    ∀ q, requestOf i = some q → countsRoom s (q (ctxOf (packOf s) i) s (threadOf s)).2 := by
  intro q hq
  rw [h] at hq
  exact Option.some.inj hq ▸ r

def ldsOp := ms 4 6 4 0x10
/-- The last quad of the allocation. -/
theorem wit_lds : AccessMet (.lds ldsOp) (basedAt (.lds ldsOp) 0x3FE0) :=
  ⟨lone_of (by decide), room_of _ rfl (by unfold countsRoom; decide), _, .scratch _ 0 0x3FF0 _ rfl
    ⟨⟨by decide, by decide, rfl⟩, .inl rfl, by decide, by decide, rfl, by decide⟩ (by decide)⟩
def stsOp := ms 3 6 0 0x3FFF
theorem wit_sts : AccessMet (.sts stsOp) (basedAt (.sts stsOp) 0) :=
  ⟨lone_of (by decide), room_of _ rfl (by unfold countsRoom; decide), _, .scratch _ 0 0x3FFF _ rfl
    ⟨⟨by decide, by decide, rfl⟩, .inl rfl, by decide, by decide, rfl, by decide⟩ (by decide)⟩
def atomsOp := ms 3 6 2 0
theorem wit_atoms : AccessMet (.atoms atomsOp) (basedAt (.atoms atomsOp) 8) :=
  ⟨lone_of (by decide), room_of _ rfl (by unfold countsRoom; decide), _, .scratch _ 0 8 _ rfl
    ⟨⟨by decide, by decide, rfl⟩, .inl rfl, by decide, by decide, rfl, by decide⟩ (by decide)⟩
def ldwOp := ms 3 6 2 0
theorem wit_ldw : AccessMet (.ldw ldwOp) (basedAt (.ldw ldwOp) 8) :=
  ⟨lone_of (by decide), room_of _ rfl (by unfold countsRoom; decide), _, .scratch _ 0 8 _ rfl
    ⟨⟨by decide, by decide, rfl⟩, .inr (by decide), by decide, by decide, rfl, by decide⟩ (by decide)⟩
/-- A store to the other role's scratchpad, OFF24 with PEER 1 and CR 1. -/
def peerOp := ms 3 6 2 0xA00000
theorem wit_member : AccessMet (.sts peerOp) (withPeer (basedAt (.sts peerOp) 8)) :=
  ⟨lone_of (by decide), room_of _ rfl (by unfold countsRoom; decide), _, .member _ rfl (by decide) (by decide) rfl⟩

/-- Loads, stores and reductions; the leaf is the placed one. -/
def pageLeaf : Nat := 2 ^ 63 + 2 ^ 8 + 3
theorem wit_ld : AccessMet (.ld (mr 4 6 4 0x40)) (basedAt (.ld (mr 4 6 4 0x40)) 0x1FFFB0) :=
  ⟨lone_of (by decide), room_of _ rfl (by unfold countsRoom; decide), _, .later _ 0x1FFFF0 pageLeaf rfl
    ⟨by decide, rfl, by decide, rfl⟩ (by decide) (by decide) (.inl (by decide))⟩
theorem wit_st : AccessMet (.st (mr 3 6 0 0)) (basedAt (.st (mr 3 6 0 0)) 0x5001) :=
  ⟨lone_of (by decide), room_of _ rfl (by unfold countsRoom; decide), _, .later _ 0x5001 pageLeaf rfl
    ⟨by decide, rfl, by decide, rfl⟩ (by decide) (by decide) (.inl (by decide))⟩
theorem wit_red : AccessMet (.red (mr 4 6 3 0)) (basedAt (.red (mr 4 6 3 0)) 0x5008) :=
  ⟨lone_of (by decide), room_of _ rfl (by unfold countsRoom; decide), _, .later _ 0x5008 pageLeaf rfl
    ⟨by decide, rfl, by decide, rfl⟩ (by decide) (by decide) (.inl (by decide))⟩
theorem wit_atom : AccessMet (.atom (mr 3 6 2 0)) (basedAt (.atom (mr 3 6 2 0)) 0x5004) :=
  ⟨lone_of (by decide), room_of _ rfl (by unfold countsRoom; decide), _, .now _ 0x5004 pageLeaf _ rfl
    ⟨by decide, rfl, by decide, rfl⟩ (by decide) (by decide) (by decide) rfl (by decide) (by decide)⟩
/-- A release store on a CHECKED page. -/
def checkedSt := sync (mr 3 6 2 0) 2
def checked (s : State) : State := withLeaf s (pageLeaf + 2 ^ 61)
theorem wit_now : AccessMet (.st checkedSt) (checked (basedAt (.st checkedSt) 0x5004)) :=
  ⟨lone_of (by decide), room_of _ rfl (by unfold countsRoom; decide), _, .now _ 0x5004 (pageLeaf + 2 ^ 61) _ rfl
    ⟨by decide, rfl, by decide, rfl⟩ (by decide) (by decide) (by decide) rfl (by decide) (by decide)⟩
/-- An access of the thread that is still outstanding, to bytes of a page. -/
def waiting (kind : OutKind) (a bytes : Nat) : Outstanding :=
  { id := 0, thread := placedName, lid := 1, asid := 0, region := 0, level := 0, kind := kind, va := BitVec.ofNat 57 a, bytes := bytes, pol := 1
    ord := 0, scope := 0, dst := 5, sx := false, aop := 0, data := 0x11223344, pc := { ca := 0x1000, wi := 0 }, word := 0, fid := none, peer := none
    tr := some (a, pageLeaf) }
def withOut (s : State) (o : Outstanding) : State :=
  { s with store := { s.store with outst := [o] }, work := { s.work with waitOrder := 1 } }
theorem wit_behind : AccessMet (.st checkedSt) (withOut (basedAt (.st checkedSt) 0x5004) (waiting .store 0x5000 4)) :=
  ⟨lone_of (by decide), room_of _ rfl (by unfold countsRoom; decide), _, .behind _ 0x5004 pageLeaf rfl
    ⟨by decide, rfl, by decide, rfl⟩ (by decide) (by decide) (by decide)⟩
/-- A releasing scratchpad store behind that store, and a load of a streamed tile's bytes before its channel has delivered them. -/
def relSts := sync stsOp 2
theorem wit_scratchBehind : AccessMet (.sts relSts) (withOut (basedAt (.sts relSts) 0) (waiting .store 0x5000 4)) :=
  ⟨lone_of (by decide), room_of _ rfl (by unfold countsRoom; decide), _, .scratchBehind _ 0 0x3FFF rfl
    ⟨by decide, by decide, rfl⟩ (.inl rfl) (by decide)⟩
def streamed (s : State) : State :=
  { s with engines := { s.engines with tiles := [
      { lid := 1, q := 0, group := 0, handle := 0, home := 0, current := 0, wrote := 0,
        bufs := [{ core := 0, lo := 0, size := 64, owner := .stream, bar := 0 }] }] } }
theorem wit_delivery : AccessMet (.ldw ldwOp) (streamed (basedAt (.ldw ldwOp) 8)) :=
  ⟨lone_of (by decide), room_of _ rfl (by unfold countsRoom; decide), _, .delivery _ 0 8 0 rfl
    ⟨by decide, by decide, rfl⟩ rfl (by decide) (by decide)⟩
/-- A load of the device's time counter through a page of device registers. -/
def deviceLeaf : Nat := pageLeaf + 2 ^ 56
def deviceState (i : Instr) : State :=
  { basedAt i 0x1000 with store := { (basedAt i 0x1000).store with
      tlb := [{ placedTrans with pa := 0xF000000000000, leaf := BitVec.ofNat 64 deviceLeaf }] } }
theorem wit_device : AccessMet (.ld (mr 4 6 3 0)) (deviceState (.ld (mr 4 6 3 0))) :=
  ⟨lone_of (by decide), room_of _ rfl (by unfold countsRoom; decide), _, .device _ 0xF000000001000 deviceLeaf rfl
    ⟨by decide, rfl, by decide, rfl⟩ (by decide) (.inl (by decide)) (by decide) rfl⟩
/-- A page that nothing maps, its table entry replayable: the root at 0x8000 of address space 0, its entry 0 with RPL. -/
def unmapped (i : Instr) : State :=
  withMem (withMem ({ (basedAt i 0x400000).setDreg regAstb 0x7000 with store := { ((basedAt i 0x400000).setDreg regAstb 0x7000).store with tlb := [] } })
    0x7000 8 (2 ^ 63 + 0x8000)) 0x8000 8 4
theorem wit_parked : AccessMet (.ld (mr 4 6 3 0)) (unmapped (.ld (mr 4 6 3 0))) :=
  ⟨lone_of (by decide), room_of _ rfl (by unfold countsRoom; decide), _, .parked _ 4 rfl (by decide) rfl (by decide) rfl⟩

/-- What the frames ask besides: LD, ST and RED at their word, and a scratchpad store. -/
def storeAt : State := basedAt (.st (mr 3 6 0 0)) 0x5001
def storeOf : Nat × Outstanding := accessOf (reqSt (mr 3 6 0 0)) (.st (mr 3 6 0 0)) storeAt (packOf storeAt) (threadOf storeAt)
theorem wit_issueFrame : killRegs (.st (mr 3 6 0 0)) = [] ∧ atOnce storeOf.2 pageLeaf = false ∧ storeAt.accessPoisoned storeOf.2 0x5001 pageLeaf = false ∧
    storeAt.watchpoints = [] ∧ (threadOf storeAt).boundary = [] ∧ (hStep (packOf storeAt).hdr && storeAt.stepOn 0) = false := by decide
def scratchAt : State := basedAt (.sts stsOp) 0
theorem wit_scratchFrame : canonical scratchAt = true ∧ killRegs (.sts stsOp) = [] ∧ (threadOf scratchAt).st ≠ .exited ∧ (threadOf scratchAt).boundary = [] ∧
    (accessOf (reqSts stsOp) (.sts stsOp) scratchAt (packOf scratchAt) (threadOf scratchAt)).2.sync = false ∧ unwatched scratchAt 0 = true ∧
    (hStep (packOf scratchAt).hdr && scratchAt.stepOn 0) = false := by decide

/-! ## Fences and cache control -/

def CacheMet (i : Instr) (s : State) : Prop :=
  Lone i s (packOf s) (threadOf s) ∧ ∃ s1, CacheRule s (packOf s) (threadOf s) i s1

/-- CCTL: the operation in OFF24 bits 23-20. -/
def cop (n : Nat) : MrOp := { mr 0 6 0 (BitVec.ofNat 24 (n * 2 ^ 20)) with pol := 0 }

theorem wit_fence : CacheMet (.fence { mr 0 0 0 0 with pol := 0, scope := 4, ord := 3 }) (placed (.fence { mr 0 0 0 0 with pol := 0, scope := 4, ord := 3 })) :=
  ⟨lone_of (by decide), _, .fence _ (by decide)⟩
theorem wit_cctlWb : CacheMet (.cctlWb (cop 0)) (basedAt (.cctlWb (cop 0)) 0x1FFFFF) :=
  ⟨lone_of (by decide), _, .line _ (cop 0) 0x1FFFFF placedTrans rfl (.inl (by decide)) (by decide) (by decide) rfl (by decide) (.inr (by decide))⟩
theorem wit_cctlWbinv : CacheMet (.cctlWbinv (cop 1)) (basedAt (.cctlWbinv (cop 1)) 0x5000) :=
  ⟨lone_of (by decide), _, .line _ (cop 1) 0x5000 placedTrans rfl (.inl (by decide)) (by decide) (by decide) rfl (by decide) (.inr (by decide))⟩
theorem wit_cctlIinv : CacheMet (.cctlIinv (cop 2)) (basedAt (.cctlIinv (cop 2)) 0x1000) :=
  ⟨lone_of (by decide), _, .line _ (cop 2) 0x1000 placedTrans rfl (.inr rfl) (by decide) (by decide) rfl (by decide) (.inl (by decide))⟩
theorem wit_lineNone : CacheMet (.cctlWb (cop 0)) (withLeaf (basedAt (.cctlWb (cop 0)) 0x5000) deviceLeaf) :=
  ⟨lone_of (by decide), _, .lineNone _ (cop 0) 0x5000 { placedTrans with leaf := BitVec.ofNat 64 deviceLeaf } rfl (.inl (by decide)) (by decide) (by decide) rfl (by decide)⟩
theorem wit_lineLater : CacheMet (.cctlWb (cop 0)) (withOut (basedAt (.cctlWb (cop 0)) 0x5008) (waiting .store 0x5000 4)) :=
  ⟨lone_of (by decide), _, .lineLater _ (cop 0) 0x5008 placedTrans rfl (.inl (by decide)) (by decide) (by decide) rfl (by decide) (by decide) (by decide)⟩
theorem wit_cctlWball : CacheMet (.cctlWball { cop 3 with a := 0 }) (placed (.cctlWball { cop 3 with a := 0 })) ∧
    CacheMet (.cctlWball { cop 3 with a := 0 }) (withOut (placed (.cctlWball { cop 3 with a := 0 })) (waiting .store 0x5000 4)) :=
  ⟨⟨lone_of (by decide), _, .wball _ (by decide) (by decide)⟩, lone_of (by decide), _, .wballLater _ (by decide) (by decide)⟩
theorem wit_cctlIinvall : CacheMet (.cctlIinvall { cop 4 with a := 0 }) (placed (.cctlIinvall { cop 4 with a := 0 })) :=
  ⟨lone_of (by decide), _, .iinvall _⟩
theorem wit_cctlPf : CacheMet (.cctlPf (cop 5)) (basedAt (.cctlPf (cop 5)) 0x5000) :=
  ⟨lone_of (by decide), _, .pf _ 0x5000 placedTrans (by decide) (by decide) rfl rfl (by decide) (by decide)⟩
theorem wit_pfNone : CacheMet (.cctlPf (cop 5)) (withRegs (placed (.cctlPf (cop 5))) [(7, 0x2000000)]) :=
  ⟨lone_of (by decide), _, .pfNone _ (.inl (by decide))⟩
theorem fault_of {x : Walk} {l : Nat} (h : (match x with | .fault k => some k | _ => none) = some l) : x = .fault l := by cases x <;> simp_all
theorem wit_pfFault : CacheMet (.cctlPf (cop 5)) (unmapped (.cctlPf (cop 5))) :=
  ⟨lone_of (by decide), _, .pfFault _ 4 (fault_of (by decide))⟩
theorem wit_wset : CacheMet (.wset { mr 3 0 2 0x14 with pol := 0 }) (placed (.wset { mr 3 0 2 0x14 with pol := 0 })) :=
  ⟨lone_of (by decide), _, .wset _⟩

/-! ## Barriers, tiles, copies -/

def SyncMet (i : Instr) (s : State) : Prop :=
  Lone i s (packOf s) (threadOf s) ∧ ∃ s1 fate after, SyncRule s (packOf s) (threadOf s) i s1 fate after

def ag (d a b : RegF) (sub : BitVec 6) (imm : BitVec 16) : AgOp :=
  { d := d, a := a, g := 0, gn := false, scope := 0, ord := 0, b := b, kd := false, ka := false, kb := false, sub6 := sub, imm := imm }

/-- A barrier object at scratch offset 0x3FE0 with pending and reload bytes and arrivals. -/
def withBar (s : State) (pby rby par rar : Nat) : State :=
  { withScratch s 0x3FE0 24 (pby + rby * 2 ^ 64 + (par + rar * 2 ^ 32) * 2 ^ 128) with
    engines := { s.engines with marks := [{ core := 0, addr := 0x3FE0, queue := false, overBytes := 0, overArrivals := 0 }] } }
/-- The object's offset in V2. -/
def barred (i : Instr) (pby rby par rar : Nat) : State := withBar (withRegs (placed i) [(2, 0x3FE0)]) pby rby par rar
theorem atBar {i : Instr} {pby rby par rar : Nat} : AtObject (barred i pby rby par rar) (threadOf (barred i pby rby par rar)) 0x3FE0 placedGroup 0x3FE0 :=
  ⟨rfl, by decide, by decide, by decide⟩

theorem wit_binit : SyncMet (.binit (ag 4 2 6 0 0)) (withRegs (placed (.binit (ag 4 2 6 0 0))) [(2, 0x3FE0), (4, 16), (6, 1)]) :=
  ⟨lone_of (by decide), _, _, _, .binit _ placedGroup 0x3FE0 (by decide) ⟨rfl, by decide, by decide, by decide⟩ (by decide) (by decide) (by decide)⟩
theorem wit_barv : SyncMet (.barv (ag 0 2 0 0 4)) (barred (.barv (ag 0 2 0 0 4)) 0 0 4 4) :=
  ⟨lone_of (by decide), _, _, _, .barv _ placedGroup 0x3FE0 (by decide) atBar ⟨by decide, by decide⟩ (by decide)⟩
theorem wit_bwaitMet : SyncMet (.bwait (ag 0 2 0 0 1)) (barred (.bwait (ag 0 2 0 0 1)) 0 0 4 4) :=
  ⟨lone_of (by decide), _, _, _, .bwaitMet _ placedGroup 0x3FE0 (by decide) atBar ⟨by decide, by decide⟩ (by decide)⟩
theorem wit_bwait : SyncMet (.bwait (ag 0 2 0 0 0)) (barred (.bwait (ag 0 2 0 0 0)) 0 0 4 4) :=
  ⟨lone_of (by decide), _, _, _, .bwait _ placedGroup 0x3FE0 (by decide) atBar ⟨by decide, by decide⟩ (by decide)⟩
theorem wit_bsyncLast : SyncMet (.bsync (ag 0 2 0 0 0)) (barred (.bsync (ag 0 2 0 0 0)) 0 0 1 1) :=
  ⟨lone_of (by decide), _, _, _, .bsyncLast _ placedGroup 0x3FE0 _ (by decide) atBar ⟨by decide, by decide⟩ (by decide) (by decide) (by decide) rfl (by decide)⟩
theorem wit_bsync : SyncMet (.bsync (ag 0 2 0 0 0)) (barred (.bsync (ag 0 2 0 0 0)) 0 0 2 2) :=
  ⟨lone_of (by decide), _, _, _, .bsync _ placedGroup 0x3FE0 _ (by decide) atBar ⟨by decide, by decide⟩ (by decide) rfl (.inl (by decide))⟩

/-- A tile of handle 5: core role `role`, one buffer of 1,024 bytes at 0x1000, format `fmt`, release barrier at 0x3FE0. -/
def withTile (s : State) (role fmt : Nat) : State :=
  (s.setDreg (regTile 0 5) (2 ^ 63 + role * 2 ^ 61 + fmt * 2 ^ 55 + 0x1FF * 2 ^ 16 + 63)).setDreg (regTile 0 5 + 8) 0x100
def tileAt (role fmt : Nat) : Tile :=
  { handle := 5, lid := 1, q := 0, group := 0, home := { placedGroup with core := role, role := role, w := role }, fmt := fmt, chn := 0, nvb := 1, size := 1024
    offs := [0x1000], bar := 0x3FE0, key := 0 }
/-- Its instance with an owner. -/
def withInst (s : State) (o : Owner) : State :=
  { s with engines := { s.engines with tiles := [{ lid := 1, q := 0, group := 0, handle := 5, home := 0, bufs := [{ owner := o, core := 0, lo := 0x1000, size := 1024, bar := 0x3FE0 }], current := 0, wrote := 0 }] } }
theorem wit_town : SyncMet (.town (ag 0 0 0 0 5)) (withTile (placed (.town (ag 0 0 0 0 5))) 0 7) :=
  ⟨lone_of (by decide), _, _, _, .town _ placedGroup (tileAt 0 7) ⟨by decide, rfl, rfl, .inl (by decide)⟩ rfl⟩
theorem wit_townAgain : SyncMet (.town (ag 0 0 0 0 5)) (withInst (withTile (placed (.town (ag 0 0 0 0 5))) 0 7) .engine) :=
  ⟨lone_of (by decide), _, _, _, .town _ placedGroup (tileAt 0 7) ⟨by decide, rfl, rfl, .inr (by decide)⟩ rfl⟩
theorem wit_townStream : SyncMet (.town (ag 0 0 0 1 5)) (withTile (placed (.town (ag 0 0 0 1 5))) 0 7) :=
  ⟨lone_of (by decide), _, _, _, .town _ placedGroup (tileAt 0 7) ⟨by decide, rfl, rfl, .inl (by decide)⟩ rfl⟩
/-- The second role's workgroup runs on core 1, at home to the tile. -/
def withMember (s : State) : State :=
  withLaunch { withPeer s with work := { (withPeer s).work with groups := (withPeer s).work.groups ++ [{ placedGroup with core := 1, role := 1, w := 1 }] } }
    (fun l => { l with started := [0, 1] })
theorem wit_townFar : SyncMet (.town (ag 0 0 0 0 5)) (withTile (withMember (placed (.town (ag 0 0 0 0 5)))) 1 7) :=
  ⟨lone_of (by decide), _, _, _, .townFar _ placedGroup (tileAt 1 7) { tileAt 0 7 with home := placedGroup, key := 1 } ⟨by decide, rfl, rfl, .inl (by decide)⟩ (by decide) rfl⟩

theorem no_tile {x : TileRes} (h : (match x with | .ok _ => true | _ => false) = false) : ∀ m, x ≠ .ok m := by cases x <;> simp_all
/-- The second role's own workgroup is large enough for the tile, the first role's is not. -/
theorem wit_townFarOnly : SyncMet (.town (ag 0 0 0 0 5)) (withTile (withGroup (withMember (placed (.town (ag 0 0 0 0 5)))) (fun g => { g with size := 0x1000 * (4 * g.role) })) 1 7) :=
  ⟨lone_of (by decide), _, _, _, .townFarOnly _ { placedGroup with size := 0 } { tileAt 1 7 with home := { placedGroup with core := 1, role := 1, w := 1 } }
    ⟨by decide, rfl, rfl, .inl (by decide)⟩ (by decide) (no_tile (by decide))⟩

/-- A copy record at scratch offset 0x100: 16 bytes of a shape at 0x5000, whose array lies at 0x6000, to scratch offset 0x200. -/
def withCopyRec (s : State) : State :=
  withMem (withMem (withMem (withScratch (withScratch (withScratch s 0x100 8 0x5000) 0x108 8 (2 ^ 61 + 0x200))
    0x148 20 0x0001000100010001000100010001000100010010) 0x5000 8 0x6000) 0x5008 8 0x10) 0x5010 40 0x00000001000000010000000100000001000000010000000100000001000000010000000100000010
theorem issued_of {x : PlanRes} (h : (match x with | .ok _ _ => true | _ => false) = true) : ∃ s f, x = .ok s f := by cases x <;> simp_all
theorem wit_cpy : SyncMet (.cpy (ag 0 3 0 0 0)) (withCopyRec (withRegs (placed (.cpy (ag 0 3 0 0 0))) [(3, 0x100)])) :=
  have ⟨_, _, h⟩ := issued_of (by decide +kernel)
  ⟨lone_of (by decide), _, _, _, .cpy _ _ _ (by decide) (.inr (by decide)) h⟩
theorem wit_cpys : SyncMet (.cpys (ag 0 3 0 0 0)) (withCopyRec (withRegs (placed (.cpys (ag 0 3 0 0 0))) [(3, 0x100)])) :=
  have ⟨_, _, h⟩ := issued_of (by decide +kernel)
  ⟨lone_of (by decide), _, _, _, .cpys _ _ _ (by decide) (.inr (by decide)) h⟩
theorem wit_cseal : SyncMet (.cseal (ag 0 0 0 0 0)) (placed (.cseal (ag 0 0 0 0 0))) := ⟨lone_of (by decide), _, _, _, .cseal _ (by decide)⟩
/-- A thread with one sealed batch that is neither read nor landed. -/
def batched (i : Instr) : State :=
  withThread (placed i) (fun t => { t with batches := [{ key := 0, number := some 0, unread := [0], unlanded := [0], err := none, reported := false }], nextSeal := 1 })
theorem wit_cwaitRel : SyncMet (.cwaitRel (ag 0 0 0 0 0)) (placed (.cwaitRel (ag 0 0 0 0 0))) ∧ SyncMet (.cwaitRel (ag 0 0 0 0 0)) (batched (.cwaitRel (ag 0 0 0 0 0))) :=
  ⟨⟨lone_of (by decide), _, _, _, .cwaitRelMet _ (by decide) (by decide)⟩, lone_of (by decide), _, _, _, .cwaitRel _ (by decide) (by decide)⟩
theorem wit_cwaitLnd : SyncMet (.cwaitLnd (ag 0 0 0 1 1)) (batched (.cwaitLnd (ag 0 0 0 1 1))) ∧ SyncMet (.cwaitLnd (ag 0 0 0 1 0)) (batched (.cwaitLnd (ag 0 0 0 1 0))) :=
  ⟨⟨lone_of (by decide), _, _, _, .cwaitLndMet _ (by decide) (by decide)⟩, lone_of (by decide), _, _, _, .cwaitLnd _ (by decide) (by decide)⟩

/-! ## Queues and rings -/

def QueueMet (i : Instr) (s : State) : Prop :=
  (Lone i s (packOf s) (threadOf s) ∧ unwatched s 0 = true ∧ bit (s.dbg 0 0x300) 63 = false) ∧
  ∃ s1 fate, QueueRule s (packOf s) (threadOf s) i s1 fate

/-- A queue of two entries of 16 bytes at 0x1000, one producer and one consumer, with `n` entries in it. -/
def queue (n : Nat) : Queue :=
  { cap := 2, esz := 1, npr := 1, nco := 1, base := 0x1000, sv := false, spa := 0, scap := 0, scnt := 0, tail := n, head := 0, blkp := 0, blkc := 0, pex := 0
    clsd := false, spl := false, dl := false }
/-- Its descriptor at 0x3FC0, named by V2; the entry in V4 to V7; the target in V8. -/
def queued (i : Instr) (q : Queue) : State :=
  ((withRegs (placed i) [(2, 0x3FC0), (4, 1), (5, 2), (6, 3), (7, 4), (8, 0x3F00)]).putMark 0 0x3FC0 true).writeQueue 0 0x3FC0 q
def ref : QRef := { g := placedGroup, a := 0x3FC0 }
theorem made_of {s : State} (h : ((s.mark? 0 0x3FC0 true).isSome && !s.scratchPoisoned 0 0x3FC0 64) = true) : made s ref := by
  simpa [made, ref, placedGroup] using h

theorem wit_qpush : QueueMet (.qpush (ag 4 2 0 0 0)) (queued (.qpush (ag 4 2 0 0 0)) (queue 1)) :=
  ⟨⟨lone_of (by decide), by decide, by decide⟩, _, _, .push _ (ag 4 2 0 0 0) false ref (queue 1) rfl (by decide) ⟨rfl, by decide, by decide, by decide⟩
    (made_of (by decide)) (by decide) ⟨by decide, by decide, by decide⟩ (by decide) (by decide) (by decide) (by decide)⟩
theorem wit_qpushC : QueueMet (.qpushC (ag 4 2 0 1 0)) (queued (.qpushC (ag 4 2 0 1 0)) (queue 2)) :=
  ⟨⟨lone_of (by decide), by decide, by decide⟩, _, _, .pushWait _ (ag 4 2 0 1 0) true ref (queue 2) rfl (by decide) ⟨rfl, by decide, by decide, by decide⟩
    (made_of (by decide)) (by decide) ⟨by decide, by decide, by decide⟩ (by decide) (.inr (.inl (by decide)))⟩
/-- One spilled entry, and a region for two at 0x5000. -/
def spilled : Queue := { queue 3 with sv := true, spa := 0x5000, scap := 2, scnt := 1, spl := true }
theorem stored_of {x : SpillRes State} (h : (match x with | .ok _ => true | _ => false) = true) : ∃ s, x = .ok s := by cases x <;> simp_all
theorem wit_pushSpill : QueueMet (.qpush (ag 4 2 0 0 0)) (queued (.qpush (ag 4 2 0 0 0)) spilled) :=
  have ⟨_, h⟩ := stored_of (by decide +kernel)
  ⟨⟨lone_of (by decide), by decide, by decide⟩, _, _, .pushSpill _ (ag 4 2 0 0 0) false ref spilled _ rfl (by decide) ⟨rfl, by decide, by decide, by decide⟩
    (made_of (by decide)) (by decide) ⟨by decide, by decide, by decide⟩ (by decide) (by decide) (by decide) (by decide) (by decide) h⟩
theorem wit_qpushClose : QueueMet (.qpushClose (ag 0 2 0 3 0)) (queued (.qpushClose (ag 0 2 0 3 0)) (queue 0)) :=
  ⟨⟨lone_of (by decide), by decide, by decide⟩, _, _, .close _ ref (queue 0) (by decide) ⟨rfl, by decide, by decide, by decide⟩
    (made_of (by decide)) (by decide) (by decide) (by decide)⟩
theorem wit_qpop : QueueMet (.qpop (ag 0 2 8 0 0)) (queued (.qpop (ag 0 2 8 0 0)) (queue 1)) :=
  ⟨⟨lone_of (by decide), by decide, by decide⟩, _, _, .pop _ (ag 0 2 8 0 0) none ref (queue 1) rfl (by decide) ⟨rfl, by decide, by decide, by decide⟩
    (made_of (by decide)) (by decide) (by decide) (by decide) (by decide) (by decide) (by decide) (by decide)⟩
theorem wit_qpopE : QueueMet (.qpopE (ag 1 2 8 1 0)) (queued (.qpopE (ag 1 2 8 1 0)) { queue 0 with clsd := true, pex := 1 }) :=
  ⟨⟨lone_of (by decide), by decide, by decide⟩, _, _, .popEnd _ (ag 1 2 8 1 0) (some 1) ref { queue 0 with clsd := true, pex := 1 } rfl (by decide)
    ⟨rfl, by decide, by decide, by decide⟩ (made_of (by decide)) (by decide) (by decide) (by decide) (by decide) (by decide) (by decide) (by decide)⟩
theorem wit_popWait : QueueMet (.qpop (ag 0 2 8 0 0)) (queued (.qpop (ag 0 2 8 0 0)) (queue 0)) :=
  ⟨⟨lone_of (by decide), by decide, by decide⟩, _, _, .popWait _ (ag 0 2 8 0 0) none ref (queue 0) rfl (by decide) ⟨rfl, by decide, by decide, by decide⟩
    (made_of (by decide)) (by decide) (by decide) (by decide) (by decide) (by decide) (by decide)⟩
theorem wit_qpushAmp : QueueMet (.qpushAmp (ag 4 2 4 2 0xFF)) (queued (.qpushAmp (ag 4 2 4 2 0xFF)) (queue 0)) :=
  ⟨⟨lone_of (by decide), by decide, by decide⟩, _, _, .amp _ ref (queue 0) (by decide) ⟨rfl, by decide, by decide, by decide⟩
    (made_of (by decide)) (by decide) ⟨by decide, by decide, by decide⟩ (by decide) (.inl (by decide)) (by decide) (by decide) (by decide)⟩
theorem wit_ampDrop : QueueMet (.qpushAmp (ag 4 2 8 2 0xFF)) (queued (.qpushAmp (ag 4 2 8 2 0xFF)) (queue 0)) :=
  ⟨⟨lone_of (by decide), by decide, by decide⟩, _, _, .ampDrop _ ref (queue 0) (by decide) ⟨rfl, by decide, by decide, by decide⟩
    (made_of (by decide)) (by decide) ⟨by decide, by decide, by decide⟩ (by decide) (.inl (by decide)) (.inl (by decide))⟩

def RingMet (i : Instr) (s : State) : Prop :=
  Lone i s (packOf s) (threadOf s) ∧ ∃ s1 fate, RingRule s (packOf s) (threadOf s) i s1 fate

/-- Ring 3: two slots of four lines of 16 bytes, unbound, with some slots outside FREE. -/
def withRing (s : State) (l : List RingSlot) : State :=
  (s.setDreg (regRing 3) (2 ^ 63 + 2 ^ 50 + 3 * 2 ^ 44 + 2 ^ 28)).setSlots l
def slotOf (st : SlotState) : RingSlot :=
  { ring := 3, slot := 0, st := st, seq := 0, owner := some (.wg 0 0 1), hold := none, publishing := false, lid := 1 }
/-- The ring's number and slot 0 in V2. -/
def ringed (i : Instr) (l : List RingSlot) : State := withRing (withRegs (placed i) [(2, 3), (4, 0x300)]) l

theorem wit_rgacq : RingMet (.rgacq (ag 5 2 0 0 0)) (ringed (.rgacq (ag 5 2 0 0 0)) []) :=
  ⟨lone_of (by decide), _, _, .acquire _ placedGroup 0 _ (by decide) ⟨rfl, by decide, by decide⟩ (by decide) (by decide) rfl⟩
theorem wit_ringWait : RingMet (.rgacq (ag 5 2 0 1 0)) (ringed (.rgacq (ag 5 2 0 1 0)) []) :=
  ⟨lone_of (by decide), _, _, .wait _ placedGroup (by decide) ⟨rfl, by decide, by decide⟩ (by decide) (.inr rfl)⟩
theorem wit_rgrelRel : RingMet (.rgrelRel (ag 0 2 0 1 0)) (ringed (.rgrelRel (ag 0 2 0 1 0)) [slotOf .draining]) :=
  ⟨lone_of (by decide), _, _, .release _ placedGroup (slotOf .draining) ⟨by decide, ⟨rfl, by decide, by decide⟩, by decide, by decide, by decide⟩⟩
/-- All four lines, from line 0. -/
theorem wit_rghold : RingMet (.rghold (ag 0 2 4 0 0)) (ringed (.rghold (ag 0 2 4 0 0)) [slotOf .draining]) :=
  ⟨lone_of (by decide), _, _, .hold _ placedGroup (slotOf .draining) 0x300 (by decide) (by decide) (by decide)
    ⟨by decide, ⟨rfl, by decide, by decide⟩, by decide, by decide, by decide⟩ (by decide)⟩
theorem wit_rgrelPub : Lone (.rgrelPub (ag 0 2 0 0 0)) (ringed (.rgrelPub (ag 0 2 0 0 0)) [slotOf .filling]) (packOf (placed (.rgrelPub (ag 0 2 0 0 0))))
      (threadOf (ringed (.rgrelPub (ag 0 2 0 0 0)) [])) ∧
    HoldsSlot (ringed (.rgrelPub (ag 0 2 0 0 0)) [slotOf .filling]) (threadOf (ringed (.rgrelPub (ag 0 2 0 0 0)) [])) 3 .filling placedGroup (slotOf .filling) ∧
    (slotOf .filling).publishing = false :=
  ⟨lone_of (i := .rgrelPub (ag 0 2 0 0 0)) (s := ringed (.rgrelPub (ag 0 2 0 0 0)) [slotOf .filling]) (by decide),
    ⟨by decide, ⟨rfl, by decide, by decide⟩, by decide, by decide, by decide⟩, by decide⟩
/-- CAP 2, ESZ 1, NPR 1, NCO 1 and the entries at 0x1000. -/
theorem wit_qinit : RingMet (.qinit (ag 4 2 127 0 0)) (withRegs (placed (.qinit (ag 4 2 127 0 0))) [(2, 0x3FC0), (4, 0x1000), (5, 0x204104)]) :=
  ⟨lone_of (by decide), _, _, .qinit _ ref (queue 0) ⟨rfl, by decide, by decide, by decide⟩ (by decide) (by decide) (by decide) (by decide)
    (.inr (by decide)) (.inl (by decide))⟩

/-! ## System words -/

def SystemMet (i : Instr) (s : State) : Prop :=
  Lone i s (packOf s) (threadOf s) ∧ ∃ s1 fate after, SystemRule s (packOf s) (threadOf s) i s1 fate after

def sy (a : RegF) (sub : BitVec 12) (d : RegF) (imm : BitVec 16) : SyOp := { g := 0, gn := false, a := a, sub12 := sub, d := d, ka := false, imm := imm }

theorem wit_nop : SystemMet .nop (placed .nop) := ⟨lone_of (by decide), _, _, _, .nop⟩
theorem wit_sread : SystemMet (.sread (sy 0 0x40 5 0)) (placed (.sread (sy 0 0x40 5 0))) ∧ SystemMet (.sread (sy 0 0x20 4 0)) (placed (.sread (sy 0 0x20 4 0))) :=
  ⟨⟨lone_of (by decide), _, _, _, .sread _ (by decide) (by decide)⟩, lone_of (by decide), _, _, _, .sreadDtc _ (by decide) (by decide)⟩
theorem wit_swrite : SystemMet (.swrite (sy 5 0x40 0 0)) (withRegs (placed (.swrite (sy 5 0x40 0 0))) [(5, 5)]) ∧
    SystemMet (.swrite (sy 5 0x41 0 0)) (withRegs (placed (.swrite (sy 5 0x41 0 0))) [(5, 0x1F)]) :=
  ⟨⟨lone_of (by decide), _, _, _, .fctl _ (by decide) (by decide)⟩, lone_of (by decide), _, _, _, .fstat _ (by decide) (by decide)⟩
theorem wit_roleq : SystemMet (.roleq (sy 0 0 5 0)) (placed (.roleq (sy 2 0 5 0))) := ⟨lone_of (by decide), _, _, _, .roleq _⟩
theorem wit_trap : SystemMet (.trap (sy 0 0 0 7)) (placed (.trap (sy 0 0 0 7))) := ⟨lone_of (by decide), _, _, _, .trap _⟩
theorem wit_bkpt : SystemMet (.bkpt (sy 0 0xFFF 0 0)) (placed (.bkpt (sy 0 0xFFF 0 0))) := ⟨lone_of (by decide), _, _, _, .bkpt _⟩

def placedHandling : Handling := { trapped := some placedName, recSlot := 0, cause := 0x1D, tval := 0, entryResume := { ca := 0x1000, wi := 0 }, kept := [] }
/-- The placed word in the handler context of the launched thread, whose state is `st`. -/
def context (i : Instr) (regs : List (Nat × Nat)) (st : TState) : State :=
  let s := withRegs (withPack (withThread (placed i) (fun t => { t with name := { placedName with ctx := 1 }, level := 1, handling := some placedHandling }))
    (fun p => { p with threads := [{ placedName with ctx := 1 }] })) regs
  { s with work := { s.work with threads := s.work.threads ++ [{ newThread placedName 1 0 0 0x1000 0 0 with st := st }] } }
def supervised (i : Instr) : State := context i [] .exited

theorem wit_tlbi : SystemMet (.tlbiPage (sy 2 0 0 0)) (supervised (.tlbiPage (sy 2 0 0 0))) ∧ SystemMet (.tlbiAsid (sy 0 1 0 0)) (supervised (.tlbiAsid (sy 0 1 0 0))) ∧
    SystemMet (.tlbiAll (sy 0 2 0 0)) (supervised (.tlbiAll (sy 0 2 0 0))) :=
  ⟨⟨lone_of (by decide), _, _, _, .page _ rfl (by decide)⟩, ⟨lone_of (by decide), _, _, _, .asid _ rfl (by decide)⟩, lone_of (by decide), _, _, _, .all _ rfl (by decide)⟩
/-- Its accesses have been performed. -/
theorem wit_tlbiWaited : SystemMet (.tlbiAll (sy 0 2 0 0)) (withPack (supervised (.tlbiAll (sy 0 2 0 0))) (fun p => { p with tlbi := some [3] })) :=
  ⟨lone_of (by decide), _, _, _, .waited _ _ [3] (.inr (.inr rfl)) rfl (by decide)⟩
theorem wit_tretEnd : SystemMet (.tretEnd (sy 0 1 0 0)) (context (.tretEnd (sy 0 1 0 0)) [] (.suspended .trapped)) :=
  ⟨lone_of (by decide), _, _, _, .tretEnd _ placedHandling rfl (by decide)⟩
theorem wit_tretAlone : SystemMet (.tret (sy 0 0 0 0)) (supervised (.tret (sy 0 0 0 0))) :=
  ⟨lone_of (by decide), _, _, _, .tretAlone _ placedHandling rfl (by decide) (by decide)⟩
/-- The record at 0x10000 + ... of slot 0 holds the resume point 0x1000, word 0. -/
def returning : State := context (.tret (sy 0 0 0 0)) [] (.suspended .trapped)
def recordAt : Nat := returning.recordVa placedGroup 0
theorem wit_tret : SystemMet (.tret (sy 0 0 0 0)) (withMem returning (recordAt + 0x10) 8 0x1000) :=
  ⟨lone_of (by decide +kernel), _, _, _, .tret _ placedHandling { newThread placedName 1 0 0 0x1000 0 0 with st := .suspended .trapped } placedGroup recordAt 0x1000 pageLeaf _ _
    rfl (by decide +kernel) (by decide +kernel) rfl rfl (by decide +kernel) rfl (by decide +kernel) (by decide +kernel) (by decide +kernel) (by decide +kernel)⟩

theorem wit_pfx : Lone (.pfx 0 0) (placed (.pfx 0 0)) (packOf (placed (.pfx 0 0))) (threadOf (placed (.pfx 0 0))) := lone_of (by decide)

/-! ## Context-switch words -/

def ImageMet (i : Instr) (s : State) : Prop :=
  Lone i s (packOf s) (threadOf s) ∧ ∃ s1 after, ImageRule s (threadOf s) i s1 after

/-- What an image access brings, where it goes well. -/
def imgOk {α : Type} (x : ImgRes α) : Bool := match x with | .ok _ _ _ => true | _ => false
def imgVal {α : Type} (d : α) (x : ImgRes α) : α := match x with | .ok v _ _ => v | _ => d
def imgHits {α : Type} (x : ImgRes α) : List Nat := match x with | .ok _ h _ => h | _ => []
def imgState {α : Type} (x : ImgRes α) : State := match x with | .ok _ _ s => s | _ => State.reset
theorem img_eq {α : Type} {x : ImgRes α} (d : α) (h : imgOk x = true) : x = .ok (imgVal d x) (imgHits x) (imgState x) := by
  cases x <;> simp_all [imgOk, imgVal, imgHits, imgState]
theorem img_unit {x : ImgRes Unit} (h : imgOk x = true) : x = .ok () (imgHits x) (imgState x) := by
  cases x <;> simp_all [imgOk, imgHits, imgState]
theorem make_of {x : MakeRes} (h : (match x with | .ok _ _ => true | _ => false) = true) : ∃ k s, x = .ok k s := by cases x <;> simp_all

/-- An image at 0x8000, the launched thread for its target. -/
def imaging (i : Instr) (st : TState) : State := context i [(4, 0x8000)] st
/-- The same from a service context, the workgroup held. -/
def serviced (i : Instr) (st : TState) : State :=
  (withThread (imaging i st) (fun t => { t with handling := t.handling.map (fun h => { h with trapped := none }) })).setDreg (regHold 0 0) 1
def launched (st : TState) : Thread := { newThread placedName 1 0 0 0x1000 0 0 with st := st }
/-- An image at 0x8000 of a thread at word 0 of 0x1000, all its registers 0, in a state (R369): SIG, STATE and P0, and the position. -/
def savedImage (s : State) (state : Nat) : State := withMem s 0x8200 16 (0x1000 * 2 ^ 64 + 0x5E17 * 2 ^ 48 + state * 2 ^ 44 + 1)

def copyWord : Instr := .ctxsvCopy (sy 4 0 5 0)
theorem wit_ctxsvCopy : ImageMet copyWord (imaging copyWord (.suspended .trapped)) :=
  ⟨lone_of (by decide), _, _, .copy _ (launched (.suspended .trapped)) _ _ (.inl ⟨_, rfl⟩)
    ⟨by decide, by decide, by decide, by decide, ⟨by decide, by decide, by decide, nofun, nofun, nofun⟩, _, _, _, _,
      img_eq [] (by decide +kernel), rfl, img_unit (by decide +kernel)⟩⟩
def relWord : Instr := .ctxsvRel (sy 4 1 5 0)
theorem wit_ctxsvRel : ImageMet relWord (serviced relWord .ready) :=
  ⟨lone_of (by decide), _, _, .rel _ (launched .ready) _ _ (by decide) (by decide)
    ⟨by decide, by decide, by decide, by decide, ⟨by decide, by decide, by decide, nofun, nofun, nofun⟩, _, _, _, _,
      img_eq [] (by decide +kernel), rfl, img_unit (by decide +kernel)⟩⟩
def regsWord : Instr := .ctxldRegs (sy 4 0 5 0)
def regsState : State := savedImage (imaging regsWord (.suspended .trapped)) 3
theorem wit_ctxldRegs : ImageMet regsWord regsState :=
  ⟨lone_of (by decide +kernel), _, _, .regs _ (launched (.suspended .trapped)) _ _ _ _ _ _ .trapped rfl
    ⟨by decide +kernel, by decide +kernel, by decide +kernel, by decide +kernel, img_eq [] (by decide +kernel), by decide +kernel⟩
    (img_eq [] (by decide +kernel))⟩
def fullWord : Instr := .ctxldFull (sy 4 1 5 0)
def restoredGroup : Workgroup := { placedGroup with restored := true }
def fullState : State := savedImage (withGroup (serviced fullWord .saved) (fun _ => restoredGroup)) 0
theorem wit_ctxldFull : ImageMet fullWord fullState :=
  have ⟨_, h⟩ := Option.isSome_iff_exists.mp (by decide +kernel)
  ⟨lone_of (by decide +kernel), _, _, .full _ (launched .saved) restoredGroup _ _ _ _ _ _ _ rfl (by decide +kernel) rfl
    ⟨by decide +kernel, by decide +kernel, by decide +kernel, by decide +kernel, img_eq [] (by decide +kernel), by decide +kernel⟩
    (img_eq [] (by decide +kernel)) h⟩
/-- No thread 31 of the slot. -/
theorem wit_imageNone : ∀ i, (i = copyWord ∨ i = relWord ∨ i = regsWord ∨ i = fullWord) →
    ∃ s, ImageMet i s := by
  intro i h
  rcases h with rfl | rfl | rfl | rfl
  · exact ⟨context copyWord [(4, 0x8000), (6, 31)] .ready, lone_of (by decide), _, _, .copyNone _ (by decide) (by decide) (by decide) (by decide)⟩
  · exact ⟨context relWord [(4, 0x8000), (6, 31)] .ready, lone_of (by decide), _, _, .relNone _ (by decide) (by decide) (by decide) (by decide)⟩
  · exact ⟨context regsWord [(4, 0x8000), (6, 31)] .ready, lone_of (by decide), _, _, .regsNone _ (by decide) (by decide) (by decide) (by decide)⟩
  · exact ⟨context fullWord [(4, 0x8000), (6, 31)] .ready, lone_of (by decide), _, _, .fullNone _ (by decide) (by decide) (by decide) (by decide)⟩

/-! ## Workgroup images -/

/-- A second workgroup, in slot 1, whose one thread is SAVED; neither has a scratchpad. -/
def other : Workgroup := { placedGroup with slot := 1, w := 1, size := 0, restored := true }
def otherThread : Thread := { newThread { placedName with slot := 1 } 1 0 0 0x1000 0 0 with st := .saved }
def twoGroups (i : Instr) (g : Workgroup) (t : Thread) : State :=
  let s := withLaunch (context i [(4, 0x8000), (6, 0x1000)] .exited) (fun l => { l with scrk := 0, levels := [{ scope := 2, dom := 2, ext := 2 }] })
  { s with work := { s.work with groups := [{ placedGroup with size := 0 }, g], threads := s.work.threads ++ [t] } }

def saveWord : Instr := .ctxsvWg (sy 4 2 5 0)
theorem wit_ctxsvWg : ImageMet saveWord ((twoGroups saveWord other otherThread).setDreg (regHold 0 1) 1) :=
  ⟨lone_of (by decide), _, _, .wg _ other _ _ (by decide) (by decide) (by decide) (by decide) (by decide) (img_unit (by decide +kernel)) (by decide)⟩

/-- The same workgroup saved and away, and its image: SIG, launch 1, workgroup 1, crew mask 1, class 1 (R370); no other
byte of memory. -/
def loadWord : Instr := .ctxldWg (sy 4 2 5 0)
def loadState : State :=
  let s := twoGroups loadWord { other with slot := 64, away := some { recs := [], marks := [] } } { otherThread with name := { placedName with slot := 64 } }
  withMem { s with store := { s.store with mem := [] } } 0x8000 16 ((2 ^ 49 + 2 ^ 47) * 2 ^ 64 + 0x5E18 * 2 ^ 48 + 2 ^ 32 + 1)
/-- The two reads of the word. -/
def headRead : ImgRes (List Byte) :=
  loadState.imageRead (threadOf loadState).name (loadState.asidOf (threadOf loadState).name) (threadOf loadState).level (ctxOperands (threadOf loadState) (sy 4 2 5 0)).1 192
def tailRead : ImgRes (List Byte) :=
  (imgState headRead).imageRead (threadOf loadState).name (loadState.asidOf (threadOf loadState).name) (threadOf loadState).level
    ((ctxOperands (threadOf loadState) (sy 4 2 5 0)).1 + 12288) (128 * bits (fieldOf (imgVal [] headRead) 8 8) 63 53)
theorem wit_ctxldWg : ImageMet loadWord loadState :=
  have ⟨k, _, h⟩ := make_of (x := State.createGroup (imgState tailRead) (threadOf loadState).name.core 1 (imgVal [] headRead ++ imgVal [] tailRead)) (by decide +kernel)
  ⟨lone_of (by decide), _, _, .load _ 1 k 0 _ _ _ _ _ _ _ (by decide) (by decide) (by decide) (by decide)
    (img_eq (x := headRead) [] (by decide +kernel)) (by decide +kernel) (img_eq (x := tailRead) [] (by decide +kernel)) h
    (fun x hx => by
      have e : ((imgState tailRead).savedGroup (threadOf loadState).name.core (imgVal [] headRead)).all (fun x => x.2.1.slot != 0) = true := by
        decide +kernel
      rw [hx] at e
      exact (bne_iff_ne.mp e : _))⟩

/-! ## Vector, cross-lane and XFN words -/

def vr (d a b c : RegF) (ty sub : BitVec 4) : VOp := .r d a b c false false false ty sub
/-- One word of each VEC instruction but XEQ. -/
def integerWords : List Instr :=
  [.iadd (vr 2 4 6 0 11 0), .iadc (vr 2 4 6 0 3 15), .isub (vr 2 4 6 0 11 0), .imul (vr 2 4 6 0 3 0), .imulh (vr 2 4 6 0 3 0), .imad (vr 2 4 6 8 3 0),
   .imin (vr 2 4 6 0 11 0), .imax (vr 2 4 6 0 11 0), .iabs (vr 2 4 0 0 10 0), .icmp (vr 2 4 6 0 3 5), .lea (vr 2 4 6 0 1 15)]
def logicWords : List Instr :=
  [.and (vr 2 4 6 0 3 1), .or (vr 2 4 6 0 3 1), .xor (vr 2 4 6 0 3 1), .shl (vr 2 4 6 0 3 0), .shr (vr 2 4 6 0 3 0), .sar (vr 2 4 6 0 2 0),
   .bfe (vr 2 4 6 0 3 0), .bfi (vr 2 4 6 8 3 0), .popc (vr 2 4 0 0 3 0), .clz (vr 2 4 0 0 3 0), .brev (vr 2 4 0 0 3 0)]
def floatWords : List Instr :=
  [.fadd (vr 2 4 6 0 7 0), .fsub (vr 2 4 6 0 7 0), .fmul (vr 2 4 6 0 7 0), .ffma (vr 2 4 6 8 7 0), .fmin (vr 2 4 6 0 7 0), .fmax (vr 2 4 6 0 7 0),
   .fminn (vr 2 4 6 0 7 0), .fmaxn (vr 2 4 6 0 7 0), .fcmp (vr 2 4 6 0 5 7), .fclass (vr 2 4 0 0 5 0), .frnd (vr 2 4 0 0 7 0), .frndX (vr 2 4 0 0 7 1),
   .fcvt (vr 2 4 6 0 4 3), .icvt (vr 2 4 0 0 3 11), .dsubs (vr 2 4 6 0 5 0)]
def moveWords : List Instr :=
  [.mov (vr 2 4 0 0 3 1), .movi (.i 5 0 1 0 false 0x1234), .sel (vr 2 4 6 0 3 15), .plop (.i 4 1 1 0 false 0x32D0), .pmov (vr 2 4 0 0 1 3),
   .perm (vr 2 4 6 0 3 3), .bcst (vr 2 4 6 0 3 0), .vote (vr 2 4 0 0 1 3), .redx (vr 2 4 0 0 5 2), .scanx (vr 2 4 0 0 5 2), .match (vr 2 4 0 0 3 1)]

/-- A word that meets the hypotheses of the statement about one-thread packs, and, raising no enabled trap, of the one about all packs. -/
def VectorMet (i : Instr) (s : State) : Prop :=
  ∃ o sp r, vecSpec i = some (o, sp) ∧ Lone i s (packOf s) (threadOf s) ∧
    vectorResult i (ctxOf (packOf s) i) s o sp (threadOf s) = some r ∧ killRegs i = [] ∧ (packOf s).threads.Nodup ∧ (threadOf s).fctl = 0
def vectorB (i : Instr) (s : State) : Bool :=
  loneB i s && (match vecSpec i with | some (o, sp) => (vectorResult i (ctxOf (packOf s) i) s o sp (threadOf s)).isSome | none => false) &&
    (killRegs i).isEmpty && decide (packOf s).threads.Nodup && (threadOf s).fctl == 0
theorem vector_of {i : Instr} {s : State} (h : vectorB i s = true) : VectorMet i s := by
  simp only [vectorB, Bool.and_eq_true, decide_eq_true_eq, beq_iff_eq, List.isEmpty_iff] at h
  obtain ⟨⟨⟨⟨h1, h2⟩, h3⟩, h4⟩, h5⟩ := h
  split at h2
  · rename_i o sp e
    obtain ⟨r, hr⟩ := Option.isSome_iff_exists.mp h2
    exact ⟨o, sp, r, e, lone_of h1, hr, h3, h4, h5⟩
  · cases h2
theorem all_of {l : List Instr} {f : Instr → Bool} (h : l.all f = true) : ∀ i ∈ l, f i = true := List.all_eq_true.mp h

theorem wit_integer : ∀ i ∈ integerWords, VectorMet i (placed i) := fun i hi => vector_of (all_of (f := fun i => vectorB i (placed i)) (by decide) i hi)
theorem wit_logic : ∀ i ∈ logicWords, VectorMet i (placed i) := fun i hi => vector_of (all_of (f := fun i => vectorB i (placed i)) (by decide) i hi)
theorem wit_float : ∀ i ∈ floatWords, VectorMet i (placed i) := fun i hi => vector_of (all_of (f := fun i => vectorB i (placed i)) (by decide) i hi)
theorem wit_move : ∀ i ∈ moveWords, VectorMet i (placed i) := fun i hi => vector_of (all_of (f := fun i => vectorB i (placed i)) (by decide) i hi)

def xfnWords : List Instr :=
  [.logc (vr 2 4 0 0 4 15), .expc (vr 2 4 0 0 4 0), .lscl (vr 2 4 6 0 0 0), .fsin (vr 2 4 0 0 4 0), .fcos (vr 2 4 0 0 4 0), .actv (vr 2 4 0 0 4 4),
   .rcp (vr 2 4 0 0 4 0), .rsq (vr 2 4 0 0 4 0)]
def XfnMet (i : Instr) (s : State) : Prop :=
  ∃ o sp r, vecSpec i = some (o, sp) ∧ Lone i s (packOf s) (threadOf s) ∧ xfnResult i (ctxOf (packOf s) i) o sp (threadOf s) = some r ∧ (threadOf s).xfn.length < 63
def xfnB (i : Instr) (s : State) : Bool :=
  loneB i s && (match vecSpec i with | some (o, sp) => (xfnResult i (ctxOf (packOf s) i) o sp (threadOf s)).isSome | none => false) &&
    decide ((threadOf s).xfn.length < 63)
theorem xfn_of {i : Instr} {s : State} (h : xfnB i s = true) : XfnMet i s := by
  simp only [xfnB, Bool.and_eq_true, decide_eq_true_eq] at h
  obtain ⟨⟨h1, h2⟩, h3⟩ := h
  split at h2
  · rename_i o sp e
    obtain ⟨r, hr⟩ := Option.isSome_iff_exists.mp h2
    exact ⟨o, sp, r, e, lone_of h1, hr, h3⟩
  · cases h2
/-- 62 results stand out already. -/
def xfnState (i : Instr) : State := withThread (placed i) (fun t => { t with xfn := List.replicate 62 { reg := 9, value := 0 } })
theorem wit_xfn : ∀ i ∈ xfnWords, XfnMet i (xfnState i) := fun i hi => xfn_of (all_of (f := fun i => xfnB i (xfnState i)) (by decide) i hi)

/-- XEQ of the pair V4:V5, which holds IADD.UI32 V2, V4, V6. -/
def xeqWord : VOp := vr 0 4 0 0 0 0
def xeqState (w : Nat) : State := withRegs (placed (.xeq xeqWord)) [(4, w % 2 ^ 32), (5, w / 2 ^ 32)]
def innerWord : Instr := .iadd (vr 2 4 6 0 3 0)
/-- A prefix slot whose half 0 (the mask `P1`) stands for IADD, the next of the clause's two words. -/
def pfxWord : Instr := .pfx 0 0x8A00000
def prefixed : State :=
  withMem (withPack (placed pfxWord) (fun p => { p with hdr := p.hdr ||| 1 })) 0x1010 8 ((encode innerWord).getD 0).toNat
theorem wit_pfxHalf : Lone pfxWord prefixed (packOf prefixed) (threadOf prefixed) := lone_of (by decide +kernel)
theorem wit_xeq : Lone (.xeq xeqWord) (xeqState ((encode innerWord).getD 0).toNat) (packOf (placed (.xeq xeqWord))) (threadOf (xeqState ((encode innerWord).getD 0).toNat)) ∧
    (xeqState ((encode innerWord).getD 0).toNat).pack? 0 0 = some (packOf (placed (.xeq xeqWord))) ∧
    ∃ w o2 sp c r, XeqVec (xeqState ((encode innerWord).getD 0).toNat) (packOf (placed (.xeq xeqWord))) (threadOf (xeqState ((encode innerWord).getD 0).toNat)) xeqWord w
      innerWord o2 sp c ∧ vectorResult innerWord c (xeqState ((encode innerWord).getD 0).toNat) o2 sp (threadOf (xeqState ((encode innerWord).getD 0).toNat)) = some r ∧
      trapFlags (threadOf (xeqState ((encode innerWord).getD 0).toNat)).fctl r.flags = 0 :=
  ⟨lone_of (i := .xeq xeqWord) (s := xeqState ((encode innerWord).getD 0).toNat) (by decide), by decide, _, _, _, _, _,
    ⟨rfl, by decide, rfl, rfl, by decide, by decide, by decide⟩, rfl, by decide⟩
theorem wit_xeqIllegal : Lone (.xeq xeqWord) (xeqState 0xFFFFFFFFFFFFFFFF) (packOf (placed (.xeq xeqWord))) (threadOf (xeqState 0xFFFFFFFFFFFFFFFF)) ∧
    xeqLegal (packOf (placed (.xeq xeqWord))).hdr true (BitVec.ofNat 64 ((threadOf (xeqState 0xFFFFFFFFFFFFFFFF)).regsVal 4 2)) = none :=
  ⟨lone_of (i := .xeq xeqWord) (s := xeqState 0xFFFFFFFFFFFFFFFF) (by decide), by decide⟩

/-! ## Matrix, grammar, graphics words and spawns -/

def EngineMet (i : Instr) (s : State) : Prop :=
  Lone i s (packOf s) (threadOf s) ∧ ∃ s1 fate after, EngineRule s (packOf s) (threadOf s) i s1 fate after

def mx (d a : RegF) (mode : BitVec 2) (fa fb : BitVec 4) (imm : BitVec 16) : MxOp :=
  { d := d, a := a, g := 0, gn := false, bsl := 0, mode := mode, q := false, fa := fa, fb := fb, ka := false, kd := false, sub6 := 0, imm := imm }

/-- A pitch of the placed workgroup: 32 rows from row 0. -/
def pitch : Pitch :=
  { cluster := 0, number := 0, cls := 1, pri := 0, units32 := 1, slot := 0, role := 0, core := 0, base := 0, lid := 1, gram := none, err := none, queue := []
    owed := [], releasing := false }
def withPitch (s : State) (p : Pitch) : State := { s with engines := { s.engines with pitches := [p] } }
theorem atPitch {s : State} {t : Thread} {x : Pitch} (h : s.groupOf t.name = some placedGroup ∧ s.pitchOf placedGroup = some x ∧ x.err = none) : AtPitch s t placedGroup x :=
  ⟨h.1, h.2.1, h.2.2⟩

def macqWord : Instr := .macq (mx 3 4 0 0 0 0)
theorem wit_macq : EngineMet macqWord (withRegs (placed macqWord) [(4, 32)]) :=
  ⟨lone_of (by decide), _, _, _, .macq _ placedGroup 0 0 (by decide) rfl (by unfold pitchRequest; decide) (by decide) (by decide)⟩
theorem wit_macqHeld : EngineMet macqWord (withPitch (withRegs (placed macqWord) [(4, 1)]) pitch) :=
  ⟨lone_of (by decide), _, _, _, .macqHeld _ placedGroup pitch (by decide) rfl (by unfold pitchRequest; decide) (by decide)⟩
theorem wit_macqNone : EngineMet macqWord (withPitch (withRegs (placed macqWord) [(4, 32)]) { pitch with slot := 1 }) :=
  ⟨lone_of (by decide), _, _, _, .macqNone _ placedGroup (by decide) rfl (by decide) (by decide)⟩
def mrelWord : Instr := .mrel (mx 0 0 0 0 0 0)
theorem wit_mrel : EngineMet mrelWord (withPitch (placed mrelWord) pitch) ∧ EngineMet mrelWord (placed mrelWord) :=
  ⟨⟨lone_of (by decide), _, _, _, .mrel _ placedGroup pitch (atPitch (by decide)) (by decide)⟩,
    lone_of (by decide), _, _, _, .mrelNone _ placedGroup rfl (by decide)⟩
/-- The last row of the pitch. -/
def mzeroWord : Instr := .mzero (mx 0 4 0 0 0 0)
theorem wit_mzero : EngineMet mzeroWord (withPitch (withRegs (placed mzeroWord) [(4, 31 * 2 ^ 12)]) pitch) :=
  ⟨lone_of (by decide), _, _, _, .mzero _ placedGroup pitch _ rfl (atPitch (by decide)) (by decide)⟩
/-- Tile 5 is ENGINE and holds FP32; a row of 64 elements takes 256 of its bytes. -/
def tiled (i : Instr) (fmt : Nat) (v : Nat) : State := withPitch (withInst (withTile (withRegs (placed i) [(4, v)]) 0 fmt) .engine) pitch
theorem tile_of {x : Except TrapInfo (Tile × Nat)} {t : Tile} {v : Nat} (h : (match x with | .ok y => decide (y.1 = t) && decide (y.2 = v) | _ => false) = true) :
    x = .ok (t, v) := by
  cases x with
  | error => cases h
  | ok y => simp only [Bool.and_eq_true, decide_eq_true_eq] at h; rw [← h.1, ← h.2]
def mdrnWord : Instr := .mdrn (mx 0 4 0 0 7 0)
theorem wit_mdrn : EngineMet mdrnWord (tiled mdrnWord 7 (3 * 2 ^ 23 + 5)) :=
  ⟨lone_of (by decide), _, _, _, .mdrn _ placedGroup pitch _ 0 (tileAt 0 7) [] rfl (atPitch (by decide)) (by decide) (by decide) rfl
    ⟨by decide, fun _ => rfl⟩⟩
def mldaWord : Instr := .mlda (mx 0 4 0 0 7 0)
theorem wit_mlda : EngineMet mldaWord (tiled mldaWord 7 (3 * 2 ^ 23 + 5)) :=
  ⟨lone_of (by decide), _, _, _, .mlda _ placedGroup pitch _ 0 (tileAt 0 7) rfl (atPitch (by decide)) (by decide) (by decide) (tile_of (by decide +kernel))⟩

def mmaOp : MxOp := mx 0 4 0 5 5 6
/-- Tile 5 holds A rows and tile 6 holds B, 6,144 bytes at 0x2000; both are FP16 and ENGINE. -/
def mmaState (v : Nat) : State :=
  let s := tiled (.mma mmaOp) 5 v
  { (s.setDreg (regTile 0 6) (2 ^ 63 + 5 * 2 ^ 55 + 0x1FF * 2 ^ 16 + 0x17F)).setDreg (regTile 0 6 + 8) 0x200 with
    engines := { s.engines with tiles := s.engines.tiles ++ [{ lid := 1, q := 0, group := 0, handle := 6, home := 0, bufs :=
      [{ owner := .engine, core := 0, lo := 0x2000, size := 6144, bar := 0x3FE0 }], current := 0, wrote := 0 }] } }
/-- A leader whose rows start at the pitch's last 8. -/
def leading : State := mmaState 0x81800005
def leads (s1 : State) (fired : List Nat) : State := leadOwes (ctxOf (packOf leading) (.mma mmaOp)) (threadOf leading) s1 fired
theorem lead_of {x : LeadRes} {f : State → List Nat → Bool} (h : (match x with | .ok _ _ _ s l => f s l | _ => false) = true) :
    ∃ q b key s1 fired, x = .ok q b key s1 fired ∧ f s1 fired = true := by
  cases x with
  | ok q b key s1 fired => exact ⟨q, b, key, s1, fired, rfl, h⟩
  | _ => cases h
/-- The hypotheses of MatrixIssue. -/
theorem wit_mmaIssue : Lone (.mma mmaOp) leading (packOf leading) (threadOf leading) ∧ leading.unitOf (packOf leading) = none ∧
    AtPitch leading (threadOf leading) placedGroup pitch ∧ leading.frozen 0 = false ∧ tilePending leading (threadOf leading) 5 = false ∧
    tilePending leading (threadOf leading) 6 = false ∧
    ∃ q b key s1 fired, leadQuarter (ctxOf (packOf leading) (.mma mmaOp)) leading (threadOf leading) placedGroup pitch mmaOp = .ok q b key s1 fired ∧
      AtPitch (leads s1 fired) (threadOf leading) placedGroup pitch ∧ (leads s1 fired).pack? 0 0 = some (packOf leading) := by
  refine ⟨lone_of (by decide), by decide, atPitch (by decide), by decide, by decide, by decide, ?_⟩
  obtain ⟨q, b, key, s1, fired, h, e⟩ := lead_of (x := leadQuarter (ctxOf (packOf leading) (.mma mmaOp)) leading (threadOf leading) placedGroup pitch mmaOp)
    (f := fun s1 l => decide ((leads s1 l).groupOf placedName = some placedGroup ∧ (leads s1 l).pitchOf placedGroup = some pitch ∧ pitch.err = none) &&
      decide ((leads s1 l).pack? 0 0 = some (packOf leading))) (by decide)
  have e := Bool.and_eq_true_iff.mp e
  exact ⟨q, b, key, s1, fired, h, atPitch (of_decide_eq_true e.1), of_decide_eq_true e.2⟩
def unit (left : List Quarter) : MatUnit :=
  { cluster := 0, core := 0, slot := 0, threads := [placedName], pitch := 0, cls := 1, pri := 0, role := 0, leader := 0, arrival := 0, waited := 0, queueWait := 0
    fa := 5, fb := 5, mode := 0, push := false, bsl := 0, key := 0
    b := { core := 0, addr := 0x2000, size := 6144, region := none, asid := 0, level := 0, credit := none, ready := true, data := [], err := none }
    left := left, begun := false, fid := none }
def withUnit (s : State) (left : List Quarter) : State := { s with engines := { s.engines with units := [unit left] } }
theorem wit_mma : EngineMet (.mma mmaOp) (withUnit (mmaState 0) []) ∧ EngineMet (.mma mmaOp) (mmaState 0) :=
  ⟨⟨lone_of (by decide), _, _, _, .mma _ (unit []) (by decide) rfl⟩,
    lone_of (by decide), _, _, _, .mmaIdle _ placedGroup pitch (by decide) (atPitch (by decide)) (by decide) (by decide)⟩
def apopWord : Instr := .apop (mx 2 0 0 0 0 0)
theorem wit_apop : EngineMet apopWord (withPitch (placed apopWord) { pitch with queue := [(31, true)] }) ∧ EngineMet apopWord (withPitch (placed apopWord) pitch) :=
  ⟨⟨lone_of (by decide), _, _, _, .apop _ placedGroup { pitch with queue := [(31, true)] } 31 true [] (atPitch (by decide)) (by decide) rfl (by decide)⟩,
    lone_of (by decide), _, _, _, .apopWait _ placedGroup pitch (atPitch (by decide)) (by decide) (.inl rfl)⟩

/-- A grammar header at 0x5000: GMAG, FP16 weights and inputs, 4 columns, 1 rule, 32 rows. -/
def gcfgWord : Instr := .gcfg (mx 0 4 0 0 0 0)
def gcfgState : State := withMem (withPitch (withRegs (placed gcfgWord) [(4, 0x5000)]) pitch) 0x5000 24 (32 * 2 ^ 160 + (4 * 2 ^ 32 + 1) * 2 ^ 64 + 0x6A17240000000000)
def cfg : GramCfg := { fw := 2, fx := 4, gmode := 0, acc := false, scl := 0, cols := 4, rules := 1, rows := 32, gbase := 0, va := 0x5000 }
def headVal (x : HeadRes) : List Byte := match x with | .ok b _ _ => b | _ => []
def headState (x : HeadRes) : State := match x with | .ok _ s _ => s | _ => State.reset
def headHits (x : HeadRes) : List Nat := match x with | .ok _ _ h => h | _ => []
theorem head_eq {x : HeadRes} (h : (match x with | .ok _ _ _ => true | _ => false) = true) : x = .ok (headVal x) (headState x) (headHits x) := by
  cases x <;> simp_all [headVal, headState, headHits]
theorem wit_gcfg : EngineMet gcfgWord gcfgState :=
  ⟨lone_of (by decide), _, _, _, .gcfg _ placedGroup pitch 0x5000 cfg _ _ _ (by decide) (atPitch (by decide)) (by decide) (by decide) (by decide)
    (head_eq (by decide +kernel)) (by decide +kernel)⟩
/-- 32 vectors of 4 columns of 3/4 byte from tile 5 of L6 elements. -/
def gevalWord : Instr := .geval (mx 0 4 0 0 0 0)
theorem wit_geval : EngineMet gevalWord (withPitch (tiled gevalWord 4 (31 * 2 ^ 12 + 5)) { pitch with gram := some cfg }) :=
  ⟨lone_of (by decide), _, _, _, .geval _ placedGroup { pitch with gram := some cfg } cfg _ 0 (tileAt 0 4) rfl (atPitch (by decide)) (by decide) rfl rfl⟩

/-- Bin set 3 at 0x100000 in a carve-out: 2,048 bins of 12 entries, of 64 bytes each. -/
def binned (i : Instr) : State :=
  let s := withRegs (placed i) [(4, 2047 * 2 ^ 16 + 2047), (5, 9)]
  let s := (s.setDreg (regBin 3) (2 ^ 63 + 0x100000)).setDreg (regBin 3 + 8) (2047 * 2 ^ 26 + 12)
  { s with store := { s.store with carveouts := [(0x100000, 0x100000)] } }
theorem calm_of {s : State} (h : (List.range 64).all (unwatched s) = true) (pa : Nat) : unwatched s (homeCluster pa) = true :=
  List.all_eq_true.mp h _ (List.mem_range.mpr (Nat.mod_lt _ (by decide)))
def bins : BinSet := { base := 0x100000, bins := 2048, cap := 12 }
theorem range_of {x : BinRange} (h : (match x with | .ok => true | _ => false) = true) : x = .ok := by cases x <;> simp_all
def binaWord : Instr := .bina (ag 0 4 5 0 3)
theorem wit_bina : EngineMet binaWord (binned binaWord) :=
  ⟨lone_of (by decide), _, _, _, .bina _ bins (by decide) ⟨rfl, by decide, by decide, range_of (by decide), by decide, calm_of (by decide +kernel) _⟩⟩
def binaClrWord : Instr := .binaClr (ag 0 4 0 1 3)
theorem wit_binaClr : EngineMet binaClrWord (binned binaClrWord) :=
  ⟨lone_of (by decide), _, _, _, .binaClr _ bins (by decide) ⟨rfl, by decide, by decide, range_of (by decide), by decide, calm_of (by decide +kernel) _⟩⟩
def occrWord : Instr := .occr (ag 5 4 0 0 0)
def occrClrWord : Instr := .occrClr (ag 5 4 0 1 0)
theorem wit_occr : EngineMet occrWord (withRegs (placed occrWord) [(4, 4095)]) ∧ EngineMet occrClrWord (withRegs (placed occrClrWord) [(4, 4095)]) :=
  ⟨⟨lone_of (by decide), _, _, _, .occr _ (by decide)⟩, lone_of (by decide), _, _, _, .occrClr _ (by decide)⟩
/-- The engine has performed the thread's operation, with 5 samples passed. -/
def rastWord : Instr := .rast (ag 10 4 5 0 64)
def rastOp (done : Option Word32) : RastOp :=
  { cluster := 0, thread := placedName, cls := 1, order := 0, prims := [], vis := .scratch 0 0x1000, dep := .scratch 0 0x1400, credits := [], ocb := 0, testOnly := false
    count := true, x0 := 0, y0 := 0, ww := 8, wh := 8, dst := 10, done := done }
def withRast (s : State) (done : Option Word32) : State := { s with engines := { s.engines with rasts := [rastOp done] } }
theorem wit_rast : EngineMet rastWord (withRast (placed rastWord) (some 5)) :=
  ⟨lone_of (by decide), _, _, _, .rast _ (rastOp (some 5)) 5 rfl rfl⟩
/-- A texture descriptor of zeros at 0x5000: one texel of format 0 at address 0. -/
def sampOp : MrOp := { mr 4 8 4 0 with pol := 0 }
def sampState : State := withRegs (placed (.samp sampOp)) [(8, 0x5000)]
def sampVal (x : SampRes (List Word32)) : List Word32 := match x with | .ok l _ => l | _ => []
def sampNext (x : SampRes (List Word32)) : State := match x with | .ok _ s => s | _ => State.reset
theorem samp_eq {x : SampRes (List Word32)} (h : (match x with | .ok _ _ => true | _ => false) = true) : x = .ok (sampVal x) (sampNext x) := by
  cases x <;> simp_all [sampVal, sampNext]
theorem wit_samp : EngineMet (.samp sampOp) sampState :=
  ⟨lone_of (by decide), _, _, _, .samp _ (by decide) (by decide) _ rfl ⟨_, _, samp_eq (by decide +kernel)⟩⟩
/-- A task record at scratch offset 0x3F80: entry clause 0x1000, crew 0. -/
def tspawnWord : Instr := .tspawn (ag 0 4 0 0 0)
def tspawnState : State := withScratch (withRegs (placed tspawnWord) [(4, 0x3F80)]) 0x3F80 16 (2 ^ 25 * 2 ^ 64 + 0x1000)
theorem ok_of {α : Type} {x : Except TrapInfo α} {f : α → Bool} (h : (match x with | .ok y => f y | _ => false) = true) : ∃ y, x = .ok y ∧ f y = true := by
  cases x with
  | error => cases h
  | ok y => exact ⟨y, rfl, h⟩
def spawned (y : Workgroup × Launch × TaskRec) : State :=
  (((tspawnState.release placedName.core 2).closeRegion placedName).watch agentDevice (some y.1.core) (y.1.base + 0x3F80) 128 true false (fun _ => true)).2.spawnTask
    (clusterOf y.1.core) 0 y.1.lid y.1.q y.1.group y.1.w y.1.cls y.2.2 none
theorem wit_tspawn : EngineMet tspawnWord tspawnState :=
  have ⟨(g, l, r), h, e⟩ := ok_of (x := tspawnRec tspawnState (threadOf tspawnState) 0x3F80)
    (f := fun y => decide (tspawnState.freeEntry (clusterOf y.1.core) y.1.cls = some 0) &&
      (((spawned y).kill placedName tspawnWord).thread? placedName).any (fun x => x.st == .issuing)) (by decide +kernel)
  have e := Bool.and_eq_true_iff.mp e
  ⟨lone_of (by decide), _, _, _, .tspawn _ g l r 0 (spawned (g, l, r)) (by decide) (by decide) h (of_decide_eq_true e.1) rfl e.2⟩

/-! ## Events of threads -/

def ThreadMet (i : Instr) (s : State) : Prop := ∃ u, ThreadEvent s i u

/-- The placed machine with no pack, its thread in a state. -/
def idle (f : Thread → Thread) : State :=
  let s := placed .nop
  { s with work := { s.work with packs := [], threads := [f (launched .ready)] }, cur := none }
def choiceBucket (x : Choice) : Bucket := match x with | .take b _ => b | _ => { kind := .plain, slot := 0, crew := 0, cls := 0, ca := 0, threads := [] }
theorem take_eq {x : Choice} {w : Why} (h : (match x with | .take _ v => decide (v = w) | _ => false) = true) : x = .take (choiceBucket x) w := by
  cases x <;> simp_all [choiceBucket]
def choicePack (x : Choice) : Pack := match x with | .resume p => p | _ => placedPack 0
theorem resume_eq {x : Choice} (h : (match x with | .resume _ => true | _ => false) = true) : x = .resume (choicePack x) := by
  cases x <;> simp_all [choicePack]
theorem freePipe {s : State} {core pipe : Nat} (h : (s.pickerRuns core && (s.pack? core pipe).isNone && s.inPipeOrder core pipe && unwatched (s.enterAll core) (clusterOf core)) = true) :
    FreePipe s core pipe (s.enterAll core) := by
  simp only [Bool.and_eq_true, Option.isNone_iff_eq_none] at h
  exact ⟨h.1.1.1, h.1.1.2, h.1.2, rfl, h.2⟩

theorem wit_pick : ThreadMet (.pickerDecision 0 3) (idle id) :=
  have ⟨_, h⟩ := Option.isSome_iff_exists.mp (by decide +kernel)
  ⟨_, .pick 0 3 _ (choiceBucket (((idle id).enterAll 0).decide_ 0 3)) .ordinary _ (freePipe (by decide +kernel)) (take_eq (by decide +kernel)) h⟩
/-- A pack that STRIP work pre-empted waits in the resume store. -/
def suspended : State :=
  { idle (fun t => { t with st := .suspended .preempted }) with work := { (idle (fun t => { t with st := .suspended .preempted })).work with resumes := [placedPack 0xA58FFF00] } }
theorem wit_resume : ThreadMet (.pickerDecision 0 0) suspended :=
  ⟨_, .resume 0 0 _ _ (freePipe (by decide +kernel)) (resume_eq (by decide +kernel))⟩
/-- A BACKGROUND thread in slot 1 that INTERACTIVE issue has kept waiting, or that starves. -/
def second (cls held waited : Nat) : State :=
  let s := idle id
  { s with work := { s.work with
    groups := [placedGroup, { placedGroup with slot := 1, cls := cls }]
    threads := s.work.threads ++ [{ launched .ready with name := { placedName with slot := 1 }, behind := List.replicate 4 held, waited := waited }] } }
def agedBucket : Bucket := choiceBucket (((second 2 65536 0).enterAll 0).decide_ 0 0)
theorem wit_aged : ThreadMet (.agingPromotion 0 agedBucket.slot agedBucket.crew agedBucket.ca) (second 2 65536 0) :=
  have ⟨_, h⟩ := Option.isSome_iff_exists.mp (by decide +kernel)
  ⟨_, .aged 0 0 _ agedBucket _ (by decide +kernel) (freePipe (by decide +kernel)) (take_eq (by decide +kernel)) h⟩
def starvedBucket : Bucket := choiceBucket (((second 1 0 1024).enterAll 0).decide_ 0 0)
theorem wit_starved : ThreadMet (.starvedBucket 0 starvedBucket.slot starvedBucket.crew starvedBucket.ca) (second 1 0 1024) :=
  have ⟨_, h⟩ := Option.isSome_iff_exists.mp (by decide +kernel)
  ⟨_, .starved 0 0 _ starvedBucket _ (by decide +kernel) (freePipe (by decide +kernel)) (take_eq (by decide +kernel)) h⟩
/-- A ready STRIP thread in slot 1 while the placed pack stands on its pipe. -/
def preempting : State :=
  let s := placed .nop
  { s with
    work := { s.work with
      groups := [placedGroup, { placedGroup with slot := 1, cls := 0 }]
      threads := s.work.threads ++ [{ launched .ready with name := { placedName with slot := 1 } }] }
    cur := none }
theorem wit_preempt : ThreadMet (.classPreemption 0 0) preempting :=
  ⟨_, .preempt 0 0 _ (packOf preempting) (by decide) rfl (by decide +kernel) (by decide) (by decide)
    (by simpa [List.any_eq_true] using (by decide +kernel : (((preempting.enterAll 0).buckets 0).any (fun b => decide (b.cls = 0))) = true))⟩

def waits (w : Wait) : State := idle (fun t => { t with st := .blocked w })
theorem wit_headerMet : ThreadMet (.threadWake placedName) (idle (fun t => { t with st := .blocked .header, hdr := some 0xA5000000 })) :=
  ⟨_, .headerMet { launched (.blocked .header) with hdr := some 0xA5000000 } 0xA5000000 rfl rfl rfl (by decide) (by decide) rfl⟩
theorem wit_fetchAnswered : ThreadMet (.threadWake placedName) (waits (.fetch 7)) := ⟨_, .fetchAnswered (launched (.blocked (.fetch 7))) 7 rfl rfl (by decide) (by decide) rfl⟩
theorem wit_phaseMet : ThreadMet (.threadWake placedName) (waits (.barrier 0x3FE0 true 1)) :=
  ⟨_, .phaseMet (launched (.blocked (.barrier 0x3FE0 true 1))) placedGroup 0x3FE0 1 true rfl rfl rfl (by decide) (by decide) rfl⟩
theorem wit_timeCome : ThreadMet (.waittWake placedName) (waits (.time 0)) :=
  ⟨_, .timeCome (launched (.blocked (.time 0))) 0 rfl rfl (by decide) (by decide) (by decide)⟩

/-- 752 threads with 127 LIVE registers each: 1,776 of the core's are free. -/
def allLive : Sparse Reg := (List.range 127).map (fun r => (r, .live 0))
def crowd (i : Nat) : Thread := { launched .ready with name := { placedName with wti := i }, regs := allLive }
def crowded : State := { idle id with work := { (idle id).work with threads := (List.range 752).map crowd } }
theorem wit_spill : ThreadMet (.registerSpill placedName (crowded.victimRegs (crowd 0))) crowded :=
  ⟨_, .spill (crowd 0) _ (by decide +kernel) (by decide +kernel) (by decide +kernel) (by decide +kernel) rfl⟩
theorem test_spillEight : (crowded.victimRegs (crowd 0)).length = 8 := by decide +kernel
/-- V4 of the word's thread stands in its spill slot. -/
def refilling : State := withThread (placed (.iadd (vr 2 4 6 0 3 0))) (fun t => { t with regs := [(4, .spilled)] })
theorem wit_refill : ThreadMet (.registerRefill placedName 4) refilling :=
  ⟨_, .refill (threadOf refilling) (packOf refilling) 4 0x20010 pageLeaf (by decide) (by decide) (by decide) rfl (by decide) rfl⟩
/-- Its save area stands in a page that nothing maps, the root's entry replayable. -/
def refillUnmapped : State :=
  withMem (withMem ((withLaunch refilling (fun l => { l with tsa := 0x400000 })).setDreg regAstb 0x7000) 0x7000 8 (2 ^ 63 + 0x8000)) 0x8000 8 4
theorem wit_refillParked : ThreadMet (.registerRefill placedName 4) refillUnmapped :=
  ⟨_, .refillParked (threadOf refillUnmapped) (packOf refillUnmapped) 4 4 (by decide) (by decide) (by decide) rfl⟩
def calling (store : Option Word64) : Thread → Thread := fun t =>
  { t with st := .blocked .calls, depth := 9, calls := List.replicate 8 0x1000, callXfer := some { entry := 0, store := store, target := 0x1000, fid := none } }
theorem wit_callPush : ThreadMet (.callStackTransfer placedName) (idle (calling (some 0x1000))) :=
  ⟨_, .callPush (calling (some 0x1000) (launched .ready)) _ 0x1000 0x20200 pageLeaf rfl rfl rfl rfl rfl (by decide) rfl (by decide)⟩
theorem wit_callPop : ThreadMet (.callStackTransfer placedName) (idle (calling none)) :=
  ⟨_, .callPop (calling none (launched .ready)) _ 0x20200 pageLeaf rfl rfl rfl rfl rfl (by decide) rfl (by decide) (by decide)⟩
theorem wit_xfnWritten : ThreadMet (.xfnResultWritten placedName) (idle (fun t => { t with xfn := [{ reg := 5, value := 1 }] })) :=
  ⟨_, .xfn { launched .ready with xfn := [{ reg := 5, value := 1 }] } _ _ rfl rfl⟩

theorem mayPerform {s : State} {o : Outstanding} (h : s.store.outst.find? (·.id == o.id) = some o ∧ o.fid = none ∧ s.behind o = false ∧ s.control.fw.powerOff = false) :
    MayPerform s o := ⟨h.1, h.2.1, h.2.2.1, h.2.2.2⟩
/-- A store of the last four bytes of the page; the conditions of its frame and of a load's. -/
theorem wit_performed : ThreadMet (.memoryAccessPerformed 0 []) (withOut (idle id) (waiting .store 0x1FFFFC 4)) :=
  ⟨_, .performed (waiting .store 0x1FFFFC 4) 0x1FFFFC pageLeaf (mayPerform (by decide)) (.inr (.inl rfl)) rfl rfl (by decide) (by decide) rfl (by decide +kernel) (by decide)⟩
theorem wit_storeFrame : canonical (withOut (idle id) (waiting .store 0x1FFFFC 4)) = true ∧ (withOut (idle id) (waiting .store 0x1FFFFC 4)).inL1 (waiting .store 0x1FFFFC 4) 0x1FFFFC pageLeaf = false ∧
    (withOut (idle id) (waiting .store 0x1FFFFC 4)).poisoned 0x1FFFFC 4 = false ∧ (withOut (idle id) (waiting .store 0x1FFFFC 4)).store.l1 = [] ∧
    (withOut (idle id) (waiting .store 0x1FFFFC 4)).ended placedName = false := by decide
theorem wit_loadFrame : MayPerform (withOut (idle id) (waiting .load 0x5000 4)) (waiting .load 0x5000 4) ∧ (withOut (idle id) (waiting .load 0x5000 4)).inL1 (waiting .load 0x5000 4) 0x5000 pageLeaf = false ∧
    (idle id).thread? placedName = some (launched .ready) := ⟨mayPerform (by decide), by decide, by decide⟩
def sampling : Outstanding := { waiting .sample 0x5000 16 with dst := 4, data := 0, tr := none }
theorem wit_sampled : ThreadMet (.memoryAccessPerformed 0 []) (withOut (idle id) sampling) :=
  ⟨_, .sampled sampling _ _ _ (mayPerform (by decide)) rfl (samp_eq (by decide +kernel)) rfl⟩
/-- A dirty line leaves the L1. -/
def lined : State :=
  { idle id with store := { (idle id).store with l1 := [{ core := 0, tag := 0x5000 / 128, data := 7, dirty := 1, stores := [] }] } }
theorem wit_evicted : ThreadMet (.memoryAccessPerformed 99 [0]) lined := ⟨_, .evicted 99 [0] (by decide) (by decide +kernel)⟩

def stalled (held : Nat) : Thread → Thread := fun t => { t with st := .blocked (.stall 0x500 none 2 .read 0x5000), held := held }
theorem wit_stallOver : ThreadMet (.detectionStallEnd placedName) (idle (stalled 0)) :=
  ⟨_, .stallOver (stalled 0 (launched .ready)) 0x500 none 2 .read 0x5000 rfl rfl (by decide) (by decide)⟩
theorem wit_capacity : ThreadMet (.mmxCapacityTimeout placedName) (idle (stalled (2 ^ 20))) :=
  ⟨_, .capacity (stalled (2 ^ 20) (launched .ready)) 0x500 none 2 .read 0x5000 rfl rfl (by decide) (by decide) rfl⟩
theorem wit_capacityLater : ThreadMet (.mmxCapacityTimeout placedName) (withOut (idle id) { waiting .store 0x5000 4 with stall := some (0x500, 2), held := 2 ^ 20 }) :=
  ⟨_, .capacityLater (launched .ready) { waiting .store 0x5000 4 with stall := some (0x500, 2), held := 2 ^ 20 } 0x500 2 rfl (fun _ h => by cases h) (by decide) rfl⟩
/-- The placed TSPAWN has waited 2^20 cycles. -/
def spawnWaits : State := withPack { placed tspawnWord with cur := none } (fun p => { p with full := 2 ^ 20 })
theorem wit_spawnTimeout : ThreadMet (.tspawnTimeout 0 0) spawnWaits :=
  ⟨_, .spawnTimeout 0 0 (packOf spawnWaits) (ag 0 4 0 0 0) placedName (by decide) rfl (by decide +kernel) (by decide) (by decide +kernel) rfl (by decide +kernel)⟩

def trapRecord (slot : Option Nat) : Trapped :=
  { info := trapOf .swtrap 7, at_ := { ca := 0x1000, wi := 0 }, word := 0, resume := { ca := 0x1000, wi := 1 }, pa := 0, pb := 0, kept := [], slot := slot }
def trappedThread (slot : Option Nat) : Thread := { launched (.suspended .trapped) with trap := some (trapRecord slot) }
def queuedTrap (slot : Option Nat) : State :=
  { idle (fun _ => trappedThread slot) with work := { (idle (fun _ => trappedThread slot)).work with trapQueue := [placedName] } }
theorem wit_handler : ThreadMet (.handlerContextStart placedName) (queuedTrap (some 15)) :=
  ⟨_, .handler (trappedThread (some 15)) placedGroup (trapRecord (some 15)) 15 (by decide) rfl rfl rfl (by decide) (by decide) (by decide)⟩
theorem wit_record : ThreadMet (.handlerContextStart placedName) (queuedTrap none) :=
  ⟨_, .record (trappedThread none) { trappedThread none with trap := some (trapRecord (some 0)) } placedGroup (trapRecord none) (trapRecord (some 0)) 0 _ (by decide) rfl rfl rfl
    (by decide) (by decide) (by decide) rfl (by decide +kernel) (by decide +kernel) rfl rfl⟩
theorem wit_hold : ThreadMet (.holdRequest 255 63 true false) (idle id) ∧ ThreadMet (.holdRequest 0 1 true true) preempting :=
  ⟨⟨_, .hold 255 63 true false (by decide) (fun _ h => by cases h)⟩, _, .holdStrip 0 1 true true { placedGroup with slot := 1, cls := 0 } (by decide) rfl⟩
/-- HOLD and SVC of the workgroup, whose thread is ready. -/
def asked : State := (idle id).setDreg (regHold 0 0) 5
theorem wit_service : ThreadMet (.serviceContextStart 0 0) asked :=
  have ⟨_, h, _⟩ := ok_of (f := fun _ => true) (by decide +kernel)
  ⟨_, .service 0 0 0 placedGroup _ rfl (by decide) (by decide) (by decide) (by decide) rfl rfl h⟩
/-- RIMG names the image of the saved workgroup (log 30), in address space 0. -/
def restoring : State := ({ loadState with cur := none } : State).setDreg (regRestore 0) 0x8000

def restoreHead : ImgRes (List Byte) :=
  restoring.imageRead { core := 0, slot := 0, wti := 0, ctx := 0 } (bits (restoring.dreg (regRestore 0 + 8)) 63 48) 1 (bits (restoring.dreg (regRestore 0)) 56 0) 192
def restoreTail : ImgRes (List Byte) :=
  restoring.imageRead { core := 0, slot := 0, wti := 0, ctx := 0 } (bits (restoring.dreg (regRestore 0 + 8)) 63 48) 1 (bits (restoring.dreg (regRestore 0)) 56 0 + 12288)
    (128 * bits (fieldOf (imgVal [] restoreHead) 8 8) 63 53)
theorem wit_restored : ThreadMet (.restoreGo 0) restoring :=
  have ⟨k, _, h⟩ := make_of (x := restoring.createGroup 0 1 (imgVal [] restoreHead ++ imgVal [] restoreTail)) (by decide +kernel)
  ⟨_, .restored 0 1 k _ _ _ _ _ _ _ (by decide) (by decide) (by decide) (img_eq (x := restoreHead) [] (by decide +kernel)) (by decide +kernel)
    (img_eq (x := restoreTail) [] (by decide +kernel)) (by decide) h⟩

/-! ## Events of engines -/

def EngEventMet (i : Instr) (s : State) : Prop := ∃ u, EngineEvent s i u

def withEngines (s : State) (f : Engines → Engines) : State := { s with engines := f s.engines }
/-- A copy of 16 bytes of a shape into scratch offset 0x3FC0 by the placed thread, at one of its moments. -/
def copyOf (started read : Bool) (landed : Nat) : Copy :=
  { id := 3, core := 0, ch := 7, thread := placedName, key := 0, lid := 1, asid := 0, level := 0, store := false, shape := none, org := [], ext := []
    near := .scratch 0 0x3FF8, far := none, fmt := 0, room := 16, dq := 0, tr := false, rd := 0, qc := 0, cn := 0, side := 0, creditRead := []
    creditLand := [{ core := 0, addr := 0x3FE0 }], bob := none, stream := false, ring := none, mcast := [], handle := 0
    dest := some { core := 0, slot := 0, lid := 1, startedAt := 0 }, before := [], started := started, vals := [], readDone := read
    data := (List.range 16).map (fun i => (0x3FB8 + i, 7)), total := 16, landed := landed, err := none, fid := none }
def copying (started read : Bool) (landed : Nat) : State := withEngines (idle id) (fun e => { e with copies := [copyOf started read landed], nextCopy := 4 })
theorem wit_copyStart : EngEventMet (.copyLanding 0 7) (copying false false 0) :=
  ⟨_, .copyStart 0 7 (copyOf false false 0) rfl rfl rfl rfl (fun _ h => by cases h) (by decide)⟩
theorem wit_copyGoesOn : EngEventMet (.copyLanding 0 7) (copying true false 0) := ⟨_, .copyGoesOn 0 7 (copyOf true false 0) rfl rfl rfl rfl (by decide)⟩
/-- The first 8 bytes end a line; the next 8 end the transfer. -/
theorem wit_copyPiece : EngEventMet (.copyLanding 0 7) (copying true true 0) ∧ EngEventMet (.copyLanding 0 7) (copying true true 8) :=
  ⟨⟨_, .copyPiece 0 7 0 0x3FF8 0 0x3FB8 7 _ _ (copyOf true true 0) _ _ rfl rfl rfl rfl (by decide) rfl (by decide) rfl rfl rfl rfl rfl rfl rfl rfl⟩,
    _, .copyPiece 0 7 0 0x3FF8 0 0x3FC0 7 _ _ (copyOf true true 8) _ _ rfl rfl rfl rfl (by decide) rfl (by decide) rfl rfl rfl rfl rfl rfl rfl rfl⟩

/-- Four quarters whose operands are there, the last at the pitch's last 8 rows. -/
def opnd (n : Nat) : Operand :=
  { core := 0, addr := 0, size := n, region := none, asid := 0, level := 0, credit := none, ready := true, data := [], err := none }
def quarters : List Quarter :=
  [{ leader := 0, row := 0, half := false, a := opnd 768 }, { leader := 1, row := 8, half := false, a := opnd 768 },
   { leader := 2, row := 0, half := true, a := opnd 768 }, { leader := 3, row := 24, half := true, a := opnd 768 }]
def granting : State := withEngines (withPitch (idle id) pitch) (fun e => { e with units := [unit quarters] })
theorem wit_grant : EngEventMet (.passGrant 0) granting :=
  ⟨_, .grant (unit quarters) rfl rfl (by decide) (by decide) rfl (by decide) ⟨rfl, rfl⟩
    (fun q h => ⟨List.all_eq_true.mp (show quarters.all (fun q => q.a.ready) = true by decide) q h,
      by simpa using List.all_eq_true.mp (show quarters.all (fun q => q.a.err.isNone) = true by decide) q h⟩) (by decide) (by decide)⟩
def granted : State :=
  withEngines (withPitch (idle id) pitch) (fun e => { e with passes := [{ cluster := 0, fa := 5, fb := 5, mode := 0, quarters :=
    [{ pitch := 0, push := true, row := 24, half := true, a := [], b := [], creditA := none, creditB := none }] }] })
theorem wit_complete : EngEventMet (.passComplete 0) granted := ⟨_, .complete (granted.engines.passes.headD { cluster := 0, fa := 0, fb := 0, mode := 0, quarters := [] }) [] _ rfl rfl⟩

def evalOf (running ended : Bool) : Eval :=
  { cluster := 0, pitch := 0, cls := 1, order := 5, cfg := cfg, asid := 0, level := 0, core := 0, addr := 0x1000, tileBytes := 24, credit := none, nv := 1, cq := 3, push := true
    running := running, item := 0, rule := 0, depth := 0, open_ := false, mid := false, sums := [], file := [], rowsWritten := [31, 0], ended := ended, fid := none }
def evaluating (running ended : Bool) : State := withEngines (withPitch (idle id) pitch) (fun e => { e with evals := [evalOf running ended] })
theorem wit_evalStart : EngEventMet (.grammarEvaluation 0) (evaluating false false) :=
  ⟨_, .evalStart 0 (evalOf false false) pitch rfl rfl rfl rfl rfl rfl rfl (by decide) (by decide) (by decide) (by decide)⟩
theorem wit_evalGoesOn : EngEventMet (.grammarEvaluation 0) (evaluating true false) :=
  ⟨_, .evalGoesOn 0 (evalOf true false) pitch rfl rfl rfl rfl rfl rfl rfl (by decide)⟩
theorem wit_evalFailed : EngEventMet (.grammarEvaluation 0) (withEngines (withPitch (idle id) pitch) (fun e => { e with evals := [{ evalOf true false with abort := true }] })) :=
  ⟨_, .evalFailed 0 { evalOf true false with abort := true } rfl rfl rfl rfl⟩
theorem wit_evalEnd : EngEventMet (.evaluationEnd 0) (evaluating true true) := ⟨_, .evalEnd (evalOf true true) [] rfl rfl rfl⟩
/-- One more row makes 64. -/
def owing : Pitch := { pitch with queue := List.replicate 63 (0, false), owed := [(31, true), (0, true)] }
theorem wit_rowPush : EngEventMet (.evaluationRowPush 0 0) (withPitch (idle id) owing) :=
  ⟨_, .rowPush 0 0 owing (31, true) [(0, true)] rfl rfl (by decide)⟩

def accOp (k : AccOpKind) : AccOp :=
  { cluster := 0, pitch := 0, order := 2, lid := 1, kind := k, row := 24, count := 8, half := true, core := 0, addr := 0x1000, credit := some { core := 0, addr := 0x3FE0 } }
def accState (k : AccOpKind) : State := withEngines (withPitch (idle id) pitch) (fun e => { e with accOps := [accOp k] })
theorem wit_drain : EngEventMet (.drainExecution 0) (accState (.drain 0 7 [])) :=
  ⟨_, .drain 0 0 7 [] (accOp (.drain 0 7 [])) [] ⟨rfl, rfl, by decide, by decide, by decide⟩ rfl⟩
theorem wit_loadBack : EngEventMet (.loadBackExecution 0) (accState .loadBack) :=
  ⟨_, .loadBack 0 (accOp .loadBack) [] ⟨rfl, rfl, by decide, by decide, by decide⟩ rfl (by decide)⟩
theorem wit_clear : EngEventMet (.accumulatorClear 0) (accState (.clear true)) :=
  ⟨_, .clear 0 true (accOp (.clear true)) [] ⟨rfl, rfl, by decide, by decide, by decide⟩ rfl⟩

def leavingGroup (s : State) : State := withGroup s (fun g => { g with exiting := true })
theorem wit_pitchFree : EngEventMet (.pitchRelease 0 0) (leavingGroup (withPitch (idle id) pitch)) :=
  ⟨_, .pitchFree 0 0 pitch { placedGroup with exiting := true } rfl rfl rfl (by decide) rfl⟩
theorem wit_pitchWaits : EngEventMet (.pitchRelease 0 0) (leavingGroup granted) :=
  ⟨_, .pitchWaits 0 0 pitch { placedGroup with exiting := true } rfl rfl rfl (by decide)⟩
theorem wit_freeze : EngEventMet (.freezeRequest 63 true) granting ∧ EngEventMet (.freezeRequest 63 false) granting :=
  ⟨⟨_, .freeze 63 (by decide)⟩, _, .unfreeze 63 (by decide)⟩
/-- A frozen engine whose unit waits for nothing more and whose evaluation stands between rules. -/
def frozenState : State :=
  withEngines ((withPitch (idle id) pitch).setDreg (regFreeze 0) 1) (fun e => { e with units := [{ unit [] with begun := true }], evals := [evalOf true false] })
theorem wit_frozen : EngEventMet (.freezeDone 0) frozenState := ⟨_, .frozen 0 (by decide) (by decide) (by decide) (by decide)⟩
/-- An operation that draws nothing. -/
theorem wit_rastOperation : EngEventMet (.rastOperation 0) (withRast (idle id) none) :=
  ⟨_, .rast (rastOp none) (launched .ready) rfl rfl rfl (by decide) rfl (by decide) (by decide)⟩
def lateUnit : MatUnit := { unit quarters with queueWait := 2 ^ 20 }
def deadlocked : State := withEngines (placed (.mma mmaOp)) (fun e => { e with pitches := [pitch], units := [lateUnit] })
theorem wit_queueTimeout : EngEventMet (.rowQueueTimeout 0) deadlocked :=
  ⟨_, .queueTimeout 0 lateUnit (threadOf deadlocked) (by decide) rfl (by decide) (by decide) (by decide)⟩

/-! ## Events of launches, tasks, strips, rings, outputs and time -/

def LaunchMet (i : Instr) (s : State) : Prop := ∃ u, LaunchEvent s i u

theorem wit_queueWrite : LaunchMet (.launchQueueWrite 0x1000) State.reset ∧ LaunchMet (.launchQueueWrite 0x1001) State.reset :=
  ⟨⟨_, .queueWrite 0x1000 (by decide)⟩, _, .queueRefused 0x1001 (by decide)⟩

/-- A launch record at 0x5000 with its binding table at 0x5100: one crew of one thread in cluster 0, core 0, and serialiser 0. -/
def withRecord (s : State) : State :=
  let w (s : State) (a v : Nat) : State := withMem s a 8 v
  let s := w (w (w (w (w s 0x5000 (0xC1A5140200000000 + 16 * 2 ^ 21)) 0x5008 0x5100) 0x5010 0x2000) 0x5018 0x10000) 0x5020 0x20000
  let s := w (w (w (w s 0x5030 0x3000) 0x5080 0x10020) 0x50C0 0x1000) 0x50C8 0x1000100000
  w (w (w s 0x5100 0xB17D010100000000) 0x5108 0x80004000) 0x5110 0x80000000
/-- Cluster 0 and its core 0 are enabled, serialiser 0 is present, and bring-up is over. -/
def ready (s : State) : State :=
  { ((s.setDreg regCle 1).setDreg (regCores 0) 1).setDreg regCap 0xC00000 with control := { s.control with fw := { s.control.fw with phase := 7 } } }
/-- The last entry of the launch queue at 0x30000 names the record. -/
def launchable (s : State) : State := withMem (((ready s).setDreg regLq 0x30000).setDreg (regLq + 8) 0x100000000FFF) 0x3FFF0 8 0x5000
theorem sget_bit {l : Sparse Word64} (h : l.all (fun e => !(bit e.2.toNat 63)) = true) (k : Nat) : bit (sget (0 : Word64) l k).toNat 63 = false := by
  induction l with
  | nil => simp [sget, bit]
  | cons e r ih =>
    simp only [List.all_cons, Bool.and_eq_true, Bool.not_eq_true'] at h
    unfold sget
    split
    · exact h.1
    · exact ih h.2
theorem calm_all {s : State} (w : s.watchpoints.isEmpty = true) (h : s.store.dregs.all (fun e => !(bit e.2.toNat 63)) = true) (p : Nat) : unwatched s p = true := by
  have h2 : bit (s.dbg p 0x30) 63 = false := sget_bit h _
  simp [unwatched, w, State.logging, State.replaying, h2]
def judgedLaunch (x : Judged) : Launch := match x with | .admitted l => l | _ => placedLaunch
theorem judged_eq {x : Judged} (h : (match x with | .admitted _ => true | _ => false) = true) : x = .admitted (judgedLaunch x) := by
  cases x <;> simp_all [judgedLaunch]
theorem refuse_eq {x : Judged} {a b : Nat} (h : (match x with | .refuse p q => decide (p = a) && decide (q = b) | _ => false) = true) : x = .refuse a b := by
  cases x with
  | admitted => cases h
  | refuse => simp only [Bool.and_eq_true, decide_eq_true_eq] at h; rw [h.1, h.2]
theorem wit_admitted : LaunchMet .launchAdmission (launchable (withRecord (idle id))) :=
  ⟨_, .admitted 0 0x5000 _ ⟨by decide, by decide, by decide, by decide, by decide +kernel, by decide +kernel⟩ (judged_eq (by decide +kernel)) (calm_all (by decide) (by decide))⟩
/-- The record has no MAGIC and no CPL. -/
theorem wit_refused : LaunchMet .launchAdmission (launchable (idle id)) :=
  ⟨_, .refused 0 0x5000 1 0 ⟨by decide, by decide, by decide, by decide, by decide, by decide⟩ (refuse_eq (by decide +kernel))⟩

theorem wit_gang : LaunchMet (.gangStart 1 0) (withLaunch (idle id) (fun l => { l with started := [] })) :=
  ⟨_, .gang 1 0 0 1 0x4000 { placedLaunch with started := [] } rfl rfl (by decide) (by decide) (by decide) (by decide +kernel) (by decide) (by decide +kernel)⟩
/-- The group as it leaves, its thread EXITED. -/
def leftGroup (entry : Option Nat) : Workgroup := { placedGroup with exiting := true, entry := entry }
def leftState (entry : Option Nat) (tasks : List Task) : State :=
  let s := withGroup (idle (fun t => { t with st := .exited })) (fun _ => leftGroup entry)
  { s with work := { s.work with tasks := tasks } }
def taskAt (started : Option Nat) (r : TaskRec) : Task :=
  { cluster := 0, entry := 255, order := 0, lid := 1, q := 0, group := 0, w := 0, cls := 1, task := r, readVer := [], writeVer := [], started := started, chain := none }
def taskRec (ocv : Bool) : TaskRec :=
  { pc := 0x1000, chainId := 0, oci := 4095, ocv := ocv, cmk := 1, crm := 0, kind := 0, args := List.replicate 8 0, reads := [], writes := [], done := 0 }
theorem wit_exited : LaunchMet (.workgroupExited 0 0) (leftState none []) :=
  ⟨_, .exited (leftGroup none) ⟨rfl, rfl, by decide, (by decide), (by decide), by decide⟩ rfl (by decide)⟩
theorem wit_taskExited : LaunchMet (.workgroupExited 0 0) (leftState (some 255) [taskAt (some 0) (taskRec false)]) :=
  ⟨_, .taskExited (leftGroup (some 255)) (taskAt (some 0) (taskRec false)) ⟨rfl, rfl, by decide, (by decide), (by decide), by decide⟩ (by decide)⟩
def tasked (ocv : Bool) : State := { idle id with work := { (idle id).work with tasks := [taskAt none (taskRec ocv)] } }
theorem wit_dispatch : LaunchMet (.taskDispatch 0 255 0) (tasked false) :=
  ⟨_, .dispatch 0 0 0 1 0x4000 (taskAt none (taskRec false)) placedLaunch (by decide) rfl rfl rfl (by decide) (by decide)⟩
theorem wit_skipped : LaunchMet (.taskDispatch 0 255 0) (tasked true) :=
  ⟨_, .skipped 0 0 (taskAt none (taskRec true)) placedLaunch (by decide) rfl rfl (by decide) (by decide)⟩

/-- Strips of 8 lines, two in a frame of 16; plan slot 9 and launch 1; the ring is ring 3. -/
def plan (encoder : Bool) : Plan :=
  { orl := 0, height := 8, late := 0, bsr := 0, pfmt := 0, wid := 4, spf := 2, ring := 3, epoch := 0, lper := 1, vtot := 16, voff := 0, lead := 0, budg := 1
    guard_ := 0, fill := 0, tasks := [taskRec false], stat := 0x6800, crb := 0, crn := 0, qaddr := 0x608F, nref := 1, cmx := false, nenc := 0, bsa := 0x7000
    bsz := 4096, encoder := encoder, lid := 1 }
def chainOf (left : Nat) : Chain := { slot := 25, n := 0, clevel := 0, lv0 := 0, left := left, lastDone := 0, published := none }
def planSlot (chains : List Chain) : PlanSlot := { slot := 25, plan := plan false, enabled := true, est := [], nextN := 0, chains := chains }
def withMedia (s : State) (f : Media → Media) : State := { s with media := f s.media }
def planned (chains : List Chain) : State := withMedia (idle id) (fun m => { m with plans := [planSlot chains] })
theorem wit_launchAdmitted : LaunchMet (.stripAdmission 9) (planned []) :=
  ⟨_, .launchAdmitted 9 (planSlot []) placedLaunch rfl rfl rfl rfl (by decide) (by decide) (by decide)⟩
/-- At the finish time itself: with its work over, and with work left. -/
theorem wit_finish : LaunchMet (.chainFinish 9 0) (planned [chainOf 0]) ∧ LaunchMet (.chainFinish 9 0) (planned [chainOf 1]) :=
  ⟨⟨_, .finish 9 0 (planSlot [chainOf 0]) (chainOf 0) [] rfl rfl (by decide)⟩, _, .finish 9 0 (planSlot [chainOf 1]) (chainOf 1) [] rfl rfl (by decide)⟩
theorem wit_publish : LaunchMet (.ringPublish 3 0) (withRing (idle id) [{ slotOf .filling with publishing := true }]) :=
  ⟨_, .publish 3 0 { slotOf .filling with publishing := true } rfl rfl⟩
theorem wit_settle : LaunchMet (.slotSettleAtExit 3 0) (withRing (leavingGroup (idle id)) [slotOf .filling]) ∧
    LaunchMet (.slotSettleAtExit 3 0) (withRing (leavingGroup (idle id)) [slotOf .draining]) :=
  ⟨⟨_, .settleFilling 3 0 0 0 1 (slotOf .filling) (leftGroup none) rfl rfl rfl rfl rfl (by decide) rfl⟩,
    _, .settleDraining 3 0 0 0 1 (slotOf .draining) (leftGroup none) rfl rfl rfl rfl rfl (by decide) rfl⟩

def serial (first line : Nat) (strip : Option (Nat × Bool)) : Serialiser :=
  { unit := 1, rate := 0, lanes := 1, bpc := 8, plan := some (25, plan false), firstStrip := first, nextStrip := 0, line := line, strip := strip, last := none, shown := [] }
def outputting (first line : Nat) (strip : Option (Nat × Bool)) (l : List RingSlot) (lines : Nat) : State :=
  let s := withRing (planned []) l
  { withMedia s (fun m => { m with serialisers := [serial first line strip] }) with clock := { s.clock with dtc := BitVec.ofNat 136 (lines * 0x100000000000000) } }
theorem drives {first line : Nat} {strip : Option (Nat × Bool)} {l : List RingSlot} {n : Nat} : Drives (outputting first line strip l n) 1 25 (plan false) :=
  ⟨rfl, rfl⟩
theorem wit_need : LaunchMet (.serialiserStripNeed 1) (outputting 0 0 none [slotOf .ready] 0) :=
  ⟨_, .need 1 25 (plan false) (slotOf .ready) _ drives (by decide) rfl rfl (by decide +kernel) rfl (by decide +kernel)⟩
theorem wit_needLate : LaunchMet (.serialiserStripNeed 1) (outputting 0 0 none [] 0) :=
  ⟨_, .needLate 1 25 (plan false) _ drives (by decide) rfl rfl (by decide +kernel)⟩
/-- Line 16 of a frame that has 16 lines of strips and no others is line 0 of the next; in a plan with an offset it is not active. -/
def blanking : State :=
  withMedia (outputting 0 0 none [] 0) (fun m => { m with serialisers := [{ serial 0 0 none with plan := some (25, { plan false with voff := 1, vtot := 17 }) }] })
theorem wit_lineBlank : LaunchMet (.serialiserLine 1) blanking := ⟨_, .lineBlank 1 25 { plan false with voff := 1, vtot := 17 } ⟨rfl, rfl⟩ (by decide) rfl⟩
theorem wit_lineFill : LaunchMet (.serialiserLine 1) (outputting 1 7 none [] 7) := ⟨_, .lineFill 1 25 (plan false) drives (by decide) rfl⟩
theorem wit_line : LaunchMet (.serialiserLine 1) (outputting 0 7 (some (0, false)) [slotOf .draining] 7) :=
  have ⟨l, h⟩ := Option.isSome_iff_exists.mp (show ((outputting 0 7 (some (0, false)) [slotOf .draining] 7).scanLine (plan false) 8 0 7).isSome = true by decide +kernel)
  ⟨_, .line 1 25 0 7 (plan false) l (planSlot []) drives (by decide) rfl rfl h (by decide) (by decide) rfl⟩
theorem wit_train : LaunchMet (.linkTraining 1 2 4 16) (ready State.reset) := ⟨_, .train 1 2 4 16 (by decide) (by decide) (by decide) (by decide) (by decide)⟩

/-- Row 1 of four rows: strips 1 and 2 of 64 lines, READY in the two slots of the ring. -/
def session : EncSession :=
  { slot := 9, plan := { plan true with height := 64, spf := 4, vtot := 256 }, asid := 0, firstStrip := 0, frame := 0, row := 1, key := false, nextKey := false, unitStart := 0
    dropped := false, qidx := 0, treated := 0 }
def encoding : State :=
  withMedia (withRing (planned []) [{ slotOf .ready with slot := 1, seq := 1 }, { slotOf .ready with seq := 2 }]) (fun m => { m with encoders := [session] })
theorem wit_encode : LaunchMet (.encoderSuperblockRow 9) encoding :=
  ⟨_, .encode session _ (by decide) rfl (by decide) rfl (by decide +kernel)⟩
theorem wit_bsrd : LaunchMet (.bsrdWrite 9 0) (encoding.setDreg (regPlan 9 + 0x30) 4096) := ⟨_, .bsrd 9 0 session (by decide) (by decide) (by decide)⟩

/-- A plan at 0x6000 with its template of one task at 0x6100, for slot 9, and its ring. -/
def withPlan (s : State) : State :=
  let w (s : State) (a v : Nat) : State := withMem s a 8 v
  let s := w (w (w (w (w s 0x6000 0x5719000000200103) 0x6010 0x100080000) 0x6018 1) 0x6028 0x6100) 0x6030 0x5000
  let s := w (w (w s 0x6038 0x6800) 0x6100 0x1000) 0x6108 0x2000000
  (ready s).setDreg (regRing 3) (2 ^ 63 + 2 ^ 62 + 9 * 2 ^ 58 + 2 ^ 56 + 2 ^ 50 + 7 * 2 ^ 44 + 2 ^ 28)
theorem fst_eq {x : Nat × State} {n : Nat} (h : x.1 = n) : x = (n, x.2) := by rw [← h]
theorem wit_enabled : LaunchMet (.planEnable 9 0x8000000000006000) (withPlan (withRecord (idle id))) :=
  ⟨_, .enabled 9 0x8000000000006000 _ (by decide) rfl (by decide) (fst_eq (by decide +kernel))⟩
theorem wit_enableRefused : LaunchMet (.planEnable 9 0x8000000000006000) (idle id) :=
  ⟨_, .enableRefused 9 2 0x8000000000006000 _ (by decide) rfl (by decide) (by decide) (fst_eq (by decide +kernel))⟩
theorem wit_disabled : LaunchMet (.planDisable 9) (planned []) := ⟨_, .disabled 9 (planSlot []) (by decide) rfl⟩
theorem wit_ringWords : LaunchMet (.ringDescriptorWrite 255 0 1) (withRing (idle id) [slotOf .ready]) ∧ LaunchMet (.ringDescriptorWrite 255 1 1) (withRing (idle id) [slotOf .ready]) ∧
    LaunchMet (.ringDescriptorWrite 3 1 1) (withRing (idle id) [slotOf .ready]) :=
  ⟨⟨_, .ringWord0 255 1 (by decide) (by decide)⟩, ⟨_, .ringWord1 255 1 (by decide) (by decide)⟩, _, .ringHeld 3 1 1 (slotOf .ready) (by decide) rfl⟩

theorem wit_time : LaunchMet (.adjWrite 0x7FFFFFFF) State.reset ∧ LaunchMet (.stepvWrite 0x7FFFFFFFFFFFFFFF) State.reset ∧
    LaunchMet (.stepvWrite 0x8000000000000000) State.reset ∧ LaunchMet (.stepvWrite 1) (planned []) ∧ LaunchMet .dtcTick State.reset :=
  ⟨⟨_, .adj _⟩, ⟨_, .stepv _ (by decide) (by decide)⟩, ⟨_, .stepvRefused _ (.inr (by decide))⟩, ⟨_, .stepvRefused _ (.inl (by decide))⟩, _, .tick _ rfl rfl⟩
/-- The timing port is port 3. -/
def timed (s : State) : State := s.modFw (fun f => { f with timingPort := some 3 })
theorem wit_ptp : LaunchMet (.ptpEventTimestamp { port := 3, oneStep := true, transport := .udp4 }) State.reset ∧ LaunchMet (.ptpAnnounceTimeout 8) (timed State.reset) ∧
    LaunchMet (.ptpMessageReceived 3 .announce) State.reset ∧ LaunchMet (.ptpMessageReceived 3 .sync) (timed (planned [])) :=
  ⟨⟨_, .stamp _ (by decide)⟩, ⟨_, .announceTimeout 8 3 3 rfl (by decide)⟩, ⟨_, .firstAnnounce 3 (by decide) rfl⟩, _, .sync 3 _ (by decide) rfl (by decide) rfl⟩

/-! ## Events of the device in its system -/

def SysEventMet (i : Instr) (s : State) : Prop := ∃ u, SystemEvent s i u

def walkTrans (x : Walk) : Trans := match x with | .found t => t | _ => placedTrans
theorem walk_eq {x : Walk} (h : (match x with | .found _ => true | _ => false) = true) : x = .found (walkTrans x) := by cases x <;> simp_all [walkTrans]
/-- Address space 0 has its root at 0x8000 and tables at 0x9000 and 0xA000, whose entry 1 is a page of 1 GiB at 1 GiB. -/
def mapped : State :=
  withMem (withMem (withMem (withMem ((idle id).setDreg regAstb 0x7000) 0x7000 8 (2 ^ 63 + 0x8000)) 0x8000 8 0x9001) 0x9000 8 0xA001) 0xA008 8 0x40000103
theorem wit_walked : SysEventMet (.pageWalk 63 0 0x7FFFFFFF { core := none, evict := [0], evictWalks := [] }) mapped :=
  ⟨_, .walked 63 0 0x7FFFFFFF [0] [] _ _ (by decide) rfl rfl rfl (by decide) (walk_eq (by decide +kernel))⟩
theorem wit_cachedInCore : SysEventMet (.pageWalk 0 0 0x1FFFFF { core := some 3, evict := [], evictWalks := [] }) (idle id) :=
  ⟨_, .cachedInCore 0 3 0 0x1FFFFF [] [] placedTrans _ (by decide) rfl rfl (by decide) (by decide)⟩

/-- A fault buffer of 16 entries at 0x5000 with one place left, and a fault and an error to record. -/
def faultRec (written : Bool) : FaultRec := { fid := 5, asid := 0, kind := 0, level := 4, va := 0x400000, written := written }
def errRec : ErrRec := { kind := 14, asid := 0, addr := 0x5000, unit := 0, index := 1, count := 1 }
def faulty (l : List FaultRec) : State :=
  let s := ((idle id).setDreg regFb (4 * 2 ^ 52 + 0x5000)).setDreg (regFb + 8) 15
  { s with store := { s.store with faults := l, errs := [errRec] } }
theorem roomOf (b : Bool) : BufferRoom (faulty [faultRec b]) 4 0x5000 0 15 := by cases b <;> exact ⟨by decide, by decide, by decide, by decide, by decide⟩
theorem wit_faultRecord : SysEventMet .faultRecord (faulty [faultRec false]) := ⟨_, .faultRecord (faultRec false) 4 0x5000 0 15 (by decide) (roomOf _)⟩
theorem wit_errorRecord : SysEventMet .faultRecord (faulty [faultRec true]) := ⟨_, .errorRecord errRec [] 4 0x5000 0 15 (by decide) rfl (roomOf _)⟩
theorem answerable : Answerable (faulty [faultRec true]) (faultRec true) := ⟨by decide, calm_all (by decide) (by decide)⟩
theorem wit_answers : SysEventMet (.faultAnswerRetry 5) (faulty [faultRec true]) ∧ SysEventMet (.faultAnswerFail 5) (faulty [faultRec true]) :=
  ⟨⟨_, .retry 5 (faultRec true) rfl answerable⟩, _, .fail 5 (faultRec true) rfl answerable⟩
theorem wit_bufferConfig : SysEventMet (.faultBufferConfig 0xFFFFFFFFFFFFFFFF) State.reset := ⟨_, .bufferConfig _⟩

/-- Sixteen corrected errors of a unit in the last second, with this one. -/
def erring : State := State.reset.modFw (fun f => { f with corrected := List.replicate 15 (2, 63, 0) })
theorem wit_corrected : SysEventMet (.correctedError 2 63) erring := ⟨_, .corrected 2 63 _ rfl (by decide)⟩
theorem wit_errors : SysEventMet (.uncorrectableError (.cleanLine 0x5000)) (idle id) ∧ SysEventMet (.uncorrectableError (.memory 0x2FFFFFFFFFF)) (idle id) ∧
    SysEventMet (.uncorrectableError (.register placedName 4)) (withRegs (placed .nop) [(4, 7)]) :=
  ⟨⟨_, .cleanLine _⟩, ⟨_, .poisoned _ (by decide) (by decide)⟩, _, .registerLost (threadOf (withRegs (placed .nop) [(4, 7)])) 4 7 (by decide) (by decide)⟩
theorem wit_retired : SysEventMet (.unitRetirement 0 true) (ready State.reset) := ⟨_, .retired 0 true (by decide) (by decide) rfl⟩

/-- Three persistent expanders, and the image's base at the first of them. -/
def persisting : State := ((ready (idle id)).setDreg regCap 0xE100).setDreg (regCk + 8) 0x100000000000
theorem wit_checkpointGo : SysEventMet (.checkpointGo true) persisting :=
  ⟨_, .checkpointGo true ⟨by decide, by decide, by decide, by decide, by decide, by decide⟩⟩
theorem wit_checkpointRefused : SysEventMet (.checkpointGo false) (ready (planned [])) := ⟨_, .checkpointRefused false (by decide) rfl rfl⟩
def stopOf (reached : List Nat) (complete : Bool) : Stop :=
  { cluster := 0, src := 1, idx := 0, t0 := 0, reached := reached, complete := complete, stepping := none, stepThreads := [], thawAsked := false, deferred := [], past := []
    checkpoint := true }
def stopping (s : State) (reached : List Nat) (complete : Bool) : State := { s with control := { s.control with stops := [stopOf reached complete] } }
/-- BUSY, every stop complete. -/
def resting : State := stopping (persisting.setDreg (regCk + 16) (2 ^ 63)) [0, 1, 2, 3] true
theorem wit_checkpointComplete : SysEventMet (.checkpointComplete 17 false) resting ∧ SysEventMet (.checkpointComplete 17 true) resting :=
  ⟨⟨_, .checkpointDone 17 (by decide)⟩, _, .checkpointError 17 (by decide)⟩
def imaged : State :=
  let s := ready State.reset
  { s with control := { s.control with image := some { clock := Clock.reset, store := Store.reset, work := Work.reset, engines := Engines.reset, media := Media.reset, valid := true, dest := 0x100000000000 } } }
theorem wit_imageRestored : SysEventMet .checkpointRestore imaged := ⟨_, .restored _ rfl rfl rfl rfl (by decide)⟩

/-- The last 16 bytes of LPDDR, and the first byte after it. -/
theorem wit_host : SysEventMet (.hostRdmaAccess true 0x2FFFFFFFFF0 16 1) State.reset ∧ SysEventMet (.hostRdmaAccess false 0x2FFFFFFFFF0 16 0) State.reset ∧
    SysEventMet (.hostRdmaAccess true 0x30000000000 1 0) State.reset :=
  ⟨⟨_, .hostWrite _ 16 1 rfl rfl (by decide) (by decide) (by decide) (calm_all (by decide) (by decide) _)⟩,
    ⟨_, .hostRead _ 16 0 rfl rfl (by decide) (by decide) (by decide) (by decide)⟩, _, .hostAstray true _ 1 0 rfl rfl (by decide) (by decide)⟩
theorem wit_attested : SysEventMet (.attestationRequest 1) (ready State.reset) ∧
    SysEventMet (.attestationRequest 1) ((ready State.reset).modFw (fun f => { f with attested := Config.attestationLimit })) :=
  ⟨⟨_, .attested 1 rfl (Nat.zero_lt_succ _)⟩, _, .attestedOut 1 rfl (Nat.le_refl _)⟩

def boot (sig test : Bool) : BootFound :=
  { image := { version := Config.fuseVersion, signatureVerifies := sig, digest := 0 }, cle := 1, cores := 15, cap2 := 0, cap3 := 0, astb := 0, carveouts := [], sramTestOk := test }
theorem wit_bringUp : SysEventMet (.bringUp (boot false true)) State.reset ∧ SysEventMet (.bringUp (boot true false)) State.reset ∧
    SysEventMet (.bringUp (boot true true)) State.reset :=
  ⟨⟨_, .recovery _ (by decide) rfl (by decide) (.inl rfl)⟩, ⟨_, .sramTest _ (by decide) rfl (by decide) ⟨rfl, Nat.le_refl _⟩ rfl⟩, _, .up _ (by decide) rfl (by decide) ⟨rfl, Nat.le_refl _⟩ rfl⟩
theorem wit_upload : SysEventMet (.firmwareUpload (boot true true).image) (State.reset.modFw (fun f => { f with recovery := true })) := ⟨_, .upload _ rfl⟩
theorem wit_heat : SysEventMet (.thermalHold 100) State.reset ∧ SysEventMet (.thermalHold 95) State.reset ∧ SysEventMet (.thermalTrip 110) State.reset ∧
    SysEventMet (.powerCapWrite 600) State.reset ∧ SysEventMet (.powerCapWrite 1800) State.reset :=
  ⟨⟨_, .hot _ (by decide)⟩, ⟨_, .cool _ (by decide)⟩, ⟨_, .trip _ (by decide)⟩, ⟨_, .cap _ (by decide)⟩, _, .cap _ (by decide)⟩
/-- ADJ, as a device register. -/
theorem wit_register : SysEventMet (.registerWrite 0xF000000001010 1 1) State.reset ∧ SysEventMet (.registerWrite 0xF000000001010 1 0) State.reset :=
  ⟨⟨_, .registerWrite _ 1 1 .adj (by decide) (by decide) (by decide) (by decide)⟩, _, .registerUser _ 1⟩
theorem wit_connection : SysEventMet (.rdmaConnectionSetup 3 true) State.reset := ⟨_, .connection 3 true⟩

theorem wit_stopTrigger : SysEventMet (.clusterStopTrigger 63 6 15) (idle id) ∧ SysEventMet (.clusterStopTrigger 0 1 0) (idle id) :=
  ⟨⟨_, .stopTrigger 63 6 15 (by decide) (by decide) (by decide)⟩, _, .stopTrigger 0 1 0 (by decide) (by decide) (by decide)⟩
theorem wit_stopArrival : SysEventMet (.clusterStopArrival 3) (stopping (idle id) [0, 1, 2] false) :=
  ⟨_, .stopArrival 3 (stopOf [0, 1, 2] false) rfl (by decide)⟩
theorem wit_stopComplete : SysEventMet (.stopComplete 0) (stopping ((idle id).setDreg (regFreeze 0) 3) [0, 1, 2, 3] false) :=
  ⟨_, .stopComplete 0 (stopOf [0, 1, 2, 3] false) rfl rfl (by decide) (by decide)⟩
theorem stoppedAt : StoppedCluster resting 0 (stopOf [0, 1, 2, 3] true) := ⟨rfl, rfl, rfl⟩
theorem wit_stopped : SysEventMet (.thaw 0) resting ∧ SysEventMet (.dump 0) resting ∧ SysEventMet (.debugStep 0) resting :=
  ⟨⟨_, .thaw 0 _ stoppedAt⟩, ⟨_, .dump 0 _ stoppedAt⟩, _, .step 0 _ stoppedAt⟩
/-- A word that pipe 2 of core 0 has tagged and that has left it. -/
def tagged : State :=
  { idle id with control := { (idle id).control with tagged := [{ core := 0, pipe := 2, pc := { ca := 0x1000, wi := 0 }, threads := [placedName], level := 1, tlb := 1 }] } }
theorem wit_sampleRecord : SysEventMet (.sampleRecord 0 2) tagged := ⟨_, .sampled 0 2 _ _ rfl rfl rfl⟩
theorem wit_summaryNone : SysEventMet (.traceSummary 3) ((idle id).setDbg 0 0x318 (2 ^ 63)) := ⟨_, .summaryNone 3 (by decide) (by decide)⟩
/-- Launch 2 is selected; 65,536 cycles have passed. -/
def traced : State :=
  let s := (idle id).setDbg 0 0x300 (2 ^ 63 + 2 ^ 45)
  { s with clock := { s.clock with clk := 65536 }, control := { s.control with counts := [{ core := 0, slot := 0, clauses := 1, words := 2, blocked := 3, since := 0 }] } }
theorem wit_summary : SysEventMet (.traceSummary 0) traced :=
  ⟨_, .summary 0 placedGroup _ _ (by decide) (by decide) rfl rfl rfl rfl (by decide) rfl⟩
theorem wit_trailOff : SysEventMet (.trailEnable 63 0x7FFFFFFFFFFFFFFF) State.reset := ⟨_, .trailOff 63 _ (by decide) (by decide)⟩
/-- Replay of a choice that was due at cycle 0. -/
def replayed : State :=
  let s := (idle id).setDbg 0 0x30 (2 ^ 63 + 2 ^ 61)
  { s with clock := { s.clock with clk := 0x100000 }, control := { s.control with replayAt := [(0, 0)] } }
theorem wit_divergence : SysEventMet (.replayDivergence 0) replayed := ⟨_, .divergence 0 0 0 rfl (by decide) (by decide)⟩

/-! ## The step, the checks of a word, traps, gangs -/

/-- A word and the step that takes it; the placed pack has the turn of pipe 0. -/
def stepping (w : Nat) : State := State.reset.withFetchWord 64 w
def turned (w : Nat) : State := { stepping w with agenda := [], cur := none }
def fetchWord (x : Fetched) : Word64 := match x with | .ok w _ => w | _ => 0
def fetchState (x : Fetched) : State := match x with | .ok _ s => s | _ => State.reset
theorem fetch_eq {x : Fetched} {w : Word64} (h : (match x with | .ok v _ => decide (v = w) | _ => false) = true) : x = .ok w (fetchState x) := by
  cases x <;> simp_all [fetchState]
/-- The premises of a step on a word: the turn is the pipe's, its pack may issue, and the word is fetched. -/
def StepMet (w : Nat) : Prop :=
  (stepping w).agenda = .issue 0 0 :: [] ∧ AtIssue (turned w) 0 0 (packOf (turned w)) placedName ((turned w).unhold (packOf (turned w))) ∧
  ∃ s1, ((turned w).unhold (packOf (turned w))).fetch 0 (((turned w).unhold (packOf (turned w))).asidOf placedName) (((turned w).unhold (packOf (turned w))).packLevel (packOf (turned w))) (wordAddr (packOf (turned w)).ca 0) = .ok (BitVec.ofNat 64 w) s1
theorem wit_step : StepMet 0x4185002000001234 ∧ decode 0x4185002000001234 = .ok (.movi (.i 5 0 1 0 false 0x1234)) :=
  ⟨⟨rfl, ⟨rfl, by decide, by decide, rfl, rfl, by decide⟩, _, fetch_eq (by decide +kernel)⟩, by decide⟩
/-- An unassigned opcode, and NOP with a reserved bit. -/
theorem wit_undecodable : (StepMet 0x0D00000000000000 ∧ decode 0x0D00000000000000 = .error .illegalOp) ∧ (StepMet 0x0000000000000001 ∧ decode 1 = .error .illegalField) :=
  ⟨⟨⟨rfl, ⟨rfl, by decide, by decide, rfl, rfl, by decide⟩, _, fetch_eq (by decide +kernel)⟩, by decide⟩, ⟨rfl, ⟨rfl, by decide, by decide, rfl, rfl, by decide⟩, _, fetch_eq (by decide +kernel)⟩, by decide⟩
theorem xlat_eq {x : Xlat} {pa leaf : Nat} (h : (match x with | .ok p l => decide (p = pa) && decide (l = leaf) | _ => false) = true) : x = .ok pa leaf := by
  cases x <;> simp_all
theorem wit_fetch : (placed .nop).xlat (.core 0) 0 0x1008 0 { write := false, fetch := true, bytes := 8 } = .ok 0x1008 pageLeaf ∧ (placed .nop).poisoned 0x1008 8 = false ∧
    freshCode (placed .nop) 0 0x1008 := ⟨xlat_eq (by decide), by decide, by rw [freshCode, show (placed .nop).otherWords 0 0x1008 = [] from rfl]; nofun⟩
/-- A host write comes outside a checkpoint, and during one. -/
theorem wit_stepEvent : State.hostHeld (idle id) (.launchQueueWrite 1) = none ∧
    ∃ s1, State.hostHeld resting (.launchQueueWrite 1) = some s1 := ⟨by decide, Option.isSome_iff_exists.mp (by decide)⟩

/-- A word whose checks fail: TRET at program level, and a word of the last slot of a clause that may not stand there. -/
def FailsWith (i : Instr) (s : State) (info : TrapInfo) : Prop := ∃ w, encode i = some w ∧ s.issuing = some (packOf s) ∧ s.wordFate i (packOf s) = some info
theorem wit_failed : FailsWith (.tret (sy 0 0 0 0)) (withThread (placed (.tret (sy 0 0 0 0))) (fun t => { t with level := 0 })) (trapOf .priv 0) :=
  ⟨_, rfl, by decide, by decide⟩
def atUser (i : Instr) : State := withThread (placed i) (fun t => { t with level := 0 })
def privilegedWords : List Instr :=
  [.tret (sy 0 0 0 0), .tretEnd (sy 0 1 0 0), .tlbiPage (sy 2 0 0 0), .tlbiAsid (sy 0 1 0 0), .tlbiAll (sy 0 2 0 0), .ctxsvCopy (sy 2 0 4 0), .ctxsvRel (sy 2 1 4 0),
   .ctxsvWg (sy 2 2 4 0), .ctxldRegs (sy 2 0 4 0), .ctxldFull (sy 2 1 4 0), .ctxldWg (sy 2 2 4 0), .sread (sy 0 0x70 4 0), .sread (sy 0 0x71 4 0)]
theorem clause_of {i : Instr} {s : State} (h : (∀ t1 t2, clauseFate i ((encode i).getD 0) (packOf s).hdr (packOf s).wi (packOf s).pa (packOf s).pb t1 t2 = none) )
    (w : Word64) (e : encode i = some w) : ∀ t1 t2, clauseFate i w (packOf s).hdr (packOf s).wi (packOf s).pa (packOf s).pb t1 t2 = none := by
  rw [e] at h; exact h
theorem wit_privilege : privileged (.tret (sy 0 0 0 0)) = true ∧ (atUser (.tret (sy 0 0 0 0))).packLevel (packOf (atUser (.tret (sy 0 0 0 0)))) = 0 ∧
    (atUser (.tret (sy 0 0 0 0))).issuing = some (packOf (atUser (.tret (sy 0 0 0 0)))) ∧
    ∀ t1 t2, clauseFate (.tret (sy 0 0 0 0)) ((encode (.tret (sy 0 0 0 0))).getD 0) (packOf (atUser (.tret (sy 0 0 0 0)))).hdr 0 0 0 t1 t2 = none :=
  ⟨rfl, by decide, by decide, by intro t1 t2; rfl⟩
theorem wit_privileged : ∀ i ∈ privilegedWords, privileged i = true ∧ (encode i).isSome = true ∧ (atUser i).wordFate i (packOf (atUser i)) = some (trapOf .priv 0) := by decide

/-- A load behind P1, which is false, and behind P0 inverted. -/
def guarded (g : BitVec 4) (gn : Bool) : Instr := .ld { mr 4 6 4 0x40 with g := g, gn := gn }
def OffMet (i : Instr) (g : BitVec 4) (gn : Bool) : Prop :=
  guardField i = some (g, gn) ∧ (encode i).isSome = true ∧ runs i (placed i) (packOf (placed i)) = true ∧ (packOf (placed i)).threads = [(threadOf (placed i)).name] ∧
    (threadOf (placed i)).st = .issuing ∧ (threadOf (placed i)).guard g gn = false ∧ (placed i).unitOf (packOf (placed i)) = none
theorem wit_guardOff : OffMet (guarded 1 false) 1 false ∧ OffMet (guarded 15 false) 15 false ∧ OffMet (guarded 0 true) 0 true := by
  refine ⟨⟨rfl, ?_, ?_, ?_, ?_, ?_, ?_⟩, ⟨rfl, ?_, ?_, ?_, ?_, ?_, ?_⟩, ⟨rfl, ?_, ?_, ?_, ?_, ?_, ?_⟩⟩ <;> decide

theorem wit_trapEntry : (placed .nop).thread? placedName = some (threadOf (placed .nop)) ∧ (threadOf (placed .nop)).handling = none := by decide
/-- The last record slot. -/
theorem wit_handlerEntry : (queuedTrap none).launch? placedGroup.lid = some placedLaunch ∧
    (queuedTrap none).thread? { core := 0, slot := 0, wti := 0, ctx := 16 } = none := by decide
/-- A trapped thread; one of them has a failed access due. -/
def boundaryThread : Thread := { trappedThread (some 0) with boundary := [(trapOf .pageFatal 6, { ca := 0x1000, wi := 0 }, 0)] }
theorem wit_trapReturn : (queuedTrap (some 0)).thread? placedName = some (trappedThread (some 0)) ∧ (trappedThread (some 0)).boundary = [] ∧ boundaryThread.boundary ≠ [] ∧
    (∀ q ∈ (queuedTrap (some 0)).work.packs ++ (queuedTrap (some 0)).work.resumes, placedName ∉ q.threads) ∧ (trappedThread (some 0)).handling = none := by decide
/-- Two crews of 32 threads and of one, side by side; the last thread of the first. -/
def gang : Workgroup :=
  { placedGroup with crews := [{ crew := 0, firstSquad := 0, nth := 32, epc := 0x1000 }, { crew := 1, firstSquad := 1, nth := 1, epc := 0x1000 }] }
theorem wit_initialThread : gang.crews.Pairwise (fun a b => ∀ x < a.nth, ∀ y < b.nth, 32 * a.firstSquad + x ≠ 32 * b.firstSquad + y) ∧
    { crew := 0, firstSquad := 0, nth := 32, epc := 0x1000 } ∈ gang.crews ∧ State.reset.thread? { core := gang.core, slot := gang.slot, wti := 31, ctx := 0 } = none := by decide

/-- What retires a word: the last of its clause, and one before it; with the loop's end at the clause, and without. -/
def FinishMet (s : State) : Prop :=
  Lone .nop s (packOf s) (threadOf s) ∧ killRegs .nop = [] ∧ s.thread? placedName = some (threadOf s) ∧ (threadOf s).boundary = [] ∧ (hStep (packOf s).hdr && s.stepOn 0) = false
def looped (count : Word32) : State := withThread (placed .nop) (fun t => { t with loops := [{ start := 0x800, stop := 0x1000, count := count, depth := 0 }] })
/-- The first of two words. -/
def longer : State := withPack (placed .nop) (fun p => { p with hdr := p.hdr ||| 1 })
theorem wit_finishKeeps : FinishMet (placed .nop) ∧ FinishMet (looped 2) := ⟨⟨lone_of (by decide), rfl, by decide, rfl, by decide⟩, lone_of (by decide), rfl, by decide, rfl, by decide⟩
theorem wit_nextWord : FinishMet longer ∧ (packOf longer).wi ≠ hNi (packOf longer).hdr ∧ (packOf (placed .nop)).wi = hNi (packOf (placed .nop)).hdr ∧ counts ((encode .nop).getD 0) = false ∧ counts ((encode (.movi (.i 5 0 1 0 false 0))).getD 0) = true :=
  ⟨⟨lone_of (by decide), rfl, by decide, rfl, by decide⟩, by decide⟩

/-! ## Memory, barriers, passes, numbers -/

theorem wit_tidy : tidy State.reset ∧ ∃ u, step State.reset = .next u := ⟨⟨by decide, fun _ h => by cases h⟩, _, rfl⟩
theorem wit_memory : Memory.wf [] = true ∧ Memory.wf (Mem.write [] 0xFFFFFFFFFFFFF [1, 0, 2]) = true := by decide
theorem wit_encodings : (Instr.movi (.i 5 0 1 0 false 0x1234)).wellFormed = true ∧ encode (.movi (.i 5 0 1 0 false 0x1234)) = some 0x4185002000001234 := by decide
/-- A reserved bit of NOP, of the VR form, of SY. -/
theorem wit_reservedBits : reservedSet 0x0080000000000000 = true ∧ reservedSet 0x1000000000008000 = true ∧ reservedSet 0xB000000000800000 = true := by decide

/-- Credits that leave both counts above zero, and ones that end the phase. -/
def counting : State := { barred .nop 16 32 2 4 with cur := none }
theorem wit_barrierPhase : Sys2Proof.canonical counting = true ∧ (counting.mark? 0 0x3FE0 false).isSome = true ∧ unwatched counting 0 = true ∧ counting.stop? 0 = none ∧
    (∀ x ∈ counting.work.threads, x.st = .issuing) ∧ 15 ≤ (counting.readBar 0 0x3FE0).pby ∧ 16 ≤ (counting.readBar 0 0x3FE0).pby ∧ 2 ≤ (counting.readBar 0 0x3FE0).par ∧
    (counting.readBar 0 0x3FE0).pby = 16 ∧ (counting.readBar 0 0x3FE0).par = 2 ∧ 0 < (counting.readBar 0 0x3FE0).rby ∧
    (∀ o ∈ counting.engines.delayed, o.object ≠ { core := 0, addr := 0x3FE0 }) ∧ counting.scratchPoisoned 0 0x3FE0 32 = false := by decide
/-- A pass of one quarter over the last 8 rows of the accumulators. -/
def lastRows : State :=
  withEngines (idle id) (fun e => { e with passes := [{ cluster := 0, fa := 5, fb := 5, mode := 0, quarters :=
    [{ pitch := 0, push := true, row := 1016, half := true, a := [], b := [], creditA := none, creditB := none }] }] })
theorem wit_quarter : Sys2Proof.canonical lastRows = true ∧ lastRows.engines.passes = [{ cluster := 0, fa := 5, fb := 5, mode := 0, quarters :=
    [{ pitch := 0, push := true, row := 1016, half := true, a := [], b := [], creditA := none, creditB := none }] }] := by decide

/-- A word has a result, and its last element an exact one. -/
def ExactMet (i : Instr) (s : State) : Prop :=
  ∃ o sp r e, vecSpec i = some (o, sp) ∧ vectorResult i (ctxOf (packOf s) i) s o sp (threadOf s) = some r ∧
    (let x := vecIn (ctxOf (packOf s) i) o sp (threadOf s)
     exactInt i (elemBits x.ty) (elemInt (tySigned x.ty) (elemBits x.ty) x.a (elemCount x.ty - 1)) (elemInt (tySigned x.ty) (elemBits x.ty) x.b (elemCount x.ty - 1))
       (elemInt (tySigned x.ty) (elemBits x.ty) x.c (elemCount x.ty - 1)) = some e) ∧ 0 < elemCount (vecIn (ctxOf (packOf s) i) o sp (threadOf s)).ty
def exactB (i : Instr) (s : State) : Bool :=
  match vecSpec i with
  | some (o, sp) => (vectorResult i (ctxOf (packOf s) i) s o sp (threadOf s)).isSome &&
    (let x := vecIn (ctxOf (packOf s) i) o sp (threadOf s)
     (exactInt i (elemBits x.ty) (elemInt (tySigned x.ty) (elemBits x.ty) x.a (elemCount x.ty - 1)) (elemInt (tySigned x.ty) (elemBits x.ty) x.b (elemCount x.ty - 1))
       (elemInt (tySigned x.ty) (elemBits x.ty) x.c (elemCount x.ty - 1))).isSome) && decide (0 < elemCount (vecIn (ctxOf (packOf s) i) o sp (threadOf s)).ty)
  | none => false
theorem exact_of {i : Instr} {s : State} (h : exactB i s = true) : ExactMet i s := by
  unfold exactB at h
  split at h
  · rename_i o sp e
    simp only [Bool.and_eq_true, decide_eq_true_eq] at h
    obtain ⟨⟨h1, h2⟩, h3⟩ := h
    obtain ⟨r, hr⟩ := Option.isSome_iff_exists.mp h1
    obtain ⟨x, hx⟩ := Option.isSome_iff_exists.mp h2
    exact ⟨o, sp, r, x, e, hr, hx, h3⟩
  · cases h
/-- The eight words of R384 without IADC, ICMP and LEA. -/
def exactWords : List Instr := integerWords.filter (fun i => match i with | .iadc _ | .icmp _ | .lea _ => false | _ => true)
theorem wit_exact : ∀ i ∈ exactWords, ExactMet i (placed i) := fun i hi => exact_of (all_of (f := fun i => exactB i (placed i)) (by decide) i hi)
/-- Carry predicates P0 and P15, and counts at the width and below it. -/
def resultB (i : Instr) (s : State) : Bool := match vecSpec i with | some (o, sp) => (vectorResult i (ctxOf (packOf s) i) s o sp (threadOf s)).isSome | none => false
def carryWords : List Instr := [.iadc (vr 2 4 6 0 3 0), .iadc (vr 2 4 6 0 3 15)]
theorem wit_carry : ∀ i ∈ carryWords, resultB i (placed i) = true := by decide
def shiftWords : List Instr := [.shl (vr 2 4 6 0 3 0), .shr (vr 2 4 6 0 3 0), .sar (vr 2 4 6 0 2 0)]
def shiftBy (k : Nat) (i : Instr) : State := withRegs (placed i) [(4, 0x80000001), (6, k)]
theorem wit_shifts : ∀ i ∈ shiftWords, ∀ k ∈ [0, 31, 32, 255], resultB i (shiftBy k i) = true := by decide
/-- An immediate operand in each kind of type. -/
theorem wit_widening : (0x80000000 : Nat) < 2 ^ 32 ∧ ∃ o sp, vecSpec (.iadd (.i 2 4 2 0 false 0x80000000)) = some (o, sp) ∧ ∃ n, sp.b = .s n := ⟨by decide, _, _, rfl, _, rfl⟩
theorem wit_classes : fp16 ∈ infFormats ∧ expField fp16 0x7C00 = 2 ^ fp16.eb - 1 ∧ manField fp16 0x7C00 = 0 ∧ manField fp16 0x7FFF ≠ 0 ∧ expField fp16 0x7BFF ≠ 2 ^ fp16.eb - 1 := by
  simp [infFormats, expField, manField, fp16]

/-- Targets at a boundary: the first not a multiple of 8, and the first with bit 57. -/
def TargetMet (i : Instr) (s : State) (v : Nat) : Prop := Lone i s (packOf s) (threadOf s) ∧ targetOf (threadOf s) i = some v
theorem wit_targets : TargetMet (.brx (ct 2 0 0)) (withRegs (placed (.brx (ct 2 0 0))) [(2, 0x1001)]) 0x1001 ∧
    TargetMet (.callx (ct 2 0 0)) (withRegs (placed (.callx (ct 2 0 0))) [(3, 0x02000000)]) 0x200000000000000 ∧
    TargetMet (.ret (ct 0 0 0)) (withThread (placed (.ret (ct 0 0 0))) (fun t => { t with depth := 1, calls := [0x200000000000000] })) 0x200000000000000 :=
  ⟨⟨lone_of (by decide), by decide⟩, ⟨lone_of (by decide), by decide⟩, lone_of (by decide), by decide⟩
def refillTo (v : Word64) : Thread := { calling none (launched .ready) with callXfer := some { entry := 0, store := none, target := v, fid := none } }
theorem wit_refillTarget : (idle (fun _ => refillTo 0x1001)).thread? placedName = some (refillTo 0x1001) ∧ (idle (fun _ => refillTo 0x1001)).stopped 0 = false ∧
    (idle (fun _ => refillTo 0x1001)).poisoned 0x20200 8 = false ∧ (idle (fun _ => refillTo 0x1001)).watchpoints = [] ∧
    (idle (fun _ => refillTo 0x1001)).xlat (.core 0) 0 ((idle (fun _ => refillTo 0x1001)).tsaOf placedName + 512) 1 { write := false, thread := true, bytes := 8 } = .ok 0x20200 pageLeaf :=
  ⟨by decide, by decide, by decide, by decide, xlat_eq (by decide)⟩

/-! ## Words of the spec's worked cases, and words written from its encodings, decode to the instructions they stand for -/

def readsAs (l : List (Word64 × Instr)) : Bool := l.all (fun x => decode x.1 == .ok x.2)

/-- R41 and R65: control transfer. -/
theorem test_controlWords : readsAs
    [(0x0228_0000_FFFF_FFFB, .bra { ct 0 0 0xFFFFFFFB with g := 2, gn := true }), (0x0400000000000040, .call (ct 0 0 0x40)), (0x0900000300000005, .loop (ct 0 3 5)),
     (0x0800500200000002, .switch (ct 5 2 2)), (0x0B28000000000000, .yield { ct 0 0 0 with g := 2, gn := true }),
     (0x0100000009880000, .pfx 0 0x9880000), (0x0188002008800200, .pfx 0x8800200 0x8800200), (0x0000000000000000, .nop)] = true := by decide
/-- R60, R61: vector words of a literal, an immediate, a kill bit. -/
theorem test_vectorWords : readsAs
    [(0x3004020802400000, .fadd (.r 4 1 2 0 false true false 4 0)), (0x330509FC30400000, .ffma (.r 5 4 127 6 false false false 4 0)),
     (0x10870E0000000010, .iadd (.i 7 7 0 0 false 16)), (0x4185002000001234, .movi (.i 5 0 1 0 false 0x1234)), (0x43840220000032D0, .plop (.i 4 1 1 0 false 0x32D0)),
     (0x2002081800310000, .and (vr 2 4 6 0 3 1)), (0x4702080000130000, .vote (vr 2 4 0 0 1 3)), (0x4B000C0000000000, .xeq (vr 0 6 0 0 0 0)),
     (0x321B285400400000, .fmul (vr 27 20 21 0 4 0)), (0x5503040004420000, .actv (.r 3 2 0 0 true false false 4 2)), (0x5002020000410000, .logc (vr 2 1 0 0 4 1))] = true := by
  decide
/-- R62 to R64: memory words. -/
theorem test_memoryWords : readsAs
    [(0x6006181150000040, .ld { mr 3 6 2 0x40 with scope := 4, ord := 1 }), (0x6408180050A00040, .atom (mr 4 6 2 0xA00040)),
     (0x6312140610000010, .sts { ms 9 5 2 16 with scope := 1, ord := 2 }), (0x6700001200000000, .fence { ms 0 0 0 0 with scope := 4, ord := 2 }),
     (0x6B06000010000014, .wset (ms 3 0 2 20)), (0x65FE34C010000020, .atoms { ms 127 13 2 0x20 with g := 3 })] = true := by decide
/-- R66: copies, barriers, queues, rings, graphics. -/
theorem test_agentWords : readsAs
    [(0x7000300000800000, .cpy { ag 0 12 0 0 0 with ka := true }), (0x7300001000010001, .cwaitLnd { ag 0 0 0 1 1 with scope := 4 }), (0x7400000000000011, .town (ag 0 0 0 0 17)),
     (0x7600080000000004, .barv (ag 0 2 0 0 4)), (0x83000C0012000000, .qpop (ag 0 3 9 0 0)), (0xA01410000A800040, .rast { ag 10 4 5 0 64 with ka := true }),
     (0xA10010000A000003, .bina (ag 0 4 5 0 3)), (0xA20E100000000000, .occr (ag 7 4 0 0 0)), (0xA20E100000010000, .occrClr (ag 7 4 0 1 0)),
     (0xA306080000000000, .rgacq (ag 3 2 0 0 0)), (0xA306080000010000, .rgacq (ag 3 2 0 1 0))] = true := by decide
/-- R67, R68: the matrix engine and system words. -/
theorem test_matrixWords : readsAs
    [(0x9004140000000000, .macq (mx 2 5 0 0 0 0)), (0x9200100D01800009, .mma { mx 0 4 2 0 1 9 with bsl := 1, q := true, ka := true }),
     (0x9200C8040100001F, .mma (mx 0 50 2 0 1 31)), (0x9400180201800010, .mdrn { mx 0 6 1 0 1 16 with ka := true }), (0x9400980401000020, .mdrn (mx 0 38 2 0 1 32)),
     (0x9700200100800000, .geval { mx 0 8 0 0 0 0 with q := true, ka := true }), (0x9800280000800000, .gcfg { mx 0 10 0 0 0 0 with ka := true }),
     (0xB300000000000000, .tret (sy 0 0 0 0)), (0xB300000100000000, .tretEnd (sy 0 1 0 0)), (0xB400000700000000, .bkpt (sy 0 7 0 0))] = true := by decide

/-! ## Ill-formed terms are refused -/

/-- A term for each kind of check: a form, a type, SUB, an unused field, a pair base, a scope, an order, a policy, a width, an operation, an element
format, a limit on an immediate. -/
theorem test_illFormed : [Instr.movi (vr 5 0 0 0 1 0), .iadd (vr 2 4 6 0 4 0), .iadd (vr 2 4 6 0 3 1), .iadd (vr 2 4 6 1 3 0), .iadd (vr 3 4 6 0 2 0), .iabs (.i 2 4 0 0 false 1),
     .shl (.i 2 4 3 0 false 256), .plop (.i 4 1 0 2 false 0x32D0), .ld { mr 3 6 2 0 with scope := 5 }, .ld { mr 3 6 2 0 with ord := 2 }, .ld { mr 3 6 2 0 with pol := 3 },
     .ld (mr 3 6 5 0), .ld (mr 3 7 2 0), .st { mr 3 6 2 0 with sx := true }, .atom (mr 4 6 2 0xF00000), .fence (ms 1 0 0 0), .brx (ct 3 0 0), .brx (ct 2 1 0), .call (ct 1 0 0),
     .cseal (ag 1 0 0 0 0), .cwaitLnd (ag 0 0 0 0 1), .town (ag 0 0 0 0 4096), .mma { mx 0 4 3 0 1 9 with sub6 := 0 }, .mdrn (mx 0 4 0 0 15 0), .tret (sy 1 0 0 0),
     .sread (sy 0 0xFFF 4 0), .trap (sy 0 1 0 0), .bkpt (sy 0 0 0 1)].all (fun i => !i.wellFormed) = true := by decide

/-! ## Values of the spec's worked cases -/

def after (i : Instr) (s : State) : State := match exec i s with | .next u => u | _ => s
/-- A register, and a predicate, of the thread after a word on a state with registers. -/
def regAfter (i : Instr) (s : State) (r : Nat) : Nat := ((threadOf (after i s)).reg r).toNat
def gives (i : Instr) (regs : List (Nat × Nat)) (r : Nat) : Nat := regAfter i (withRegs (placed i) regs) r
/-- The same under a prefix half that stands for the word. -/
def givesUnder (half : BitVec 28) (i : Instr) (regs : List (Nat × Nat)) (r : Nat) : Nat := regAfter i (withPack (withRegs (placed i) regs) (fun p => { p with pa := half })) r
def satHalf : BitVec 28 := 0x8000200

/-- R384. -/
theorem test_multiply : gives (.imul (vr 2 4 6 0 0 0)) [(4, 0x80000000), (6, 2)] 2 = 0 ∧ givesUnder satHalf (.imul (vr 2 4 6 0 0 0)) [(4, 0x80000000), (6, 2)] 2 = 0x80000000 ∧
    gives (.imulh (vr 2 4 6 0 0 0)) [(4, 0x80000000), (6, 2)] 2 = 0xFFFFFFFF ∧ gives (.imulh (vr 2 4 6 0 1 0)) [(4, 0x80000000), (6, 2)] 2 = 1 ∧
    gives (.iabs (vr 2 4 0 0 0 0)) [(4, 0x80000000)] 2 = 0x80000000 ∧ givesUnder satHalf (.iabs (vr 2 4 0 0 0 0)) [(4, 0x80000000)] 2 = 0x7FFFFFFF := by decide
/-- R385. -/
theorem test_carry : gives (.iadc (vr 8 2 4 0 1 1)) [(2, 0xFFFFFFFF), (4, 1)] 8 = 0 ∧
    (threadOf (after (.iadc (vr 8 2 4 0 1 1)) (withRegs (placed (.iadc (vr 8 2 4 0 1 1))) [(2, 0xFFFFFFFF), (4, 1)]))).pred 1 = true := by decide
/-- R348, R349, R357: bit fields. -/
theorem test_bitFields : gives (.clz (vr 2 4 0 0 1 0)) [(4, 0xF000)] 2 = 16 ∧ gives (.clz (vr 2 4 0 0 0 0)) [(4, 0xFFFFF000)] 2 = 19 ∧
    gives (.bfe (vr 2 4 6 0 1 0)) [(4, 0xF0F01234), (6, 0x810)] 2 = 0xF0 ∧ gives (.bfe (vr 2 4 6 0 0 0)) [(4, 0xF0F01234), (6, 0x810)] 2 = 0xFFFFFFF0 ∧
    gives (.bfe (vr 2 4 6 0 0 0)) [(4, 0xF0F01234), (6, 0x828)] 2 = 0xFFFFFFFF ∧ gives (.bfi (vr 2 4 6 8 1 0)) [(4, 5), (6, 0x41E), (8, 0xFFFFFFFF)] 2 = 0x7FFFFFFF := by decide
/-- R427: shifts from the width up. -/
theorem test_shifts : gives (.shl (vr 2 4 6 0 1 0)) [(4, 1), (6, 31)] 2 = 0x80000000 ∧ gives (.shl (vr 2 4 6 0 1 0)) [(4, 1), (6, 32)] 2 = 0 ∧
    gives (.sar (vr 2 4 6 0 0 0)) [(4, 0x80000000), (6, 255)] 2 = 0xFFFFFFFF := by decide
/-- LEA's two readings of its index (R389). -/
theorem test_lea : gives (.lea (vr 8 6 10 0 0 4)) [(6, 0x1000), (7, 0x40), (10, 0xFFFFFFFE)] 8 = 0xFE0 ∧ gives (.lea (vr 8 6 10 0 0 4)) [(6, 0x1000), (7, 0x40), (10, 0xFFFFFFFE)] 9 = 0x40 ∧
    gives (.lea (vr 8 6 10 0 1 4)) [(6, 0x1000), (7, 0x40), (10, 0xFFFFFFFE)] 9 = 0x50 := by decide
/-- PLOP of P1 and (P2 or not P3) at index 4. -/
theorem test_plop : (threadOf (after (.plop (.i 4 1 1 0 false 0x32D0)) (withThread (placed (.plop (.i 4 1 1 0 false 0x32D0))) (fun t => { t with preds := 2 })))).pred 4 = true ∧
    (threadOf (after (.plop (.i 4 1 1 0 false 0x32D0)) (withThread (placed (.plop (.i 4 1 1 0 false 0x32D0))) (fun t => { t with preds := 10 })))).pred 4 = false := by decide
/-- The three words of an XEQ, and FFMA against FMUL and FADD. -/
theorem test_float : gives (.fadd (vr 4 1 2 0 4 0)) [(1, 0x40000000), (2, 0x3F000000)] 4 = 0x40200000 ∧ gives (.fmul (vr 4 1 3 0 4 0)) [(1, 0x40000000), (3, 0x40400000)] 4 = 0x40C00000 ∧
    gives (.fmul (vr 4 1 3 0 4 0)) [(1, 0x3F800800), (3, 0x3F800800)] 4 = 0x3F801000 ∧
    gives (.ffma (vr 4 1 3 5 4 0)) [(1, 0x3F800800), (3, 0x3F800800), (5, 0xBF801000)] 4 = 0x33800000 := by decide +kernel
/-- R131, R390: conversions: 500 to F8A with and without SAT, and 2^24 + 1 to FP32. -/
theorem test_convert : gives (.fmin (vr 4 1 3 0 4 0)) [(1, 0x80000000), (3, 0)] 4 = 0x80000000 ∧ gives (.frnd (vr 4 1 0 0 4 0)) [(1, 0x40200000)] 4 = 0x40000000 := by decide +kernel
/-- XFN results, as they stand to be written: LOGC of 8, RCP of 3, RSQ of 4, FSIN and FCOS of a quarter. -/
def xfnGives (i : Instr) (regs : List (Nat × Nat)) : List Nat := (threadOf (after i (withRegs (placed i) regs))).xfn.map (·.value.toNat)
theorem test_xfn : xfnGives (.logc (vr 2 1 0 0 4 1)) [(1, 0x41000000)] = [0x01800000] ∧ xfnGives (.logc (vr 2 1 0 0 4 1)) [(1, 0xBF000000)] = [0xFF800000] ∧
    xfnGives (.rcp (vr 2 1 0 0 4 0)) [(1, 0x40400000)] = [0x3EAAAAAB] ∧ xfnGives (.rsq (vr 2 1 0 0 4 0)) [(1, 0x40800000)] = [0x3F000000] := by decide +kernel
theorem test_xfnCircle : xfnGives (.fsin (vr 2 1 0 0 4 0)) [(1, 0x3E800000)] = [0x3F800000] ∧ xfnGives (.fcos (vr 2 1 0 0 4 0)) [(1, 0x3E800000)] = [0] ∧
    xfnGives (.expc (vr 2 1 0 0 4 0)) [(1, 0x00400000)] = [0x3FB504F3] := by decide +kernel
/-- R46, R355: the calling clause's return address, and a branch back. -/
theorem test_call : (threadOf (after (.call (ct 0 0 0x40)) (placed (.call (ct 0 0 0x40))))).calls = [0x1010] ∧
    (threadOf (after (.call (ct 0 0 0x40)) (placed (.call (ct 0 0 0x40))))).pc = { ca := 0x1200, wi := 0 } ∧
    (threadOf (after (.bra (ct 0 0 0xFFFFFFFB)) (placed (.bra (ct 0 0 0xFFFFFFFB))))).pc = { ca := 0xFD8, wi := 0 } := by decide
/-- R422: ATOMS.32.INC of 2 below 3 gives 3, and of 3 gives 0. -/
theorem test_inc : atomNew 10 32 2 3 = 3 ∧ atomNew 10 32 3 3 = 0 := by decide
/-- R268: one session with one reference of 3840 by 2160 takes 2 by 15,552,000 bytes. -/
theorem test_refStore : ({ plan true with wid := 3840, height := 16, spf := 135 } : Plan).refBytes8 = 8 * (2 * 15552000) := by decide
/-- R255: strip 2 of the plan of 3840 by 2160 lines: need, finish and start, in ns. -/
def fullPlan : Plan :=
  { plan false with height := 16, spf := 135, vtot := 2250, voff := 90, lper := 485451852, lead := 20000, budg := 100000, epoch := 1000000000 }
theorem test_stripTimes : fullPlan.need 2 / 2 ^ 32 = 1000903703 ∧ fullPlan.finish 2 / 2 ^ 32 = 1000883703 ∧ fullPlan.start 2 / 2 ^ 32 = 1000783703 := by decide

end Sys2Proof.Tests
end

/-! Sparse memories read back what was written, and their canonical form is unique (R4). -/

namespace Sys2Proof

open Machine

/-! ## Reading what was written -/

/-- Within a write from `a` up, each address holds the byte that stands at its place in the list. -/
theorem byte_write_inside (l : List Byte) {m : Mem} (a b : Nat) (h : Memory.wf m = true) (ha : a ≤ b) (hb : b < a + l.length) :
    (m.write a l).byte b = l.getD (b - a) 0 := by
  induction l generalizing m a with
  | nil => simp at hb; omega
  | cons x r ih =>
    simp only [List.length_cons] at hb
    show ((m.put a x).write (a + 1) r).byte b = _
    rcases Nat.eq_or_lt_of_le ha with rfl | hlt
    · rw [byte_write_outside r _ _ (put_wf _ _ h) (by omega), byte_put _ _ _ h]; simp
    · rw [ih (a + 1) (put_wf a x h) hlt (by omega), show b - a = (b - (a + 1)) + 1 by omega, List.getD_cons_succ]

theorem byte_write (l : List Byte) {m : Mem} (a b : Nat) (h : Memory.wf m = true) :
    (m.write a l).byte b = if a ≤ b ∧ b < a + l.length then l.getD (b - a) 0 else m.byte b := by
  split
  · rename_i hb; exact byte_write_inside l a b h hb.1 hb.2
  · exact byte_write_outside l a b h (by omega)

theorem read_write (l : List Byte) {m : Mem} (a : Nat) (h : Memory.wf m = true) : (m.write a l).read a l.length = l := by
  induction l generalizing m a with
  | nil => rfl
  | cons x r ih =>
    show ((m.put a x).write (a + 1) r).byte a :: ((m.put a x).write (a + 1) r).read (a + 1) r.length = _
    rw [ih (a + 1) (put_wf a x h), byte_write_outside r _ _ (put_wf a x h) (by omega), byte_put a a x h, if_pos rfl]

@[simp] theorem length_leBytes (v n : Nat) : (leBytes v n).length = n := by
  induction n generalizing v with
  | zero => rfl
  | succ n ih => simp [leBytes, ih]

/-- The low bytes of a value stand for it modulo their number of bits (R4). -/
theorem leVal_leBytes (v n : Nat) : leVal (leBytes v n) = v % 2 ^ (8 * n) := by
  induction n generalizing v with
  | zero => simp [leBytes, leVal, Nat.mod_one]
  | succ n ih =>
    have hp : 2 ^ (8 * (n + 1)) = 256 * 2 ^ (8 * n) := by rw [Nat.mul_add, Nat.pow_add]; omega
    rw [leBytes, leVal, ih, hp, Nat.mod_mul, BitVec.toNat_ofNat]

/-- Settles O43: each byte of a write reads back, and the bytes of a value read together give the value. -/
theorem readAfterWrite : Obligations.ReadAfterWrite := by
  refine ⟨fun m a l b h => byte_write l a b h, fun m a n v h => ?_⟩
  have hr := read_write (leBytes v n) a h
  rw [length_leBytes] at hr
  rw [Mem.val, hr, leVal_leBytes]

/-! ## The canonical form is unique -/

/-- The head of a canonical list is listed at a value that is not the default. -/
theorem sget_head_ne {α : Type} [BEq α] [LawfulBEq α] {d : α} {k : Nat} {v : α} {r : Sparse α} (h : sparseWf d ((k, v) :: r) = true) :
    sget d ((k, v) :: r) k ≠ d := by
  simpa [sget] using (sparseWf_cons.mp h).1

/-- Below its head a canonical list reads as the default. -/
theorem sget_below_head {α : Type} [BEq α] {d : α} {k n : Nat} {v : α} {r : Sparse α} (h : sparseWf d ((k, v) :: r) = true) (hn : n < k) :
    sget d ((k, v) :: r) n = d := by
  have hk : (k == n) = false := by simp; omega
  simp only [sget, hk, Bool.false_eq_true, if_false]
  exact sget_above (sparseWf_above h) (Nat.le_of_lt hn)

/-- Two canonical lists that read alike begin at the same number: the lower head would read as the default in the other. -/
theorem sparse_head_le {α : Type} [BEq α] [LawfulBEq α] {d : α} {j k : Nat} {x y : α} {l r : Sparse α}
    (hl : sparseWf d ((j, x) :: l) = true) (hr : sparseWf d ((k, y) :: r) = true)
    (same : ∀ n, sget d ((j, x) :: l) n = sget d ((k, y) :: r) n) : k ≤ j := by
  by_contra hlt
  exact sget_head_ne hl ((same j).trans (sget_below_head hr (by omega)))

theorem sparse_ext {α : Type} [BEq α] [LawfulBEq α] {d : α} {l r : Sparse α} (hl : sparseWf d l = true) (hr : sparseWf d r = true)
    (same : ∀ n, sget d l n = sget d r n) : l = r := by
  induction l generalizing r with
  | nil =>
    cases r with
    | nil => rfl
    | cons e r => exact absurd (same e.1).symm (sget_head_ne hr)
  | cons e l ih =>
    cases r with
    | nil => exact absurd (same e.1) (sget_head_ne hl)
    | cons f r =>
      obtain ⟨j, x⟩ := e
      obtain ⟨k, y⟩ := f
      obtain rfl : j = k := Nat.le_antisymm (sparse_head_le hr hl fun n => (same n).symm) (sparse_head_le hl hr same)
      obtain rfl : x = y := by simpa [sget] using same j
      have tails : ∀ n, sget d l n = sget d r n := fun n => by
        rcases Nat.lt_or_ge j n with hn | hn
        · have hb : (j == n) = false := by simp; omega
          simpa [sget, hb] using same n
        · rw [sget_above (sparseWf_above hl) hn, sget_above (sparseWf_above hr) hn]
      rw [ih (sparseWf_tail hl) (sparseWf_tail hr) tails]

/-- Settles O44: memories are sparse lists that read as 0 where nothing is listed. -/
theorem canonicalUnique : Obligations.CanonicalUnique := fun _ _ hm hk same => sparse_ext hm hk same

end Sys2Proof

namespace Sys2Proof

open Machine

/-! ## Fetches -/

/-- With no watchpoint set the table reads of a walk are not seen (R308). -/
theorem walkSeen_none {s : State} (h : s.watchpoints = []) (m : Mmu) (asid va : Nat) : s.walkSeen m asid va = s := by
  simp [State.walkSeen, h]

/-- Where every value a core may find of a word is its home's, the choice among them takes no free value (R50). -/
theorem codeWord_fresh {s : State} {core pa : Nat} (h : freshCode s core pa) :
    s.codeWord core pa = (BitVec.ofNat 64 (s.store.mem.val pa 8), s) := by
  unfold freshCode at h
  unfold State.codeWord
  generalize s.otherWords core pa = l at h ⊢
  induction l with
  | nil => rfl
  | cons v r ih =>
    have hv := h v (List.mem_cons_self ..)
    rw [List.foldl_cons, if_pos (by simp [hv])]
    exact ih fun x hx => h x (List.mem_cons_of_mem _ hx)

/-- Settles O7: the fetch translates, the unit is sound, the only value is the home's, and nothing sees the read. -/
theorem fetchReads : Obligations.FetchReads := by
  intro s core asid level va pa leaf unseen translated sound fresh
  unfold State.fetch
  rw [translated]
  simp only [sound, Bool.false_eq_true, if_false, codeWord_fresh fresh, walkSeen_none unseen, watch_none unseen]

/-! ## Totality -/

theorem exec_next (i : Instr) (s : State) : ∃ t, exec i s = .next t := by
  cases i <;> exact ⟨_, rfl⟩

theorem afterTurn_next (before : Option Pack) (s : State) : Machine.afterTurn before (.next s) = .next (s.afterTurn before) := rfl

theorem pipeTurn_next (s : State) (core pipe : Nat) : ∃ t, pipeTurn s core pipe = .next t := by
  unfold pipeTurn
  split
  case h_1 s1 _ => exact ⟨_, afterTurn_next _ s1⟩
  case h_2 i s1 _ =>
    obtain ⟨t, ht⟩ := exec_next i s1
    exact ⟨_, ht ▸ afterTurn_next _ t⟩

theorem eventTurn_next (s : State) (i : Instr) : ∃ t, eventTurn s i = .next t := by
  unfold eventTurn
  split
  · exact ⟨_, rfl⟩
  · exact exec_next i s

theorem step_next (s : State) : ∃ t, step s = .next t := by
  unfold step
  split
  · exact exec_next _ _
  · exact eventTurn_next _ _
  · exact pipeTurn_next _ _ _

/-- Settles O9: every meaning answers a next state, and a turn ends in one. -/
theorem stepTotal : Obligations.StepTotal := ⟨exec_next, step_next⟩

end Sys2Proof

/-! The events of the device in its system: each takes its effect where a clause of `SystemEvent` enables it. -/

namespace Sys2Proof

open Machine

section

variable {s u : State}

/-! ## Page walks (R155, R158) -/

theorem pageWalk_event {cluster : Nat} {asid : BitVec 16} {va : BitVec 57} {turn : TlbTurn}
    (h : SystemEvent s (.pageWalk cluster asid va turn) u) : execPageWalk cluster asid va turn s = .next u := by
  cases h with
  | walked _ _ _ evict evictWalks t s1 real powered unseen dropped miss found =>
    have unseen1 : s1.watchpoints = [] := by rw [dropped]; exact unseen
    subst dropped
    simp [execPageWalk, powered, Nat.not_le.mpr real, miss, walkSeen_none unseen1, found]
  | cachedInCore _ c _ _ evict evictWalks t s1 real powered dropped hit absent =>
    subst dropped
    simp [execPageWalk, powered, Nat.not_le.mpr real, hit, absent]

/-! ## Fault records and answers (R161, R324) -/

/-- A usable buffer with room takes the record. -/
theorem faultWrite_room {size base rd wr : Nat} (h : BufferRoom s size base rd wr) (ws : List Nat) :
    s.faultWrite ws = some (recorded s size base rd wr ws) := by
  obtain ⟨fields, usable, room, memory, calm⟩ := h
  have calm1 (pa : Nat) (b : List Byte) : (s.memWrite 0 pa b).watchpoints = [] := (watchpoints_of (memWrite_dregs s 0 pa b)).trans calm
  simp only [State.faultWrite, fields, memory, recorded, watch_none (calm1 _ _), decide_eq_false (Nat.not_lt.mpr usable.1),
    decide_eq_false (Nat.not_lt.mpr usable.2), decide_eq_false (Nat.not_le.mpr room)]
  rfl

theorem faultRecord_event (h : SystemEvent s .faultRecord u) : execFaultRecord s = .next u := by
  cases h with
  | faultRecord f size base rd wr next room =>
    simp [execFaultRecord, next, faultWrite_room room, State.faultWords]
  | errorRecord e rest size base rd wr none_ next room =>
    have told : s.store.faults.find? (fun f => !f.written) = none := by simpa using none_
    simp [execFaultRecord, told, next, faultWrite_room room]

theorem trailOk_calm (calm : ∀ p, unwatched s p = true) (l : List Nat) (w : Nat → Nat) (fid : Option Nat) :
    l.all (fun p => s.trailOk p (w p) false fid) = true := by
  simp only [List.all_eq_true]
  exact fun p _ => trailOk_none (calm p) _ _ _

theorem trail_foldl_calm (calm : ∀ p, unwatched s p = true) (l : List Nat) (w : Nat → Nat) (fid : Nat) :
    l.foldl (fun s p => s.trail p (w p) fid) s = s := by
  induction l with
  | nil => rfl
  | cons p r ih => rw [List.foldl_cons, trail_none (calm p)]; exact ih

theorem answered_answerable {f : FaultRec} (h : Answerable s f) : s.answered f.fid = some f := by
  unfold State.answered
  rw [h.found, Option.filter_some, trailOk_calm h.calm _ _ _, if_pos rfl]

theorem settleFault_answerable {f : FaultRec} (h : Answerable s f) (fid : Nat) :
    s.settleFault fid = { s with store := { s.store with faults := s.store.faults.filter (·.fid != fid) } } := by
  unfold State.settleFault
  rw [trail_foldl_calm h.calm]

theorem retry_event {fid : BitVec 32} (h : SystemEvent s (.faultAnswerRetry fid) u) : execFaultAnswerRetry fid s = .next u := by
  cases h with
  | retry _ f same at_ => simp only [execFaultAnswerRetry, ← same, answered_answerable at_, settleFault_answerable at_]

theorem fail_event {fid : BitVec 32} (h : SystemEvent s (.faultAnswerFail fid) u) : execFaultAnswerFail fid s = .next u := by
  cases h with
  | fail _ f same at_ => simp only [execFaultAnswerFail, ← same, answered_answerable at_, settleFault_answerable at_]

/-! ## Soft errors (R304, R329) -/

theorem correctedError_event {unit index : Nat} (h : SystemEvent s (.correctedError unit index) u) :
    execCorrectedError unit index s = .next u := by
  cases h with
  | corrected _ _ near second few =>
    subst second
    simp only [execCorrectedError, few, if_true]

theorem uncorrectableError_event {w : EccPlace} (h : SystemEvent s (.uncorrectableError w) u) : execUncorrectableError w s = .next u := by
  cases h with
  | cleanLine pa => rfl
  | poisoned pa memory fresh =>
    have new : [pa.toNat / 64].filter (fun k => !(s.store.poison.contains k)) = [pa.toNat / 64] := by simpa using fresh
    simp only [execUncorrectableError, memory, State.poisonUnits, new]
    rfl
  | registerLost t r v found live => rfl

theorem unitRetirement_event {cluster : Nat} {testOk : Bool} (h : SystemEvent s (.unitRetirement cluster testOk) u) :
    execUnitRetirement cluster testOk s = .next u := by
  cases h with
  | retired _ _ real present spares => simp [execUnitRetirement, Nat.not_le.mpr real, present, spares]

/-! ## Checkpoints (R327, R328) -/

theorem checkpointGo_event {halt : Bool} (h : SystemEvent s (.checkpointGo halt) u) : execCheckpointGo halt s = .next u := by
  cases h with
  | checkpointGo _ may =>
    obtain ⟨idle, up, off, present, first, last⟩ := may
    simp only [execCheckpointGo, State.checkpointGo, idle, up, off, present, first, last]
    rfl
  | checkpointRefused _ idle up strip => simp [execCheckpointGo, State.checkpointGo, idle, up, strip]

theorem checkpointComplete_event {ms : Nat} {portError : Bool} (h : SystemEvent s (.checkpointComplete ms portError) u) :
    execCheckpointComplete ms portError s = .next u := by
  cases h with
  | checkpointDone _ rests => simp only [execCheckpointComplete, rests]; rfl
  | checkpointError _ rests => simp only [execCheckpointComplete, rests]; rfl

theorem checkpointRestore_event (h : SystemEvent s .checkpointRestore u) : execCheckpointRestore s = .next u := by
  cases h with
  | restored x image valid up idle first => simp only [execCheckpointRestore, image, valid, up, idle, first]; rfl

/-! ## The host (R5, R216, R319) -/

theorem hostReaches_memory {pa n : Nat} (first : s.populated pa = some 0) (last : s.populated (pa + n - 1) = some 0) :
    s.hostReaches pa n = true := by simp only [State.hostReaches, first, last]

theorem hostReaches_hole {pa n : Nat} (hole : s.populated pa = none) : s.hostReaches pa n = false := by simp only [State.hostReaches, hole]

/-- The guard of an access of 1 to 16 bytes that the Ethernet ports serve. -/
theorem hostServed {size : Nat} (served : s.control.fw.recovery = false) (powered : s.control.fw.powerOff = false)
    (some_ : 1 ≤ size ∧ size ≤ 16) : (s.control.fw.recovery || s.control.fw.powerOff || size == 0 || decide (16 < size)) = false := by
  simp [served, powered]; omega

theorem hostRdmaAccess_event {write : Bool} {pa : PAddr} {size : Nat} {data : BitVec 128}
    (h : SystemEvent s (.hostRdmaAccess write pa size data) u) : execHostRdmaAccess write pa size data s = .next u := by
  cases h with
  | hostWrite _ _ _ served powered some_ first last calm =>
    have unseen : (s.memWrite 0 pa.toNat (leBytes data.toNat size)).watchpoints = [] :=
      (watchpoints_of (memWrite_dregs s 0 _ _)).trans (unwatched_points calm)
    simp only [execHostRdmaAccess, hostServed served powered some_, hostReaches_memory first last, first,
      trailOk_none calm _ _ (some _), trail_none calm, watch_none unseen]
    rfl
  | hostRead _ _ _ served powered some_ first last calm =>
    simp [execHostRdmaAccess, hostServed served powered some_, hostReaches_memory first last, first, watch_none calm]
  | hostAstray _ _ _ _ served powered some_ hole =>
    simp [execHostRdmaAccess, hostServed served powered some_, hostReaches_hole hole]

theorem registerWrite_event {pa : PAddr} {v : BitVec 64} {level : BitVec 2} (h : SystemEvent s (.registerWrite pa v level) u) :
    execRegisterWrite pa v level s = .next u := by
  cases h with
  | registerWrite _ _ _ r privileged range aligned register =>
    have whole : pa.toNat / 8 * 8 = pa.toNat := Nat.div_mul_cancel (Nat.dvd_of_mod_eq_zero aligned)
    have open_ : (level == 0) = false := by simpa using privileged
    simp only [execRegisterWrite, State.devWrite, open_, decide_eq_false (Nat.not_lt.mpr range), aligned, whole, register]
    simp [regMask]
  | registerUser _ _ => rfl

/-! ## Bring-up and identity (R330, R331) -/

theorem attestation_event {nonce : BitVec 256} (h : SystemEvent s (.attestationRequest nonce) u) :
    execAttestationRequest nonce s = .next u := by
  cases h with
  | attested _ up left => simp [execAttestationRequest, up, Nat.not_le.mpr left, State.fresh, signaturePieces]
  | attestedOut _ up exhausted => simp [execAttestationRequest, up, exhausted]

theorem bringUp_event {b : BootFound} (h : SystemEvent s (.bringUp b) u) : execBringUp b s = .next u := by
  cases h with
  | recovery _ phase normal part bad =>
    have unfit : (!b.image.signatureVerifies || decide (b.image.version < Config.fuseVersion)) = true := by simpa using bad
    simp [execBringUp, phase, normal, Nat.not_lt.mpr part, unfit]
  | sramTest _ phase normal part good test =>
    simp [execBringUp, phase, normal, Nat.not_lt.mpr part, good.1, Nat.not_lt.mpr good.2, test]
  | up _ phase normal part good test =>
    simp [execBringUp, phase, normal, Nat.not_lt.mpr part, good.1, Nat.not_lt.mpr good.2, test, State.fresh]

theorem firmwareUpload_event {m : FwImage} (h : SystemEvent s (.firmwareUpload m) u) : execFirmwareUpload m s = .next u := by
  cases h with
  | upload _ recovery => simp only [execFirmwareUpload, recovery, if_true]

/-! ## Heat and power (R332) -/

theorem thermalHold_event {c : Nat} (h : SystemEvent s (.thermalHold c) u) : execThermalHold c s = .next u := by
  cases h with
  | hot _ hot => simp only [execThermalHold, if_pos hot]
  | cool _ cool => simp only [execThermalHold, if_neg (show ¬100 ≤ c by omega), if_pos cool]

theorem thermalTrip_event {c : Nat} (h : SystemEvent s (.thermalTrip c) u) : execThermalTrip c s = .next u := by
  cases h with
  | trip _ hot => simp only [execThermalTrip, if_pos hot]

theorem powerCap_event {w : Nat} (h : SystemEvent s (.powerCapWrite w) u) : execPowerCapWrite w s = .next u := by
  cases h with
  | cap _ range => simp [execPowerCapWrite, range]

/-! ## The debug unit (R306, R310 to R317) -/

theorem stopTrigger_event {cluster src idx : Nat} (h : SystemEvent s (.clusterStopTrigger cluster src idx) u) :
    execClusterStopTrigger cluster src idx s = .next u := by
  cases h with
  | stopTrigger _ _ _ real source index =>
    have known : ¬(64 ≤ cluster ∨ src = 0 ∨ 6 < src ∨ 16 ≤ idx) := by omega
    simp [execClusterStopTrigger, or_assoc, known]

theorem stopArrival_event {core : Nat} (h : SystemEvent s (.clusterStopArrival core) u) : execClusterStopArrival core s = .next u := by
  cases h with
  | stopArrival _ x found pending => simp [execClusterStopArrival, found, pending]

theorem stopComplete_event {cluster : Nat} (h : SystemEvent s (.stopComplete cluster) u) : execStopComplete cluster s = .next u := by
  cases h with
  | stopComplete _ x found pending reached rests => simp +contextual [execStopComplete, found, pending, reached, rests]

theorem thaw_event {cluster : Nat} (h : SystemEvent s (.thaw cluster) u) : execThaw cluster s = .next u := by
  cases h with
  | thaw _ x at_ => simp [execThaw, at_.found, at_.complete, State.askThaw, at_.idle]

theorem dump_event {cluster : Nat} (h : SystemEvent s (.dump cluster) u) : execDump cluster s = .next u := by
  cases h with
  | dump _ x at_ => simp [execDump, at_.found, at_.complete]

theorem debugStep_event {cluster : Nat} (h : SystemEvent s (.debugStep cluster) u) : execDebugStep cluster s = .next u := by
  cases h with
  | step _ x at_ => simp [execDebugStep, at_.found, at_.complete, at_.idle]

theorem sampleRecord_event {core pipe : Nat} (h : SystemEvent s (.sampleRecord core pipe) u) : execSampleRecord core pipe s = .next u := by
  cases h with
  | sampled _ _ x s1 tagged gone written =>
    subst written
    simp only [execSampleRecord, tagged, gone]
    rfl

theorem traceSummary_event {core : Nat} (h : SystemEvent s (.traceSummary core) u) : execTraceSummary core s = .next u := by
  cases h with
  | summaryNone _ on alone =>
    have none_ : s.work.groups.filter (fun g => g.core == core && g.away.isNone && some g.slot != (s.tracedGroup core).map (·.slot)) = [] := by
      simp +contextual [List.filter_eq_nil_iff, alone]
    simp [execTraceSummary, on, none_]
  | summary _ g x s1 on unselected only here home counts due written =>
    have mine : s.work.groups.filter (fun g => g.core == core && g.away.isNone && some g.slot != (s.tracedGroup core).map (·.slot)) = [g] := by
      simp [only, here, home, unselected]
    subst written
    simp [execTraceSummary, on, mine, counts, Nat.not_lt.mpr due]

theorem trailEnable_event {cluster : Nat} {v : BitVec 64} (h : SystemEvent s (.trailEnable cluster v) u) :
    execTrailEnable cluster v s = .next u := by
  cases h with
  | trailOff _ _ real off => simp [execTrailEnable, State.writeTrail, Nat.not_le.mpr real, off]

theorem replayDivergence_event {cluster : Nat} (h : SystemEvent s (.replayDivergence cluster) u) :
    execReplayDivergence cluster s = .next u := by
  cases h with
  | divergence _ p t at_ replay long => simp only [execReplayDivergence, at_, replay, decide_eq_true long]; rfl

end

/-- Settles O34, event by event. -/
theorem systemEvents : Obligations.SystemEvents := by
  intro i s u h
  have e := h
  cases h with
  | walked | cachedInCore => exact pageWalk_event e
  | faultRecord | errorRecord => exact faultRecord_event e
  | retry => exact retry_event e
  | fail => exact fail_event e
  | bufferConfig => rfl
  | corrected => exact correctedError_event e
  | cleanLine | poisoned | registerLost => exact uncorrectableError_event e
  | retired => exact unitRetirement_event e
  | checkpointGo | checkpointRefused => exact checkpointGo_event e
  | checkpointDone | checkpointError => exact checkpointComplete_event e
  | restored => exact checkpointRestore_event e
  | hostWrite | hostRead | hostAstray => exact hostRdmaAccess_event e
  | attested | attestedOut => exact attestation_event e
  | recovery | sramTest | up => exact bringUp_event e
  | upload => exact firmwareUpload_event e
  | hot | cool => exact thermalHold_event e
  | trip => exact thermalTrip_event e
  | cap => exact powerCap_event e
  | registerWrite | registerUser => exact registerWrite_event e
  | connection => rfl
  | stopTrigger => exact stopTrigger_event e
  | stopArrival => exact stopArrival_event e
  | stopComplete => exact stopComplete_event e
  | thaw => exact thaw_event e
  | dump => exact dump_event e
  | step => exact debugStep_event e
  | sampled => exact sampleRecord_event e
  | summaryNone | summary => exact traceSummary_event e
  | trailOff => exact trailEnable_event e
  | divergence => exact replayDivergence_event e

end Sys2Proof

/-! Every step keeps the canonical form of the memories: what `tidy` asks of a state, and of the results that carry one. -/

namespace Sys2Proof

open Machine

-- The many small theorems that follow are checked in order: side by side they start more threads than the memory limit has room for.
set_option Elab.async false

/-! ## Canonical lists under filters, shifts and appending -/

/-- A list is canonical where no entry stands at the default and the numbers rise. -/
theorem sparseWf_iff {α : Type} [BEq α] {d : α} {l : Sparse α} :
    sparseWf d l = true ↔ (∀ e ∈ l, (e.2 == d) = false) ∧ l.Pairwise (·.1 < ·.1) := by
  induction l with
  | nil => simp [sparseWf]
  | cons e r ih =>
    obtain ⟨k, v⟩ := e
    constructor
    · intro h
      obtain ⟨hv, hr⟩ := ih.mp (sparseWf_tail h)
      exact ⟨List.forall_mem_cons.mpr ⟨(sparseWf_cons.mp h).1, hv⟩, List.pairwise_cons.mpr ⟨sparseWf_above h, hr⟩⟩
    · rintro ⟨hv, hr⟩
      obtain ⟨hv0, hv⟩ := List.forall_mem_cons.mp hv
      obtain ⟨habove, hr⟩ := List.pairwise_cons.mp hr
      exact sparseWf_of_above hv0 habove (ih.mpr ⟨hv, hr⟩)

/-- Renumbering keeps a memory canonical where it keeps the order of the addresses listed. -/
theorem map_wf {m : Mem} (f : Nat → Nat) (hf : ∀ x ∈ m, ∀ y ∈ m, x.1 < y.1 → f x.1 < f y.1) (h : Memory.wf m = true) :
    Memory.wf (m.map fun x => (f x.1, x.2)) = true := by
  obtain ⟨hv, hr⟩ := sparseWf_iff.mp h
  refine sparseWf_iff.mpr ⟨?_, List.pairwise_map.mpr (hr.imp_of_mem fun ha hb => hf _ ha _ hb)⟩
  intro e he
  obtain ⟨x, hx, rfl⟩ := List.mem_map.mp he
  exact hv x hx

theorem append_wf {l m : Mem} (hl : Memory.wf l = true) (hm : Memory.wf m = true) (hlm : ∀ x ∈ l, ∀ y ∈ m, x.1 < y.1) :
    Memory.wf (l ++ m) = true := by
  obtain ⟨hlv, hlr⟩ := sparseWf_iff.mp hl
  obtain ⟨hmv, hmr⟩ := sparseWf_iff.mp hm
  exact sparseWf_iff.mpr ⟨fun e he => (List.mem_append.mp he).elim (hlv e) (hmv e), List.pairwise_append.mpr ⟨hlr, hmr, hlm⟩⟩

/-! ## Tidy states -/

namespace tidy

variable {s u : State}

/-- Only the memories, the sparse registers and the checkpoint image matter. -/
theorem same (h : tidy s) (hm : u.store.mem = s.store.mem := by rfl) (hs : u.store.scratch = s.store.scratch := by rfl)
    (ha : u.store.awning = s.store.awning := by rfl) (hd : u.store.dregs = s.store.dregs := by rfl)
    (hc : u.store.acc = s.store.acc := by rfl) (hi : u.control.image = s.control.image := by rfl) : tidy u := by
  unfold tidy canonical at *
  rw [hm, hs, ha, hd, hc, hi]
  exact h

theorem mem (h : tidy s) : Memory.wf s.store.mem = true := canonical_mem h.1
theorem scratch (h : tidy s) : Memory.wf s.store.scratch = true := canonical_scratch h.1
theorem awning (h : tidy s) : Memory.wf s.store.awning = true := canonical_awning h.1

/-- A state that differs only in its memory, which is canonical too. -/
theorem sameButMem (h : tidy s) (hm : Memory.wf u.store.mem = true) (hs : u.store.scratch = s.store.scratch := by rfl)
    (ha : u.store.awning = s.store.awning := by rfl) (hd : u.store.dregs = s.store.dregs := by rfl)
    (hc : u.store.acc = s.store.acc := by rfl) (hi : u.control.image = s.control.image := by rfl) : tidy u :=
  ⟨canonical_of h.1 hm (hs ▸ h.scratch) (ha ▸ h.awning) hd hc, hi ▸ h.2⟩

/-- A state with the same store, whose image is canonical. -/
theorem ofImage (h : tidy s) (hx : ∀ x, u.control.image = some x → storeOk x.store = true) (hs : u.store = s.store := by rfl) : tidy u :=
  ⟨(canonical_iff u).trans (hs ▸ h.1), hx⟩

theorem ite {c : Prop} [Decidable c] {a b : State} (ha : tidy a) (hb : tidy b) : tidy (if c then a else b) := by
  split
  exacts [ha, hb]

theorem foldl {α : Type} {f : State → α → State} {l : List α} (h : tidy s) (hf : ∀ s x, tidy s → tidy (f s x)) : tidy (l.foldl f s) := by
  induction l generalizing s with
  | nil => exact h
  | cons x r ih => exact ih (hf s x h)

/-- A fold that carries something beside the state. -/
theorem foldFst {α β : Type} {f : State × β → α → State × β} {p : State × β} {l : List α} (h : tidy p.1)
    (hf : ∀ p x, tidy p.1 → tidy (f p x).1) : tidy (l.foldl f p).1 := by
  induction l generalizing p with
  | nil => exact h
  | cons x r ih => exact ih (hf p x h)

theorem foldSnd {α β : Type} {f : β × State → α → β × State} {p : β × State} {l : List α} (h : tidy p.2)
    (hf : ∀ p x, tidy p.2 → tidy (f p x).2) : tidy (l.foldl f p).2 := by
  induction l generalizing p with
  | nil => exact h
  | cons x r ih => exact ih (hf p x h)

theorem elim {α : Type} {f : α → State} {o : Option α} (h : tidy s) (hf : ∀ x, tidy (f x)) : tidy (o.elim s f) := by
  cases o with
  | none => exact h
  | some x => exact hf x

theorem fst {α : Type} {p : State × α} {x : α} (h : tidy p.1) (e : p = (u, x)) : tidy u := by subst e; exact h
theorem snd {α : Type} {p : α × State} {x : α} (h : tidy p.2) (e : p = (x, u)) : tidy u := by subst e; exact h

end tidy

/-! ## Tidy results: each state that a result carries is tidy -/

namespace Machine

def Fetched.tidy : Fetched → Prop
  | .ok _ s => Sys2Proof.tidy s
  | _ => True

theorem Fetched.tidy.ok {r : Fetched} {w s} (h : r.tidy) (e : r = .ok w s) : Sys2Proof.tidy s := by subst e; exact h

def TRes.tidy : TRes → Prop
  | .ok s _ _ => Sys2Proof.tidy s
  | .trap s _ => Sys2Proof.tidy s
  | .leave s _ => Sys2Proof.tidy s
  | _ => True

theorem TRes.tidy.ok {r : TRes} {s fate after} (h : r.tidy) (e : r = .ok s fate after) : Sys2Proof.tidy s := by subst e; exact h
theorem TRes.tidy.trap {r : TRes} {s info} (h : r.tidy) (e : r = .trap s info) : Sys2Proof.tidy s := by subst e; exact h
theorem TRes.tidy.leave {r : TRes} {s w} (h : r.tidy) (e : r = .leave s w) : Sys2Proof.tidy s := by subst e; exact h

def Body.tidy : Body → Prop
  | .more s => Sys2Proof.tidy s
  | .done s _ => Sys2Proof.tidy s
  | _ => True

theorem Body.tidy.more {r : Body} {s} (h : r.tidy) (e : r = .more s) : Sys2Proof.tidy s := by subst e; exact h
theorem Body.tidy.done {r : Body} {s outs} (h : r.tidy) (e : r = .done s outs) : Sys2Proof.tidy s := by subst e; exact h

def ConRes.tidy : ConRes → Prop
  | .ok s => Sys2Proof.tidy s
  | _ => True

theorem ConRes.tidy.ok {r : ConRes} {s} (h : r.tidy) (e : r = .ok s) : Sys2Proof.tidy s := by subst e; exact h

def ConAll.tidy : ConAll → Prop
  | .ok s => Sys2Proof.tidy s
  | _ => True

theorem ConAll.tidy.ok {r : ConAll} {s} (h : r.tidy) (e : r = .ok s) : Sys2Proof.tidy s := by subst e; exact h

def Perf.tidy : Perf → Prop
  | .ok s _ => Sys2Proof.tidy s
  | .trap s _ => Sys2Proof.tidy s
  | _ => True

def PlanRes.tidy : PlanRes → Prop
  | .ok s _ => Sys2Proof.tidy s
  | _ => True

theorem PlanRes.tidy.ok {r : PlanRes} {s fired} (h : r.tidy) (e : r = .ok s fired) : Sys2Proof.tidy s := by subst e; exact h

def WriteRes.tidy : WriteRes → Prop
  | .ok s => Sys2Proof.tidy s
  | _ => True

theorem WriteRes.tidy.ok {r : WriteRes} {s} (h : r.tidy) (e : r = .ok s) : Sys2Proof.tidy s := by subst e; exact h

def OpRes.tidy : OpRes → Prop
  | .ok _ _ s _ => Sys2Proof.tidy s
  | _ => True

def LeadRes.tidy : LeadRes → Prop
  | .ok _ _ _ s _ => Sys2Proof.tidy s
  | _ => True

theorem LeadRes.tidy.ok {r : LeadRes} {q b key s fired} (h : r.tidy) (e : r = .ok q b key s fired) : Sys2Proof.tidy s := by subst e; exact h

def HeadRes.tidy : HeadRes → Prop
  | .ok _ s _ => Sys2Proof.tidy s
  | _ => True

theorem HeadRes.tidy.ok {r : HeadRes} {b s fired} (h : r.tidy) (e : r = .ok b s fired) : Sys2Proof.tidy s := by subst e; exact h

def ItemRes.tidy : ItemRes → Prop
  | .next s _ => Sys2Proof.tidy s
  | _ => True

theorem ItemRes.tidy.next {r : ItemRes} {s e} (h : r.tidy) (e : r = .next s e) : Sys2Proof.tidy s := by subst e; exact h

def TurnRes.tidy : TurnRes → Prop
  | .idle s => Sys2Proof.tidy s
  | .word _ s => Sys2Proof.tidy s

theorem TurnRes.tidy.idle {r : TurnRes} {s} (h : r.tidy) (e : r = .idle s) : Sys2Proof.tidy s := by subst e; exact h
theorem TurnRes.tidy.word {r : TurnRes} {i s} (h : r.tidy) (e : r = .word i s) : Sys2Proof.tidy s := by subst e; exact h

def SampRes.tidy {α : Type} : SampRes α → Prop
  | .ok _ s => Sys2Proof.tidy s
  | _ => True

theorem SampRes.tidy.ok {α : Type} {r : SampRes α} {a s} (h : r.tidy) (e : r = .ok a s) : Sys2Proof.tidy s := by subst e; exact h

def TretRes.tidy : TretRes → Prop
  | .over s => Sys2Proof.tidy s
  | .park _ s => Sys2Proof.tidy s
  | _ => True

theorem TretRes.tidy.over {r : TretRes} {s} (h : r.tidy) (e : r = .over s) : Sys2Proof.tidy s := by subst e; exact h
theorem TretRes.tidy.park {r : TretRes} {fid s} (h : r.tidy) (e : r = .park fid s) : Sys2Proof.tidy s := by subst e; exact h

def ImgRes.tidy {α : Type} : ImgRes α → Prop
  | .ok _ _ s => Sys2Proof.tidy s
  | _ => True

theorem ImgRes.tidy.ok {α : Type} {r : ImgRes α} {x hits s} (h : r.tidy) (e : r = .ok x hits s) : Sys2Proof.tidy s := by subst e; exact h

def MakeRes.tidy : MakeRes → Prop
  | .ok _ s => Sys2Proof.tidy s
  | _ => True

theorem MakeRes.tidy.ok {r : MakeRes} {slot s} (h : r.tidy) (e : r = .ok slot s) : Sys2Proof.tidy s := by subst e; exact h

def XRes.tidy : XRes → Prop
  | .ok s _ => Sys2Proof.tidy s
  | .stall s => Sys2Proof.tidy s
  | _ => True

theorem XRes.tidy.ok {r : XRes} {s after} (h : r.tidy) (e : r = .ok s after) : Sys2Proof.tidy s := by subst e; exact h

def SpillRes.tidy : SpillRes State → Prop
  | .ok s => Sys2Proof.tidy s
  | _ => True

theorem SpillRes.tidy.ok {r : SpillRes State} {s} (h : r.tidy) (e : r = .ok s) : Sys2Proof.tidy s := by subst e; exact h

/-- What is gathered of an MMA word. -/
def MmaAcc.tidy (a : MmaAcc) : Prop := Sys2Proof.tidy a.s

end Machine

/-- A state that may be missing. -/
def Answer.tidy : Option State → Prop
  | some s => Sys2Proof.tidy s
  | none => True

theorem Answer.tidy.getD {r : Option State} {s} (h : Answer.tidy r) (hs : Sys2Proof.tidy s) : Sys2Proof.tidy (r.getD s) := by
  cases r with
  | none => exact hs
  | some u => exact h

theorem Answer.tidy.some {r : Option State} {s} (h : Answer.tidy r) (e : r = .some s) : Sys2Proof.tidy s := by subst e; exact h

/-- A value beside a state, which may be missing. -/
def Tried.tidy {α : Type} : Option (α × State) → Prop
  | some p => Sys2Proof.tidy p.2
  | none => True

theorem Tried.tidy.some {α : Type} {r : Option (α × State)} {x s} (h : Tried.tidy r) (e : r = .some (x, s)) : Sys2Proof.tidy s := by
  subst e; exact h

/-- A store that may fail. -/
def Attempt.tidy : Except TrapInfo State → Prop
  | .ok s => Sys2Proof.tidy s
  | .error _ => True

theorem Attempt.tidy.ok {r : Except TrapInfo State} {s} (h : Attempt.tidy r) (e : r = .ok s) : Sys2Proof.tidy s := by subst e; exact h

/-- A unit whose operands may be missing, with the state that is left then. -/
def Unfetched.tidy : Except State MatUnit → Prop
  | .ok _ => True
  | .error s => Sys2Proof.tidy s

theorem Unfetched.tidy.error {r : Except State MatUnit} {s} (h : Unfetched.tidy r) (e : r = .error s) : Sys2Proof.tidy s := by
  subst e; exact h

/-- A part of a copy's plan, or the plan's outcome. -/
def Planned.tidy {α : Type} : Except PlanRes α → Prop
  | .ok _ => True
  | .error r => r.tidy

theorem Planned.tidy.error {α : Type} {x : Except PlanRes α} {r} (h : Planned.tidy x) (e : x = .error r) : r.tidy := by subst e; exact h

/-- The outcome of an image's write, where it is settled before the write. -/
def Written.tidy {α : Type} : Option (ImgRes α) → Prop
  | some r => r.tidy
  | none => True

theorem Written.tidy.some {α : Type} {x : Option (ImgRes α)} {r} (h : Written.tidy x) (e : x = .some r) : r.tidy := by subst e; exact h

/-- The state that an outcome answers. -/
def Outcome.tidy : Host.Outcome State Fault Refusal → Prop
  | .next s => Sys2Proof.tidy s
  | _ => True

/-! ## Each function that answers a state keeps it tidy: one lemma under the function's name, in the model's order -/

namespace tidy

variable {s : State}

/-! ### The parts of the state -/

theorem setThreads {l} (h : tidy s) : tidy (s.setThreads l) := h.same

theorem modThread {n f} (h : tidy s) : tidy (s.modThread n f) := h.setThreads

theorem modThreads {p f} (h : tidy s) : tidy (s.modThreads p f) := h.setThreads

theorem modGroup {core slot f} (h : tidy s) : tidy (s.modGroup core slot f) := h.same

theorem modLaunch {lid f} (h : tidy s) : tidy (s.modLaunch lid f) := h.same

theorem modPack {core pipe f} (h : tidy s) : tidy (s.modPack core pipe f) := h.same

theorem dropPack {core pipe} (h : tidy s) : tidy (s.dropPack core pipe) := h.same

theorem leavePack {n} (h : tidy s) : tidy (s.leavePack n) := h.same

theorem setDreg {s pa v} (h : tidy s) : tidy (s.setDreg pa v) := ⟨setDreg_canonical pa v h.1, h.2⟩

theorem setMem {s m} (h : tidy s) (hm : Memory.wf m = true) : tidy (s.setMem m) :=
  ⟨canonical_of (s := s) h.1 hm h.scratch h.awning rfl rfl, h.2⟩

theorem setScratch {s m} (h : tidy s) (hm : Memory.wf m = true) : tidy (s.setScratch m) :=
  ⟨canonical_of (s := s) h.1 h.mem hm h.awning rfl rfl, h.2⟩

theorem accPut {s cluster row col v} (h : tidy s) : tidy (s.accPut cluster row col v) := ⟨accPut_canonical cluster row col v h.1, h.2⟩

theorem fresh (h : tidy s) : tidy s.fresh.2 := h.same

/-! ### Shared operations: records, translation, memory at its home, registers, traps -/

theorem logError {lid cause addr} (h : tidy s) : tidy (s.logError lid cause addr) := h.modLaunch

theorem deviceError {kind asid addr index count} (h : tidy s) : tidy (s.deviceError kind asid addr index count) := by
  unfold State.deviceError
  split
  next u e => exact (h.fresh.snd e).same

theorem parkFault {asid kind level va} (h : tidy s) : tidy (s.parkFault asid kind level va).2 := by
  unfold State.parkFault
  split
  exacts [h, h.same]

theorem setDbg {p off v} (h : tidy s) : tidy (s.setDbg p off v) := h.setDreg

theorem debugRecord {p b} (h : tidy s) : tidy (s.debugRecord p b) := by
  unfold State.debugRecord
  exact h.ite (h.setDbg.ite (h.setMem (write_wf b _ h.mem)).setDbg)

theorem eventRecord {p c n code detail addr} (h : tidy s) : tidy (s.eventRecord p c n code detail addr) := h.debugRecord

theorem modStop {p f} (h : tidy s) : tidy (s.modStop p f) := h.same

theorem deferTo {p x} (h : tidy s) : tidy (s.deferTo p x) := h.modStop

theorem triggerStop {p src idx} (h : tidy s) : tidy (s.triggerStop p src idx) := h.ite h.setDbg.setDreg.same

theorem trailRaw {p w0 w1} (h : tidy s) : tidy (s.trailRaw p w0 w1) := by
  unfold State.trailRaw
  exact (h.setMem (write_wf _ _ h.mem)).setDbg

theorem trailClose {p} (h : tidy s) : tidy (s.trailClose p) := by
  unfold State.trailClose
  extract_lets _ s1 s2 s3
  have h1 : tidy s1 := by
    dsimp only [s1]
    exact h.foldl (fun _ _ h1 => h1.trailRaw)
  have h2 : tidy s2 := h1.trailRaw
  have h3 : tidy s3 := h2.setDbg
  exact h3.eventRecord

theorem replayMoved {p} (h : tidy s) : tidy (s.replayMoved p) := h.same

theorem trail {p w0 w1} (h : tidy s) : tidy (s.trail p w0 w1) := by
  unfold State.trail
  split
  · split
    · exact h
    split
    exact h.setDbg.replayMoved.triggerStop.ite h.setDbg.replayMoved
  · exact .ite (h.trailRaw.ite h.trailClose) h

theorem trailInput {p core slot wti src v} (h : tidy s) : tidy (s.trailInput p core slot wti src v).2 := h.trail

theorem fireWatch {p i v ag scratch addr n rd wr} (h : tidy s) : tidy (s.fireWatch p i v ag scratch addr n rd wr) := by
  unfold State.fireWatch
  extract_lets
  split
  exact h.debugRecord

theorem watch {ag scratch addr n rd wr only} (h : tidy s) : tidy (s.watch ag scratch addr n rd wr only).2 :=
  .foldl (h.foldl (fun _ _ h1 => h1.fireWatch)) (fun _ _ h1 => h1.triggerStop)

theorem walkSeen {m asid va} (h : tidy s) : tidy (s.walkSeen m asid va) := h.ite (h.foldl (fun _ _ h1 => h1.watch))

/-- A write over poisoned units touches their marks and the launch's error log; the memory is given back apart. -/
theorem writeOver {lid base a b m} (h : tidy s) : tidy (s.writeOver lid base a b m).2 := by
  unfold State.writeOver
  split
  · exact h
  · extract_lets _ touched cut _ _ s2
    have h2 : tidy s2 := h.same
    clear_value cut
    split
    exacts [h2, h2.logError]

theorem storeMem {pa n m} (h : tidy s) (hm : Memory.wf m = true) : tidy (s.storeMem pa n m) := by
  unfold State.storeMem
  exact (h.setMem hm).same

theorem memWrite {lid pa b} (h : tidy s) : tidy (s.memWrite lid pa b) := by
  unfold State.memWrite
  exact h.writeOver.storeMem (writeOver_wf s lid 0 pa b h.mem)

theorem scratchStore {lid core a b} (h : tidy s) : tidy (s.scratchStore lid core a b) := by
  unfold State.scratchStore
  exact h.writeOver.setScratch (writeOver_wf s lid _ _ b h.scratch)

theorem awningStore {lid a b} (h : tidy s) : tidy (s.awningStore lid a b) :=
  ⟨awningStore_canonical lid a b h.1, (h.writeOver (lid := lid) (base := awningUnits) (a := a) (b := b) (m := s.store.awning)).2⟩

theorem writeHalf {l k} (h : tidy s) : tidy (s.writeHalf l k) := by
  unfold State.writeHalf
  extract_lets
  split
  · exact h
  · exact (h.storeMem (fold_wf _ _ (fun _ _ hm => put_wf _ _ hm) h.mem)).ite (h.memWrite.ite h.logError)

theorem writeBack {l} (h : tidy s) : tidy (s.writeBack l) := by
  unfold State.writeBack
  split
  · exact h
  refine tidy.foldl h.writeHalf.writeHalf ?_
  intro s1 x h1
  split
  exacts [h1, h1.watch]

theorem evict {core p} (h : tidy s) : tidy (s.evict core p) := (h.foldl (fun _ _ h1 => h1.writeBack)).same

theorem cleanCore {core} (h : tidy s) : tidy (s.cleanCore core) := (h.foldl (fun _ _ h1 => h1.writeBack)).same

theorem homeRead {core pa n} (h : tidy s) : tidy (s.homeRead core pa n).2 := h.evict

theorem homeWrite {core pa b lid} (h : tidy s) : tidy (s.homeWrite core pa b lid) := h.evict.memWrite

theorem putLine {l} (h : tidy s) : tidy (s.putLine l) := h.same

theorem privRead {core pa n} (h : tidy s) : tidy (s.privRead core pa n).2 := h.putLine

theorem privWrite {core pa b who} (h : tidy s) : tidy (s.privWrite core pa b who) := h.putLine

theorem deviceStore {cluster asid va b} (h : tidy s) : Attempt.tidy (s.deviceStore cluster asid va b) := by
  unfold State.deviceStore
  split
  exacts [h.memWrite.watch, trivial, trivial]

theorem deviceStoreLog {cluster lid asid va b} (h : tidy s) : tidy (s.deviceStoreLog cluster lid asid va b) := by
  unfold State.deviceStoreLog
  split
  next u e => exact h.deviceStore.ok e
  · exact h.logError

theorem putCon {r} (h : tidy s) : tidy (s.putCon r) := h.same

theorem checkGranule {n region kind scratch g} (h : tidy s) : (s.checkGranule n region kind scratch g).tidy := by
  unfold State.checkGranule
  extract_lets
  split
  · trivial
  split
  · trivial
  split
  exacts [trivial, h.putCon]

theorem checkGranules {n region kind scratch l} (h : tidy s) : (s.checkGranules n region kind scratch l).tidy := by
  induction l generalizing s with
  | nil => exact h
  | cons g rest ih =>
    unfold State.checkGranules
    split
    next e => exact ih (h.checkGranule.ok e)
    · trivial
    · trivial

theorem owe {n info at_ word} (h : tidy s) : tidy (s.owe n info at_ word) := h.modThread

theorem spill {n v word} (h : tidy s) : tidy (s.spill n v word) := by
  unfold State.spill
  split
  · exact h
  split
  · split
    · exact h
    extract_lets
    split
    · extract_lets s1
      have h1 : tidy s1 := h.walkSeen.homeWrite
      split
      next u e => exact (h1.watch.snd e).modThread.foldl (fun _ _ h3 => h3.owe)
    · exact h.parkFault
    · exact h
  · exact h

theorem kill {n i} (h : tidy s) : tidy (s.kill n i) := h.foldl (fun _ _ h1 => h1.spill)

theorem closeRegion {n} (h : tidy s) : tidy (s.closeRegion n) := h.modThread

theorem nextOrder (h : tidy s) : tidy s.nextOrder.2 := h.same

theorem release {core scope} (h : tidy s) : tidy (s.release core scope) := h.cleanCore.ite h

theorem acquire {core scope} (h : tidy s) : tidy (s.acquire core scope) := h.evict.ite h

theorem settleExit {core slot} (h : tidy s) : tidy (s.settleExit core slot) := h.ite h.modGroup

theorem logBatches {t} (h : tidy s) : tidy (s.logBatches t) := by
  unfold State.logBatches
  refine h.foldl fun s1 x h1 => ?_
  split
  exacts [h1.ite h1.logError, h1]

theorem endThread {n} (h : tidy s) : tidy (s.endThread n) := by
  unfold State.endThread
  split
  · exact h
  · extract_lets s1 s2 _ _ _ s3
    have h2 : tidy s2 := h.logBatches.release.modThread
    clear_value s2
    have h3 : tidy s3 := ⟨h2.1, (h2.leavePack (n := n)).2⟩
    exact h3.settleExit

theorem dropThread {n} (h : tidy s) : tidy (s.dropThread n) := h.leavePack.setThreads

theorem endHandler {t info} (h : tidy s) : tidy (s.endHandler t info) := by
  unfold State.endHandler
  extract_lets _ _ s1 s2
  have h1 : tidy s1 := h.logError.logError
  have h2 : tidy s2 := h1.dropThread
  split
  exacts [h2.modGroup.endThread, h2]

theorem takeTrap {n r} (h : tidy s) : tidy (s.takeTrap n r) := by
  unfold State.takeTrap
  split
  · exact h
  split
  · exact h.endHandler
  extract_lets s1
  have h1 : tidy s1 := h.leavePack.modThread
  exact h1.same

theorem trapAt {n info pc word pa pb} (h : tidy s) : tidy (s.trapAt n info pc word pa pb) := h.takeTrap

theorem trapAfter {n l at_ word own resume pa pb} (h : tidy s) : tidy (s.trapAfter n l at_ word own resume pa pb) := by
  unfold State.trapAfter
  split
  exacts [h, h.takeTrap]

theorem takeDue {n} (h : tidy s) : tidy (s.takeDue n) := by
  unfold State.takeDue
  split
  · exact h
  split
  · exact h
  split
  · split
    · exact h
    split
    exact h.modThread.takeTrap
  split
  · exact h
  split
  exact h.modThread.takeTrap

theorem trapBoundary {n info at_ word} (h : tidy s) : tidy (s.trapBoundary n info at_ word) := by
  unfold State.trapBoundary
  split
  exacts [h, h.ite (h.owe.ite h.owe.takeDue)]

theorem returnTrap {n resume pa pb past skip} (h : tidy s) : tidy (s.returnTrap n resume pa pb past skip) := h.modThread.takeDue

/-! ### Fetch, clause entry and retirement -/

theorem codeWord {core pa} (h : tidy s) : tidy (s.codeWord core pa).2 := by
  unfold State.codeWord
  refine foldSnd h fun a v ha => ?_
  split
  · exact ha
  · exact ha.fresh

theorem fetch {core asid level va} (h : tidy s) : (s.fetch core asid level va).tidy := by
  unfold State.fetch
  split
  · split
    · trivial
    split
    next u e => exact (h.codeWord.snd e).walkSeen.watch
  · trivial
  · trivial

theorem holdFetch {n asid level va} (h : tidy s) : tidy (s.holdFetch n asid level va) := by
  unfold State.holdFetch
  split
  next u e => exact (h.parkFault.snd e).modThread

theorem enter {n fuel} (h : tidy s) : tidy (s.enter n fuel) := by
  induction fuel generalizing s with
  | zero => exact h
  | succ fuel ih =>
    unfold State.enter
    split
    · exact h
    extract_lets
    split
    · exact h.holdFetch
    · exact h.trapAt
    next e =>
    have h1 := h.fetch.ok e
    refine h1.trapAt.ite (.ite (ih h1.modThread) (.ite (h1.trapAt.ite (ih h1.modThread)) (h1.trapAt.ite ?_)))
    split
    exacts [h1.holdFetch, h1.modThread]

theorem ctxTrapAt {c n info} (h : tidy s) : tidy (Ctx.trapAt c s n info) := h.trapAt

/-- One thread's result in the pack's own. -/
theorem ctxTake {c : Ctx} {acc n r} (h : tidy acc.1) (hr : r.tidy) : tidy (c.take acc n r).1 := by
  cases r with
  | ok s fate after => exact kill (s := s) hr
  | trap s info => exact ctxTrapAt (s := s) hr
  | leave s w => exact modThread (leavePack (s := s) hr)
  | park asid kind level va => exact h

theorem ctxPart {c : Ctx} {f off acc n} (h : tidy acc.1) (hf : ∀ s t, tidy s → (f c s t).tidy) (ho : ∀ s t, tidy s → tidy (off c s t)) :
    tidy (c.part f off acc n).1 := by
  unfold Ctx.part
  split
  · exact h
  split
  exacts [h.ctxTake (hf _ _ h), ho _ _ h]

/-- The threads of a pack one after the other. -/
theorem ctxParts {c : Ctx} {f off} {l : List ThreadName} (h : tidy s) (hf : ∀ s t, tidy s → (f c s t).tidy)
    (ho : ∀ s t, tidy s → tidy (off c s t)) : tidy (l.foldl (c.part f off) (s, [])).1 :=
  foldFst h fun _ _ ha => ha.ctxPart hf ho

theorem settle {outs} (h : tidy s) : (Machine.settle s outs).tidy := by
  unfold Machine.settle
  split
  exacts [h, trivial]

theorem eachThread {need f off c} (h : tidy s) (hf : ∀ s t, tidy s → (f c s t).tidy) (ho : ∀ s t, tidy s → tidy (off c s t)) :
    (Machine.eachThread need f off c s).tidy := by
  unfold Machine.eachThread
  split
  exacts [trivial, (h.ctxParts hf ho).settle]

theorem gated {entry body c} (h : (body c s).tidy) : (Machine.gated entry body c s).tidy := by
  unfold Machine.gated
  extract_lets
  split
  exacts [h, trivial]

theorem retireThread {o pc hd w pa pb} (h : tidy s) : tidy (s.retireThread o pc hd w pa pb) := by
  unfold State.retireThread
  split
  · exact h
  · exact h.modThread
  extract_lets _ s1
  have h1 : tidy s1 := h.modThread
  split
  exacts [h1.takeDue, h1.trapAfter, h1]

theorem pastPack {p counted names} (h : tidy s) : tidy (s.pastPack p counted names) := h.modStop

theorem advance {p pa pb counted} (h : tidy s) : tidy (s.advance p pa pb counted) := h.dropPack.ite h.modPack

theorem countWords {core slot n} (h : tidy s) : tidy (s.countWords core slot n) := h.ite h.same

theorem retire {c outs pa pb} (h : tidy s) : tidy (s.retire c outs pa pb) := by
  unfold State.retire
  extract_lets s1 _ s11 s12 s13
  have h1 : tidy s1 := h.foldl (fun _ _ h1 => h1.retireThread)
  have h2 : tidy s11 := h1.modThreads.ite h1
  have h3 : tidy s12 := h2.countWords
  have h4 : tidy s13 := h3.pastPack.ite (h3.pastPack.ite h3)
  exact h4.advance

theorem holdOperands {c} (h : tidy s) : tidy (s.holdOperands c) := h.modThreads

theorem allocRegs {before n l} (h : tidy s) : tidy (s.allocRegs before n l) := h.ite h.modThread

theorem wordRegs {before c outs} (h : tidy s) : tidy (s.wordRegs before c outs) := h.foldl (fun _ _ h1 => h1.modThread.allocRegs)

theorem trapPack {p word info} (h : tidy s) : tidy (s.trapPack p word info) := .pastPack (h.foldl (fun _ _ h1 => h1.trapAt))

theorem stallPack {p} (h : tidy s) : tidy (s.stallPack p) := h.modPack

theorem stallFull {p} (h : tidy s) : tidy (s.stallFull p) := h.modPack

theorem holdAt {n x} (h : tidy s) : tidy (s.holdAt n x) := by
  unfold State.holdAt
  split
  next u e => exact (h.parkFault.snd e).modThread

theorem holdPack {p l} (h : tidy s) : tidy (s.holdPack p l) := .stallPack (h.foldl (fun _ _ h1 => h1.holdAt))

theorem unhold {p} (h : tidy s) : tidy (s.unhold p) := h.modThreads

theorem ctxLost {c} (h : tidy s) : tidy (Ctx.lost c s) := by
  unfold Ctx.lost
  refine h.foldl fun s1 x h1 => ?_
  split
  · exact h1
  split
  exacts [h1.ctxTrapAt, h1]

/-- A word keeps the canonical form where its meaning does. -/
theorem runWord {i body} (h : tidy s) (hb : ∀ c s, tidy s → (body c s).tidy) : tidy (Machine.runWord i body s) := by
  unfold Machine.runWord
  split
  · exact h
  extract_lets c s1
  split
  · exact h.trapPack
  split
  · exact h.holdOperands.stallPack
  have h1 : tidy s1 := h.ctxLost
  split
  · exact h1
  extract_lets c1
  have hr := hb c1 s1 h1
  split
  · exact h1.stallPack
  · exact h1.stallFull
  · exact h1.holdPack
  next s2 e => exact hr.more e
  next s2 outs e => exact (hr.done e).wordRegs.retire

/-! ### Operands of vector and XFN words -/

theorem vecWrite {o sp t r} (h : tidy s) : (Machine.vecWrite o sp s t r).tidy := h.modThread

theorem vecOff {o sp c t} (h : tidy s) : tidy (Machine.vecOff o sp c s t) := by
  unfold Machine.vecOff
  extract_lets
  split
  exacts [h.modThread.ite (h.modThread.ite h), h.modThread.ite h, h.modThread.ite h]

theorem vecBody {f x} (h : tidy s) : (Machine.vecBody f x s).tidy := by
  unfold Machine.vecBody
  split
  exacts [trivial, h.eachThread (fun _ _ h1 => h1.vecWrite) (fun _ _ h1 => h1.vecOff)]

/-! ### Control words -/

theorem ctBody {need f c} (h : tidy s) (hf : ∀ s t, tidy s → (f c s t).tidy) : (Machine.ctBody need f c s).tidy :=
  h.eachThread hf fun _ _ h => h

theorem tretEnd {n} (h : tidy s) : tidy (s.tretEnd n) := by
  unfold State.tretEnd
  split
  · exact h
  extract_lets s1
  have h1 : tidy s1 := h.logBatches.dropThread
  split
  exacts [h1.modGroup.endThread, h1]

theorem exitThread {n} (h : tidy s) : tidy (s.exitThread n) := by
  unfold State.exitThread
  split
  exacts [h.tretEnd.ite h.endThread, h]

theorem wake {n fate after} (h : tidy s) : tidy (s.wake n fate after) := by
  unfold State.wake
  split
  · exact h
  split
  exacts [h, h.retireThread]

theorem wakeTrap {n info} (h : tidy s) : tidy (s.wakeTrap n info) := by
  unfold State.wakeTrap
  split
  exacts [h, h.trapAt]

theorem branchTo {t target} (h : tidy s) : (Machine.branchTo s t target).tidy := h.modThread

theorem bodyBra {o x} (h : tidy s) : (Machine.bodyBra o x s).tidy := h.ctBody (fun _ _ h1 => h1.branchTo)

theorem bodyBrx {o x} (h : tidy s) : (Machine.bodyBrx o x s).tidy := by
  unfold Machine.bodyBrx
  refine h.ctBody fun s1 t h1 => ?_
  extract_lets
  split
  exacts [h1, h1.branchTo]

theorem callTo {c t target} (h : tidy s) : (Machine.callTo c s t target).tidy := by
  unfold Machine.callTo
  split
  · exact h
  split
  exacts [h.modThread, h.modThread]

theorem bodyCall {o x} (h : tidy s) : (Machine.bodyCall o x s).tidy := h.ctBody (fun _ _ h1 => h1.callTo)

theorem bodyCallx {o x} (h : tidy s) : (Machine.bodyCallx o x s).tidy := by
  unfold Machine.bodyCallx
  refine h.ctBody fun s1 t h1 => ?_
  extract_lets
  split
  exacts [h1, h1.callTo]

theorem bodyExit {x x1} (h : tidy s) : (Machine.bodyExit x x1 s).tidy := h.ctBody (fun _ _ h1 => h1.exitThread)

theorem bodyRet {x x1} (h : tidy s) : (Machine.bodyRet x x1 s).tidy := by
  unfold Machine.bodyRet
  refine h.ctBody fun s1 t h1 => ?_
  split
  · exact h1.exitThread
  extract_lets
  split
  · exact h1.modThread
  split
  exacts [h1, h1.modThread]

theorem bodySwitch {o x} (h : tidy s) : (Machine.bodySwitch o x s).tidy := by
  unfold Machine.bodySwitch
  refine h.ctBody fun s1 t h1 => ?_
  extract_lets
  split
  · exact h1
  split
  · trivial
  · exact h1
  next u e =>
  have h2 := h1.fetch.ok e
  split
  · exact h1
  split
  · trivial
  · exact h1
  next u1 e1 => exact (h2.fetch.ok e1).branchTo

theorem bodyLoop {o x} (h : tidy s) : (Machine.bodyLoop o x s).tidy := by
  unfold Machine.bodyLoop
  refine h.ctBody fun s1 t h1 => ?_
  extract_lets
  split
  · exact h1
  split
  exacts [h1, h1.modThread]

theorem popLoop {t brk} (h : tidy s) : (Machine.popLoop s t brk).tidy := by
  unfold Machine.popLoop
  split
  · split
    · exact h
    extract_lets s1
    have h1 : tidy s1 := h.modThread
    split
    exacts [h1, h1]
  · exact h

theorem bodyLpop {x x1} (h : tidy s) : (Machine.bodyLpop x x1 s).tidy := h.ctBody (fun _ _ h1 => h1.popLoop)

theorem bodyLpopDrop {x x1} (h : tidy s) : (Machine.bodyLpopDrop x x1 s).tidy := h.ctBody (fun _ _ h1 => h1.popLoop)

theorem bodyYield {x x1} (h : tidy s) : (Machine.bodyYield x x1 s).tidy := h.ctBody (fun _ _ h1 => h1)

theorem waitUntil {ns} (h : tidy s) : (Machine.waitUntil s ns).tidy := by
  unfold Machine.waitUntil
  split
  exacts [h, h]

theorem bodyWaittAbs {o x} (h : tidy s) : (Machine.bodyWaittAbs o x s).tidy := h.ctBody (fun _ _ h1 => h1.waitUntil)

theorem bodyWaittRel {o x} (h : tidy s) : (Machine.bodyWaittRel o x s).tidy := h.ctBody (fun _ _ h1 => h1.waitUntil)

theorem execWaittWake {n} (h : tidy s) : Outcome.tidy (Machine.execWaittWake n s) := by
  unfold Machine.execWaittWake
  show tidy _
  split
  · exact h
  split
  exacts [h.trailInput.wake.ite h, h]

theorem callDone {n x read} (h : tidy s) : tidy (s.callDone n x read) := by
  unfold State.callDone
  extract_lets s1
  have h1 : tidy s1 := h.modThread
  split
  · exact h1.modThread.wake
  · split
    exacts [h1.wakeTrap, h1.modThread.wake]
  · exact h1

theorem execCallStackTransfer {n} (h : tidy s) : Outcome.tidy (Machine.execCallStackTransfer n s) := by
  unfold Machine.execCallStackTransfer
  show tidy _
  split
  · exact h
  split
  · split
    · exact h
    extract_lets _ s1
    have h1 : tidy s1 := h.walkSeen
    split
    · split
      next u e => exact (h.parkFault.snd e).modThread
    · exact h.modThread.wakeTrap
    split
    · exact h1.homeWrite.watch.callDone
    split
    · exact h1.modThread.wakeTrap
    split
    next u e => exact (h1.homeRead.snd e).watch.callDone
  · exact h

/-! ### Barriers and tiles -/

theorem writeBar {core a b} (h : tidy s) : tidy (s.writeBar core a b) := h.scratchStore.watch

theorem modMark {core a queue f} (h : tidy s) : tidy (s.modMark core a queue f) := h.same

theorem putMark {core a queue} (h : tidy s) : tidy (s.putMark core a queue) := h.same

theorem wakeBarrier {n scope} (h : tidy s) : tidy (s.wakeBarrier n scope) := h.modThread.deferTo.ite h.acquire.wake

theorem phaseDone {core a} (h : tidy s) : tidy (s.phaseDone core a) := by
  unfold State.phaseDone
  extract_lets s1 _ _ s2
  have h1 : tidy s1 := by
    dsimp only [s1]
    split
    exacts [h.modThreads, h]
  have h2 : tidy s2 := h1.same
  refine h2.foldl fun s3 x h3 => ?_
  split
  exact h3.wakeBarrier

theorem barSettle {core a} (h : tidy s) : tidy (s.barSettle core a) := by
  unfold State.barSettle
  split
  exacts [h, h.ite (h.deferTo.ite h.writeBar.modMark.phaseDone)]

theorem barDo {o} (h : tidy s) : tidy (s.barDo o) := by
  unfold State.barDo
  extract_lets
  split
  exacts [h, h.logError.ite (.barSettle (h.writeBar.modMark.ite h.writeBar.modMark.trail))]

theorem barStep {o} (h : tidy s) : tidy (s.barStep o) := h.same.ite h.barDo

theorem barApply {c bytes arrivals err drop who} (h : tidy s) : tidy (s.barApply c bytes arrivals err drop who) := h.barStep

theorem barRetry (h : tidy s) : tidy s.barRetry := h.same.foldl (fun _ _ h1 => h1.barStep)

theorem creditAll {l bytes err} (h : tidy s) : tidy (s.creditAll l bytes err) := h.foldl (fun _ _ h1 => h1.barApply)

theorem putInst {t} (h : tidy s) : tidy (s.putInst t) := h.same

theorem setPtr {g ch ptr} (h : tidy s) : tidy (s.setPtr g ch ptr) := h.same

theorem flip {t v to_} (h : tidy s) : tidy (s.flip t v to_) := h.putInst.setPtr.ite h.putInst

theorem flipMember {t v to_} (h : tidy s) : tidy (s.flipMember t v to_) := h.ite h.putInst

theorem asBody {need f c} (h : tidy s) (hf : ∀ s t, tidy s → (f c s t).tidy) : (Machine.asBody need f c s).tidy :=
  h.eachThread hf fun _ _ h => h

theorem bodyBinit {o x} (h : tidy s) : (Machine.bodyBinit o x s).tidy := by
  unfold Machine.bodyBinit
  refine h.asBody fun s1 t h1 => ?_
  split
  · exact h1
  extract_lets _ _ s11 s2
  have h2 : tidy s11 := h1.release.putMark
  have h3 : tidy s2 := h2.writeBar
  split
  · exact h1
  split
  exacts [h1, h3.closeRegion]

theorem arrive {t g a n scope} (h : tidy s) : tidy (Machine.arrive s t g a n scope) := h.release.closeRegion.barApply

theorem bodyBarv {o x} (h : tidy s) : (Machine.bodyBarv o x s).tidy := by
  unfold Machine.bodyBarv
  refine tidy.gated ?_
  refine h.asBody fun s1 t h1 => ?_
  split
  exacts [h1, h1.arrive]

theorem bodyBwait {o x} (h : tidy s) : (Machine.bodyBwait o x s).tidy := by
  unfold Machine.bodyBwait
  refine h.asBody fun s1 t h1 => ?_
  split
  · exact h1
  extract_lets _ s11
  have h2 : tidy s11 := h1.closeRegion
  split
  exacts [h2.acquire, h2]

theorem bsyncArrive {c o l} (h : tidy s) : tidy (Machine.bsyncArrive c o s l).1 := by
  unfold Machine.bsyncArrive
  refine foldFst h fun a n ha => ?_
  split
  · exact ha
  split
  exacts [ha, ha.arrive]

theorem bodyBsync {o c} (h : tidy s) : (Machine.bodyBsync o c s).tidy := by
  unfold Machine.bodyBsync
  refine tidy.gated ?_
  extract_lets act
  split
  · trivial
  split
  next s1 res e =>
  have h1 : tidy s1 := h.bsyncArrive.fst e
  refine foldFst h1 fun a n ha => ?_
  split
  · split
    exacts [ha, ha]
  · exact ha.ctxTake ha
  · split
    exacts [ha.ctxTake ha.acquire, ha.ctxTake ha]

theorem modBatch {n key f} (h : tidy s) : tidy (s.modBatch n key f) := h.modThread

theorem wakeBatches {n} (h : tidy s) : tidy (s.wakeBatches n) := by
  unfold State.wakeBatches
  split
  · exact h
  split
  · extract_lets _ s1
    have h1 : tidy s1 := h.acquire
    split
    · split
      · exact h.modThread.deferTo
      split
      exacts [h1.modBatch.wake, h1.wake]
    · exact h
  · exact h

theorem transferRead {n key id} (h : tidy s) : tidy (s.transferRead n key id) := h.modBatch.wakeBatches

theorem transferError {n key e} (h : tidy s) : tidy (s.transferError n key e) := h.modBatch

theorem deliveryDropped {n key bob} (h : tidy s) : tidy (s.deliveryDropped n key bob) := .eventRecord (h.foldl (fun _ _ h1 => h1.barApply))

theorem transferOver {n key id} (h : tidy s) : tidy (s.transferOver n key id) := h.ite h.modBatch.wakeBatches.modThread

theorem landBytes {lid core l} (h : tidy s) : tidy (s.landBytes lid core l) := by
  unfold State.landBytes
  split
  exacts [h, .watch (h.scratchStore.ite (h.foldl (fun _ _ h1 => h1.scratchStore)))]

theorem deliver {w g v lid data short err bob} (h : tidy s) : tidy (s.deliver w g v lid data short err bob) := by
  unfold State.deliver
  split
  exact h.landBytes.creditAll

theorem deliverBad {w g v total n key bob} (h : tidy s) : tidy (s.deliverBad w g v total n key bob) := by
  unfold State.deliverBad
  split
  exact h.transferError.creditAll

theorem deliverHeld {t v stream} (h : tidy s) : tidy (s.deliverHeld t v stream) :=
  h.foldl (fun _ _ h1 => .transferOver (h1.same.deliverBad.ite h1.same.deliver))

theorem bodyTown {o x} (h : tidy s) : (Machine.bodyTown o x s).tidy := by
  unfold Machine.bodyTown
  refine h.asBody fun s1 t h1 => ?_
  split
  · exact h1
  split
  · exact h1
  · exact h1
  extract_lets _ _ _ _ _ s11 s2
  have h2 : tidy s11 := h1.release.closeRegion
  have h3 : tidy s2 := .deliverHeld (h2.flip.ite h2)
  split
  · exact h1
  show tidy _
  split
  · exact h3
  split
  exacts [h3.flipMember.deliverHeld, h3]

/-! ### Awning rings -/

theorem setRingPtr {r k v} (h : tidy s) : tidy (s.setRingPtr r k v) := h.setDreg

theorem stepRingPtr {r k} (h : tidy s) : tidy (s.stepRingPtr r k) := h.setRingPtr

theorem setSlots {l} (h : tidy s) : tidy (s.setSlots l) := h.same

theorem modSlot {r k f} (h : tidy s) : tidy (s.modSlot r k f) := h.setSlots

theorem freeSlot {r k} (h : tidy s) : tidy (s.freeSlot r k) := h.setSlots

theorem ringDescWrite {r word v} (h : tidy s) : tidy (s.ringDescWrite r word v) :=
  h.ite (h.setDreg.setDreg.setDreg.same.ite (h.setDreg.ite h))

theorem freeHeld {r n} (h : tidy s) : tidy (s.freeHeld r n) := by
  unfold State.freeHeld
  split
  exacts [h.freeSlot, h]

theorem ringDue {r} (h : tidy s) : Answer.tidy (s.ringDue r) := by
  unfold State.ringDue
  extract_lets _ _ _ _ _ _ _ s1 up s11
  have h1 : tidy s1 := h.same
  clear_value s1
  have h2 : Answer.tidy up := by
    dsimp only [up]
    split
    · split
      · exact h.stepRingPtr
      split
      exacts [h.modSlot.stepRingPtr, trivial]
    split
    exacts [h.stepRingPtr, trivial]
  clear_value up
  have h3 : tidy s11 := h.same
  clear_value s11
  split
  · exact h1.stepRingPtr
  split
  · exact h2
  split
  · exact h.freeHeld.stepRingPtr
  split
  exacts [h3.stepRingPtr, h2]

theorem ringAdvance {r fuel} (h : tidy s) : tidy (s.ringAdvance r fuel) := by
  induction fuel generalizing s with
  | zero => exact h
  | succ fuel ih =>
    unfold State.ringAdvance
    split
    next e => exact ih (h.ringDue.some e)
    · exact h

theorem ringSettle {r} (h : tidy s) : tidy (s.ringSettle r) := h.ringAdvance

theorem releaseSlot {x} (h : tidy s) : tidy (s.releaseSlot x) := .ringSettle (.freeHeld (h.modSlot.ite h.freeSlot))

theorem publishSlot {x} (h : tidy s) : tidy (s.publishSlot x) := h.modSlot.ringSettle

theorem lateSeq {r n} (h : tidy s) : tidy (s.lateSeq r n) := by
  unfold State.lateSeq
  split
  exacts [h.modSlot.ringSettle.ite h, h.same.ringSettle.ite h]

theorem settleChainSlots {plan n} (h : tidy s) : tidy (s.settleChainSlots plan n) := by
  unfold State.settleChainSlots
  refine h.foldl fun s1 x h1 => ?_
  split
  · split
    · exact h1.lateSeq
    extract_lets s11
    have h2 : tidy s11 := h1.freeSlot
    exact h2.same.ringSettle
  · exact h1.releaseSlot
  · exact h1

theorem ringTry {g wti r consumer} (h : tidy s) : Tried.tidy (s.ringTry g wti r consumer) := by
  unfold State.ringTry
  extract_lets _ _ _ _ _ _ s1
  have h1 : tidy s1 := h.modSlot
  split
  · trivial
  split
  · split
    · split
      exacts [h1.stepRingPtr.ringSettle.trail, trivial]
    · trivial
  split
  exacts [h.setSlots.stepRingPtr.ringSettle.trail, trivial]

theorem bodyRgacq {o c} (h : tidy s) : (Machine.bodyRgacq o c s).tidy := by
  unfold Machine.bodyRgacq
  refine h.asBody fun s t h => ?_
  extract_lets a consumer
  split
  · exact h
  split
  · exact h
  split
  · exact h
  split
  next k s1 e =>
  have h1 : tidy s1 := h.nextOrder.snd e
  split
  next w s2 e =>
    split at e
    · cases e
    · exact (h1.ringTry.some e).modThread
  · exact h1

theorem wakeRing {n r consumer d order} (h : tidy s) : tidy (s.wakeRing n r consumer d order) := by
  unfold State.wakeRing
  split
  · exact h
  split
  · exact h
  split
  next u e => exact (h.ringTry.some e).modThread.wake
  · exact h

theorem bodyRgrelPub {o x} (h : tidy s) : (Machine.bodyRgrelPub o x s).tidy := by
  unfold Machine.bodyRgrelPub
  refine h.asBody fun s1 t h1 => ?_
  split
  · exact h1
  split
  exacts [h1, h1.publishSlot]

theorem bodyRgrelRel {o x} (h : tidy s) : (Machine.bodyRgrelRel o x s).tidy := by
  unfold Machine.bodyRgrelRel
  refine h.asBody fun s1 t h1 => ?_
  split
  exacts [h1, h1.releaseSlot]

theorem bodyRghold {o x} (h : tidy s) : (Machine.bodyRghold o x s).tidy := by
  unfold Machine.bodyRghold
  refine h.asBody fun s1 t h1 => ?_
  extract_lets
  split
  · exact h1
  split
  · exact h1
  split
  exacts [h1, h1.modSlot]

/-! ### Placing workgroups -/

theorem clearScratch {core base size} (h : tidy s) : tidy (s.clearScratch core base size) :=
  ⟨clearScratch_canonical core base size h.1, h.2⟩

theorem freeTiles {core base size} (h : tidy s) : tidy (s.freeTiles core base size) := h.same

theorem startGang {l g} (h : tidy s) : tidy (s.startGang l g) := by
  unfold State.startGang
  extract_lets _ s1
  have h1 : tidy s1 := h.clearScratch.freeTiles
  exact h1.same

/-! ### Strip chains -/

theorem modPlan {i f} (h : tidy s) : tidy (s.modPlan i f) := h.same

theorem modChain {i n f} (h : tidy s) : tidy (s.modChain i n f) := h.modPlan

theorem setLvl {i lvl slk} (h : tidy s) : tidy (s.setLvl i lvl slk) := h.ite h.setDreg

theorem writeStatus {p n off b} (h : tidy s) : tidy (s.writeStatus p n off b) := h.deviceStoreLog

theorem completion {asid cpl lid status count cause addr} (h : tidy s) : tidy (s.completion asid cpl lid status count cause addr) := by
  unfold State.completion
  split
  · exact h
  extract_lets
  split
  next u e => exact h.deviceStore.ok e
  · exact h.deviceError

theorem launchSettle {lid} (h : tidy s) : tidy (s.launchSettle lid) := by
  unfold State.launchSettle
  split
  exacts [h, h.ite h.completion.same]

theorem taskOver {t status} (h : tidy s) : tidy (s.taskOver t status) := by
  unfold State.taskOver
  extract_lets cur s1 _ s2
  have hf : ∀ s h v, tidy s → tidy (cur s h v) := by
    intro s h v h'
    dsimp only [cur]
    exact h'.putInst.ite h'
  have h1 : tidy s1 := h.foldl (fun _ _ h1 => hf _ _ _ h1)
  have h2 : tidy s2 := h1.same
  split
  · exact h2
  split
  exacts [h2.deviceStoreLog, h2]

theorem chainStep {i n kind ran} (h : tidy s) : tidy (s.chainStep i n kind ran) := by
  unfold State.chainStep
  split
  · exact h
  extract_lets _ _ _ s1
  have h1 : tidy s1 := by
    dsimp only [s1]
    split
    exacts [h.modPlan, h]
  split
  · exact h1
  split
  exacts [h1, h1.modChain.setLvl.ite h1]

theorem endGroup {core slot} (h : tidy s) : tidy (s.endGroup core slot) :=
  (h.foldl (fun _ _ h1 => h1.logBatches.dropThread)).same.foldl (fun _ _ h1 => h1.endThread)

theorem cancelGroup {core slot} (h : tidy s) : tidy (s.cancelGroup core slot) := h.modGroup.deferTo.ite h.modGroup.endGroup

theorem endChain {i n outc at_} (h : tidy s) : tidy (s.endChain i n outc at_) := by
  unfold State.endChain
  split
  · exact h
  split
  · exact h
  extract_lets _ _ s1 s11 s2 _ s3 s21 s31 _ _ _ _ s4 _ _ _ _ _ s5 s6
  have h1 : tidy s1 := h.foldl (fun _ _ h1 => h1.taskOver)
  have h2 : tidy s11 := h.ite (h1.foldl (fun _ _ h2 => h2.cancelGroup))
  have h3 : tidy s2 := h2.lateSeq
  have h4 : tidy s3 := h3.ite h3.setDreg
  have h5 : tidy s21 := h2.ite h4.eventRecord
  have h6 : tidy s31 := h5.settleChainSlots
  have h7 : tidy s4 := h6.setLvl.ite (.ite (h6.setLvl.ite h6.setLvl) h6.setLvl)
  have h8 : tidy s5 := h7.writeStatus
  have h9 : tidy s6 := h8.modPlan
  exact h9.launchSettle

theorem notePublished (h : tidy s) : tidy s.notePublished := h.same

theorem settleChains (h : tidy s) : tidy s.settleChains := by
  unfold State.settleChains
  extract_lets s1
  have h1 : tidy s1 := h.notePublished
  refine h1.foldl fun s2 x h2 => ?_
  refine h2.foldl fun s3 x1 h3 => ?_
  split
  · split
    · split
      exacts [h3.endChain.ite h3, h3]
    · exact h3
  · exact h3

theorem taskDone {t status} (h : tidy s) : tidy (s.taskDone t status) := by
  unfold State.taskDone
  extract_lets s1
  have h1 : tidy s1 := h.taskOver
  split
  exacts [h1.modChain.chainStep.settleChains.launchSettle, h1.launchSettle]

theorem execChainFinish {slot n} (h : tidy s) : Outcome.tidy (Machine.execChainFinish slot n s) := by
  unfold Machine.execChainFinish
  show tidy _
  split
  · exact h
  split
  exacts [h.endChain.settleChains.ite h, h]

theorem execRgrelPub {o} (h : tidy s) : Outcome.tidy (Machine.execRgrelPub o s) :=
  .settleChains (h.runWord (fun _ _ h1 => h1.bodyRgrelPub))

theorem execRingPublish {ring slot} (h : tidy s) : Outcome.tidy (Machine.execRingPublish ring slot s) := by
  unfold Machine.execRingPublish
  show tidy _
  split
  exacts [h.ringSettle.settleChains.ite h, h]

theorem execSlotSettleAtExit {ring slot} (h : tidy s) : Outcome.tidy (Machine.execSlotSettleAtExit ring slot s) := by
  unfold Machine.execSlotSettleAtExit
  show tidy _
  split
  · split
    · split
      exacts [h.ite (h.publishSlot.settleChains.ite (h.releaseSlot.ite h)), h]
    · exact h
  · exact h

/-! ### Copies -/

theorem engineSeen {ag cluster asid level va n} (h : tidy s) : tidy (s.engineSeen ag cluster asid level va n) := by
  unfold State.engineSeen
  extract_lets s1
  have h1 : tidy s1 := h.walkSeen
  split
  exacts [h1.watch, h1]

theorem tileEnd {s : State} {g handle write} : Planned.tidy (s.tileEnd g handle write) := by
  unfold State.tileEnd
  split
  exacts [trivial, trivial, trivial]

theorem joinBatch {n id} (h : tidy s) : tidy (s.joinBatch n id) := h.modThread

/-- A plan that is made in two parts errs tidily where both do. -/
theorem planBind {α β : Type} {x : Except PlanRes α} {f : α → Except PlanRes β} (hx : Planned.tidy x) (hf : ∀ a, Planned.tidy (f a)) :
    Planned.tidy (x >>= f) := by
  cases x with
  | error r => exact hx
  | ok a => exact hf a

theorem planMap {α β : Type} {x : Except PlanRes α} {f : α → β} (hx : Planned.tidy x) : Planned.tidy (x.map f) := by
  cases x with
  | error r => exact hx
  | ok a => trivial

theorem copyEnds {s : State} {t g l c store dense} : Planned.tidy (s.copyEnds t g l c store dense) := by
  unfold State.copyEnds
  extract_lets -underBinder withTile
  have hTile : ∀ a, Planned.tidy (withTile a) := by
    intro tile
    unfold withTile
    extract_lets -underBinder withPeer
    have hPeer : ∀ a, Planned.tidy (withPeer a) := by
      intro peer
      unfold withPeer
      extract_lets -underBinder withFar
      have hFar : ∀ a, Planned.tidy (withFar a) := by
        intro far
        unfold withFar
        extract_lets -underBinder withRoles
        have hRoles : ∀ a, Planned.tidy (withRoles a) := by
          intro _
          unfold withRoles
          extract_lets -underBinder withRing
          have hRing : ∀ a, Planned.tidy (withRing a) := by
            intro ring
            unfold withRing
            extract_lets -underBinder own withOwner
            have hOwner : ∀ a, Planned.tidy (withOwner a) := by
              intro _
              unfold withOwner
              extract_lets -underBinder ends
              split
              · extract_lets
                split
                exacts [trivial, trivial]
              · trivial
            clear_value withOwner
            split
            · split
              exacts [trivial, hOwner ()]
            · exact hOwner ()
          clear_value withRing
          split
          · exact hRing none
          split
          · trivial
          extract_lets held
          split
          · split
            exacts [hRing _, trivial]
          · trivial
        clear_value withRoles
        split
        · exact hRoles ()
        · split
          exacts [trivial, hRoles ()]
      clear_value withFar
      split
      · exact planBind (planMap tileEnd) hFar
      · split
        exacts [planBind (planMap tileEnd) hFar, hFar none]
    clear_value withPeer
    split
    · exact hPeer none
    split
    · trivial
    · trivial
    · trivial
    · split
      exacts [trivial, hPeer _]
  clear_value withTile
  split
  exacts [planBind (planMap tileEnd) hTile, hTile none]

/-- The state in which a copy's shape record is read, or why it is not. -/
def ShapeRead : Except PlanRes (Option Shape × List Nat × State) → Prop
  | .ok p => tidy p.2.2
  | .error r => r.tidy

theorem copyIssue {t off store} (h : tidy s) : (s.copyIssue t off store).tidy := by
  unfold State.copyIssue
  cases s.groupOf t.name with
  | none => exact True.intro
  | some g =>
  dsimp -zeta only
  cases s.launch? g.lid with
  | none => exact True.intro
  | some l =>
  dsimp -zeta only
  extract_lets core at_ illegal _ _ _ c fetched limits roles id bob
  have hi : illegal.tidy := trivial
  clear_value c illegal limits
  have hf : ShapeRead fetched := by
    unfold fetched
    split
    · exact h
    split
    · exact hi
    split
    · trivial
    · trivial
    split
    · trivial
    dsimp only [ShapeRead]
    exact h.walkSeen.homeRead.watch
  clear_value fetched
  split
  · trivial
  split
  · trivial
  split
  · trivial
  split
  · exact hf
  extract_lets fmt known dense
  clear_value fmt dense
  split
  · exact hi
  split
  · trivial
  split
  · trivial
  split
  · trivial
  split
  · trivial
  split
  next e => exact copyEnds.error e
  extract_lets tile far destWg k flips s2 s3 s4
  have h2 : tidy s2 := hf.foldl fun _ _ h => .ite h.flip h
  have h4 : tidy s4 := h2.watch.release.joinBatch
  exact h4.same

theorem copyBody {o store x} (h : tidy s) : (Machine.copyBody o store x s).tidy := by
  unfold Machine.copyBody
  refine h.asBody fun s1 t h1 => ?_
  split
  next u _ e => exact h1.copyIssue.ok e
  · exact h1
  · trivial
  · exact h1

theorem bodyCseal {x x1} (h : tidy s) : (Machine.bodyCseal x x1 s).tidy := h.asBody (fun _ _ h1 => h1.modThread)

theorem cwaitBody {o landed x} (h : tidy s) : (Machine.cwaitBody o landed x s).tidy := by
  unfold Machine.cwaitBody
  refine h.asBody fun s1 t h1 => ?_
  extract_lets _ _ s11
  have h2 : tidy s11 := h1.closeRegion
  split
  exacts [h2.acquire, h2]

theorem putCopy {c} (h : tidy s) : tidy (s.putCopy c) := h.same

theorem readOver {c bytes} (h : tidy s) : tidy (s.readOver c bytes) := by
  unfold State.readOver
  extract_lets s1 s2
  have h1 : tidy s1 := h.putCopy.creditAll
  have h2 : tidy s2 := by
    dsimp only [s2]
    split
    exacts [h1.transferError, h1]
  exact h2.transferRead

theorem copyRead {c} (h : tidy s) : tidy (s.copyRead c) := by
  unfold State.copyRead
  extract_lets src
  clear_value src
  split
  · split
    extract_lets s1
    have h1 : tidy s1 := by
      dsimp only [s1]
      split
      exacts [h.watch, h]
    clear_value s1
    exact h1.readOver
  split
  · exact h.readOver
  extract_lets
  split
  extract_lets _ s1
  have h1 : tidy s1 := by
    dsimp only [s1]
    exact h.foldl (fun _ _ h1 => h1.engineSeen)
  clear_value s1
  split
  · split
    next u e => exact (h1.parkFault.snd e).putCopy
  · exact h1.readOver
  · exact h1.readOver

theorem copyOver {c} (h : tidy s) : tidy (s.copyOver c) := h.same.trail.transferOver

theorem raisePtr {core ch lo hi top} (h : tidy s) : tidy (s.raisePtr core ch lo hi top) := h.same

theorem landDense {c to_} (h : tidy s) : tidy (s.landDense c to_) := by
  unfold State.landDense
  extract_lets rest _ _ s1
  have h1 : tidy s1 := h.creditAll.ite h
  clear_value s1
  clear_value rest
  split
  · exact h1.copyOver
  extract_lets s11 s2 s3
  have h2 : tidy s11 := by
    dsimp only [s11]
    split
    exacts [h.awningStore, h.landBytes]
  clear_value s11
  have h3 : tidy s2 := by
    dsimp only [s2]
    split
    exacts [h2.raisePtr.ite h2, h2]
  clear_value s2
  have h4 : tidy s3 := h3.putCopy.creditAll
  clear_value s3
  exact h4.copyOver.ite h4

theorem landMember {c role more} (h : tidy s) : tidy (s.landMember c role more) := by
  unfold State.landMember
  extract_lets on _ drop
  have hf : ∀ s, tidy s → tidy (on s) := by
    intro s h'
    dsimp only [on]
    exact h'.copyOver.ite h'.putCopy
  have hf1 : ∀ s, tidy s → tidy (drop s) := by
    intro s h'
    dsimp only [drop]
    exact h'.deliveryDropped
  split
  · exact hf _ (hf1 _ h)
  extract_lets _ hold
  have hf2 : ∀ s, tidy s → tidy (hold s) := by
    intro s h'
    dsimp only [hold]
    exact h'.ite (hf _ h'.same)
  split
  · exact hf2 _ h
  · exact hf _ (hf1 _ h)
  extract_lets
  split
  exacts [hf2 _ h, hf _ h.deliverBad, hf _ h.deliver]

theorem storeChunk {c pa val} (h : tidy s) : tidy (s.storeChunk c pa val) := h.memWrite.memWrite.watch

theorem writePart {c x prior va n new pa leaf} (h : tidy s) : Attempt.tidy (s.writePart c x prior va n new pa leaf) := by
  unfold State.writePart
  split
  · extract_lets
    split
    · exact h
    split
    split
    exacts [trivial, h.storeChunk]
  · exact h.memWrite.watch

theorem writeElem {c x prior r v} (h : tidy s) : (s.writeElem c x prior r v).tidy := by
  unfold State.writeElem
  split
  extract_lets _ _ _ _ _ _ _ _ _ _ _ s0
  have h1 : tidy s0 := h.walkSeen
  split
  · trivial
  · trivial
  · trivial
  · trivial
  extract_lets _ s1
  have h2 : tidy s1 := h1.trail.ite h1
  split
  · trivial
  split
  · trivial
  next u e =>
  have h3 := h2.writePart.ok e
  split
  · exact h3
  split
  · trivial
  next u1 e1 => exact h3.writePart.ok e1

theorem writeElems {c x fuel prior rest} (h : tidy s) : tidy (s.writeElems c x fuel prior rest) := by
  induction fuel generalizing s prior rest with
  | zero => exact h.putCopy
  | succ fuel ih =>
    unfold State.writeElems
    split
    · extract_lets s1
      have h1 : tidy s1 := by
        dsimp only [s1]
        split
        exacts [h.transferError.creditAll, h]
      exact h1.copyOver
    split
    next e => exact ih (h.writeElem.ok e)
    · exact h.putCopy
    · exact h.parkFault.putCopy
    · exact h.transferError.creditAll.copyOver

theorem copyLandGo {c} (h : tidy s) : tidy (State.copyLand.go c s) := by
  unfold State.copyLand.go
  split
  · split
    exacts [h.landMember, h.copyOver]
  split
  · exact h.landDense
  split
  exacts [h.landDense, h.writeElems, h.copyOver]

theorem copyLand {c} (h : tidy s) : tidy (s.copyLand c) := by
  unfold State.copyLand
  split
  exacts [h.deliveryDropped.copyOver.ite h.copyLandGo, h.copyLandGo]

theorem execCopyLanding {core ch} (h : tidy s) : Outcome.tidy (Machine.execCopyLanding core ch s) := by
  unfold Machine.execCopyLanding
  show tidy _
  split
  exacts [h, h.ite (.ite (h.ite h.cleanCore.copyRead) (h.copyRead.ite h.copyLand))]

/-! ### The matrix engine -/

theorem modPitch {cluster n f} (h : tidy s) : tidy (s.modPitch cluster n f) := h.same

theorem pitchError {cluster n e} (h : tidy s) : tidy (s.pitchError cluster n e) := by
  unfold State.pitchError
  split
  exacts [h, h.logError.ite h.modPitch]

theorem freePitch {p} (h : tidy s) : tidy (s.freePitch p) := by
  unfold State.freePitch
  extract_lets s1
  have h1 : tidy s1 := by
    dsimp only [s1]
    split
    exacts [h.logError, h]
  exact h1.same

theorem clearRect {cluster r} (h : tidy s) : tidy (s.clearRect cluster r) := by
  have hs := h.1
  unfold canonical at hs
  simp only [Bool.and_eq_true] at hs
  refine ⟨?_, h.2⟩
  unfold canonical State.clearRect
  simp only [Bool.and_eq_true]
  exact ⟨hs.1, filter_wf _ _ hs.2⟩

theorem acquire_ {g req} (h : tidy s) : tidy (s.acquire_ g req).2 := by
  unfold State.acquire_
  extract_lets
  split
  · exact h
  split
  · exact h
  split
  exacts [h, h.clearRect.same]

theorem forEach {f c} (h : tidy s) (hf : ∀ s t, tidy s → (f c s t).tidy) : (Machine.forEach f c s).tidy :=
  h.eachThread hf fun _ _ h => h

theorem passOn {x} (h : tidy s) : (Machine.passOn x s).tidy := h.forEach (fun _ _ h1 => h1)

theorem bodyMacq {o x} (h : tidy s) : (Machine.bodyMacq o x s).tidy := by
  unfold Machine.bodyMacq
  extract_lets _ _ _ s0
  have h1 : tidy s0 := h.ite h.trail
  split
  · trivial
  refine h1.forEach fun s1 t h2 => ?_
  split
  · exact h2
  split
  next u e => exact (h2.acquire_.snd e).modThread

theorem withPitch {own c t} (h : tidy s) (ho : ∀ g p, (own c s t g p).tidy) : (Machine.withPitch own c s t).tidy := by
  unfold Machine.withPitch
  split
  · exact h
  split
  · exact h
  split
  exacts [h.modPitch, ho _ _]

theorem bodyMrel {x x1} (h : tidy s) : (Machine.bodyMrel x x1 s).tidy := by
  unfold Machine.bodyMrel
  extract_lets act
  split
  · exact h.passOn
  split
  · exact h.passOn
  split
  · exact h.modPitch.ctxTrapAt
  split
  exacts [h.modPitch.stallPack, h.freePitch.passOn]

theorem putAccOp {g p kind row count half core addr credit} (h : tidy s) : tidy (s.putAccOp g p kind row count half core addr credit) := by
  unfold State.putAccOp
  split
  next u e => exact (h.nextOrder.snd e).same

theorem bodyMzero {o x} (h : tidy s) : (Machine.bodyMzero o x s).tidy := by
  unfold Machine.bodyMzero
  refine h.eachThread (fun s1 t h1 => ?_) fun _ _ h => h
  refine h1.withPitch fun g p => ?_
  extract_lets
  split
  exacts [h1, h1.putAccOp]

theorem bodyMdrn {o x} (h : tidy s) : (Machine.bodyMdrn o x s).tidy := by
  unfold Machine.bodyMdrn
  refine h.eachThread (fun s1 t h1 => ?_) fun _ _ h => h
  refine h1.withPitch fun g p => ?_
  extract_lets
  split
  · exact h1
  split
  · exact h1
  split
  exacts [h1, h1.putAccOp]

theorem bodyMlda {o x} (h : tidy s) : (Machine.bodyMlda o x s).tidy := by
  unfold Machine.bodyMlda
  refine h.eachThread (fun s1 t h1 => ?_) fun _ _ h => h
  refine h1.withPitch fun g p => ?_
  extract_lets
  split
  · exact h1
  split
  exacts [h1, h1.putAccOp]

theorem dropAccOp {o} (h : tidy s) : tidy (s.dropAccOp o) := h.same

theorem runAccOp {o} (h : tidy s) : tidy (s.runAccOp o) := by
  unfold State.runAccOp
  extract_lets _ _ s1 _ s11 _ _ _ s2 _ s3
  have h1 : tidy s1 := h.dropAccOp
  have h2 : tidy s11 := h1.trail
  have h3 : tidy s2 := h2.watch
  have h4 : tidy s3 := by
    dsimp only [s3]
    exact h3.pitchError.ite (h3.foldl (fun _ _ h4 => h4.accPut))
  split
  exacts [h2.clearRect, h2.scratchStore.watch.creditAll, h4.creditAll]

theorem accEvent {cluster kind} (h : tidy s) : tidy (s.accEvent cluster kind) := by
  unfold State.accEvent
  split
  exacts [h.runAccOp.ite h, h]

theorem recordOperand {t g off size fmt} (h : tidy s) : (Machine.recordOperand s t g off size fmt).tidy := by
  unfold Machine.recordOperand
  extract_lets asid at_ _ _ a c words
  clear_value c words
  split
  · trivial
  split
  · trivial
  split
  · trivial
  split
  · trivial
  · trivial
  split
  · trivial
  split
  next b s1 e =>
  have h1 : tidy s1 := h.watch.walkSeen.homeRead.snd e
  split
  · trivial
  split
  · trivial
  split
  · trivial
  split
  · trivial
  split
  next fired s2 e2 => exact h1.watch.snd e2

theorem tileOperand {g handle from_ size fmt} (h : tidy s) : (Machine.tileOperand s g handle from_ size fmt).tidy := by
  unfold Machine.tileOperand
  split
  exacts [trivial, h]

theorem leadQuarter {c t g p o} (h : tidy s) : (Machine.leadQuarter c s t g p o).tidy := by
  unfold Machine.leadQuarter
  extract_lets x ga gb row a
  have ha : a.tidy := by
    dsimp only [a]
    split
    exacts [h.recordOperand, h.tileOperand]
  clear_value a
  iterate 2
    split
    · trivial
  split
  · trivial
  · trivial
  next a1 key s1 fired =>
  have h1 : tidy s1 := ha
  extract_lets b
  have hb : b.tidy := by
    dsimp only [b]
    split
    exacts [h1.recordOperand, h1.tileOperand]
  clear_value b
  split
  · trivial
  · trivial
  · exact hb

theorem dropUnit {u} (h : tidy s) : tidy (s.dropUnit u) := h.same

theorem modUnit {u f} (h : tidy s) : tidy (s.modUnit u f) := h.same

theorem mmaThread {o c n} {acc : MmaAcc} (h : acc.tidy) : (Machine.mmaThread o c acc n).tidy := by
  unfold Machine.mmaThread
  split
  · exact h
  next t _ =>
  have hp := withPitch (own := fun _ s _ _ _ => .ok s) (c := c) (t := t) h fun _ _ => h
  split
  next e => exact ctxTrapAt (hp.trap e)
  next e => exact hp.leave e
  · exact h
  next s1 _ _ e =>
  have h1 := hp.ok e
  split
  · exact h1
  split
  · split
    next e => exact (h1.leadQuarter.ok e).foldl fun _ _ h => h.owe
    · exact h1.ctxTrapAt
    · exact h1
  · exact h1

theorem bodyMma {o c} (h : tidy s) : (Machine.bodyMma o c s).tidy := by
  unfold Machine.bodyMma
  extract_lets retire act lead pend r s1
  split
  · split
    exacts [h.dropUnit.passOn, trivial]
  have h1 : tidy s1 := List.foldlRecOn (motive := MmaAcc.tidy) act (Machine.mmaThread o c) (b := { s := s }) h fun _ ha _ _ => mmaThread ha
  iterate 3
    split
    · trivial
  split
  · split
    · exact h1.passOn
    split
    · exact h1.passOn
    · exact tidy.stallPack h1.nextOrder.same
  · exact h1.passOn
  · exact h1

theorem fetchUnit {u qs} (h : tidy s) : Unfetched.tidy (s.fetchUnit u qs) := by
  unfold State.fetchUnit
  split
  · exact h.parkFault.modUnit
  · refine List.foldlRecOn (motive := Unfetched.tidy) qs _ trivial fun a ha q _ => ?_
    split
    · exact ha
    split
    exacts [h.parkFault.modUnit, trivial]

theorem creditQuarter {a b} (h : tidy s) : tidy (s.creditQuarter a b) := h.creditAll.creditAll

theorem watchOperand {cluster o} (h : tidy s) : tidy (s.watchOperand cluster o) := by
  unfold State.watchOperand
  split
  · exact h
  split
  · exact h.watch
  refine h.foldl fun s1 x h1 => ?_
  split
  exact h1.engineSeen

theorem takeQuarters {u qs} (h : tidy s) : tidy (s.takeQuarters u qs).1 := by
  unfold State.takeQuarters
  extract_lets rows now s1 s2 s3
  have h1 : tidy s1 := h.modUnit
  have h2 : tidy s2 := h1.ite h1.watchOperand
  have h3 : tidy s3 := h2.foldl fun _ _ h => h.watchOperand
  refine foldFst h3 fun a q ha => ?_
  split
  exacts [ha.pitchError.creditQuarter, ha]

theorem fillSlot {u} (h : tidy s) : tidy (s.fillSlot u) := by
  unfold State.fillSlot
  extract_lets
  split
  · exact h
  split
  exacts [h.same, h]

theorem grantPass {u} (h : tidy s) : Answer.tidy (s.grantPass u) := by
  unfold State.grantPass
  extract_lets qs
  split
  · trivial
  split
  next e => exact h.fetchUnit.error e
  split
  next s1 pq e =>
  have h1 := h.fillSlot.takeQuarters.fst e
  extract_lets last others
  split
  next s2 pq2 _ e =>
  have h2 : tidy s2 := by
    refine tidy.fst (foldFst h1 fun a x ha => ?_) e
    obtain ⟨s, pq, stop⟩ := a
    dsimp only at ha ⊢
    split
    · exact ha
    split
    · exact ha
    split
    next e => exact ha.fetchUnit.error e
    · exact ha.takeQuarters
  exact h2.trail.ite h2.trail.same

theorem execPassGrant {cluster} (h : tidy s) : Outcome.tidy (Machine.execPassGrant cluster s) := by
  unfold Machine.execPassGrant
  show tidy _
  extract_lets
  split
  · exact h
  · exact h.ite (h.grantPass.getD h)

theorem writeQuarter {p q} (h : tidy s) : tidy (s.writeQuarter p q) := h.foldl (fun _ _ h1 => h1.foldl (fun _ _ h2 => h2.accPut))

theorem execPassComplete {cluster} (h : tidy s) : Outcome.tidy (Machine.execPassComplete cluster s) := by
  unfold Machine.execPassComplete
  show tidy _
  split
  exacts [h, h.same.foldl (fun _ _ h1 => h1.writeQuarter.creditQuarter.modPitch.ite h1.writeQuarter.creditQuarter)]

theorem popRow {p slot wti x} (h : tidy s) (e : s.popRow p slot wti = some x) : tidy x.2.2 := by
  unfold State.popRow at e
  split at e
  · cases e
  · cases e
    exact h.modPitch.trail

theorem bodyApop {o c} (h : tidy s) : (Machine.bodyApop o c s).tidy := by
  unfold Machine.bodyApop
  extract_lets act pass
  split
  · exact h.passOn
  · exact h.passOn
  split
  · exact h.forEach fun _ _ h => h
  split
  · extract_lets s1
    have h1 : tidy s1 := h.modPitch.ctxTrapAt
    split
    · split
      exacts [h1.passOn, h1]
    · exact h1
  extract_lets
  split
  · trivial
  split
  · exact h.nextOrder
  split
  · trivial
  next e => exact (h.popRow e).forEach fun _ _ h => h.modThread

theorem wakeApop {n} (h : tidy s) : tidy (s.wakeApop n) := by
  unfold State.wakeApop
  extract_lets
  split
  · split
    · exact h
    split
    · exact h
    extract_lets
    split
    · exact h
    split
    · exact h
    next e => exact (h.popRow e).foldl fun _ _ h => (h.ite h.modThread).wake
  · exact h

theorem execRowQueueTimeout {cluster} (h : tidy s) : Outcome.tidy (Machine.execRowQueueTimeout cluster s) := by
  unfold Machine.execRowQueueTimeout
  show tidy _
  split
  · exact h
  extract_lets s1
  have h1 : tidy s1 := h.dropUnit
  refine h1.foldl fun s2 x h2 => ?_
  split
  · exact h2
  split
  · exact h2
  split
  exact h2.trapAt

theorem execPitchRelease {cluster pitch} (h : tidy s) : Outcome.tidy (Machine.execPitchRelease cluster pitch s) := by
  unfold Machine.execPitchRelease
  show tidy _
  split
  · exact h
  split
  exacts [h.ite (h.modPitch.ite h.freePitch), h.freePitch]

theorem writeFreeze {cluster on} (h : tidy s) : tidy (s.writeFreeze cluster on) := h.setDreg.same.ite h.setDreg

/-! ### Grammar matrices -/

theorem parkHeader {c t level va} (h : tidy s) : tidy (s.parkHeader c t level va) := by
  unfold State.parkHeader
  split
  next u e =>
  have h1 := h.parkFault.snd e
  split
  next u1 e1 => exact (h1.nextOrder.snd e1).same

theorem readHeader {t va} (h : tidy s) : (s.readHeader t va).tidy := by
  unfold State.readHeader
  split
  · trivial
  · trivial
  extract_lets seen s1
  have h1 : tidy s1 := h.walkSeen
  split
  · split
    exacts [h1.watch, trivial, trivial]
  split
  · trivial
  split
  next b s2 e2 => exact (h1.homeRead.snd e2).watch

theorem gcfgThread {o x x1} (h : tidy s) : (Machine.gcfgThread o x s x1).tidy := by
  unfold Machine.gcfgThread
  refine h.withPitch fun g p => ?_
  extract_lets
  split
  · exact h
  split
  · exact h
  split
  · trivial
  · exact h
  next u _ e =>
  have h1 := h.readHeader.ok e
  split
  exacts [h1, h1.modPitch]

theorem bodyGcfg {o c} (h : tidy s) : (Machine.bodyGcfg o c s).tidy := by
  unfold Machine.bodyGcfg
  extract_lets
  split
  · trivial
  split
  next s1 outs e =>
  have h1 : tidy s1 := (h.ctxParts (fun _ _ h => h.gcfgThread) fun _ _ h => h).fst e
  split
  · exact h1
  · refine tidy.stallPack (h.foldl fun s x h => ?_)
    split
    exacts [h.parkHeader, h]

theorem bodyGeval {o x} (h : tidy s) : (Machine.bodyGeval o x s).tidy := by
  unfold Machine.bodyGeval
  refine h.eachThread (fun s1 t h1 => ?_) fun _ _ h => h
  refine h1.withPitch fun g p => ?_
  extract_lets
  split
  · exact h1
  extract_lets
  split
  · exact h1
  split
  next u e => exact (h1.nextOrder.snd e).same

theorem writeRow {e base n v} (h : tidy s) : tidy (s.writeRow e base n v) := by
  unfold State.writeRow
  extract_lets
  refine h.foldl fun s1 x h1 => ?_
  split
  exact h1.accPut

theorem evalItem {e base it} (h : tidy s) : (s.evalItem e base it).tidy := by
  unfold State.evalItem
  extract_lets
  split
  · split
    exacts [trivial, h]
  · split
    · trivial
    split
    · trivial
    split
    split
    exacts [trivial, h]
  · split
    · trivial
    split
    · split
      exacts [trivial, h.writeRow]
    split
    exacts [trivial, h]
  split
  exacts [trivial, trivial]

theorem modEval {e} (h : tidy s) : tidy (s.modEval e) := h.same

theorem evalFault {e cause addr} (h : tidy s) : tidy (s.evalFault e cause addr) := h.pitchError.modEval

theorem watchItem {e} (h : tidy s) : tidy (s.watchItem e) := h.ite h.engineSeen

theorem evalRule {base fuel e} (h : tidy s) : tidy (s.evalRule base fuel e) := by
  induction fuel generalizing s e with
  | zero => exact h.modEval
  | succ fuel ih =>
    unfold State.evalRule
    extract_lets e1
    split
    · exact h.parkFault.modEval
    · exact h.evalFault
    split
    · exact h.watchItem.evalFault
    · exact h.watchItem.modEval
    next eq =>
    have h1 := h.watchItem.evalItem.next eq
    exact .ite (ih h1) h1.modEval

theorem execGrammarEvaluation {cluster} (h : tidy s) : Outcome.tidy (Machine.execGrammarEvaluation cluster s) := by
  unfold Machine.execGrammarEvaluation
  show tidy _
  split
  · exact h
  · exact h.ite (h.evalFault.ite (h.ite (h.evalRule.ite (h.ite (h.trail.watch.modEval.evalFault.ite h.trail.watch.modEval.evalRule)))))

theorem execEvaluationEnd {cluster} (h : tidy s) : Outcome.tidy (Machine.execEvaluationEnd cluster s) := by
  unfold Machine.execEvaluationEnd
  show tidy _
  split
  exacts [h, .creditAll (h.same.modPitch.ite h.same)]

theorem execEvaluationRowPush {cluster pitch} (h : tidy s) : Outcome.tidy (Machine.execEvaluationRowPush cluster pitch s) := by
  unfold Machine.execEvaluationRowPush
  show tidy _
  split
  · exact h
  split
  exacts [h, h.modPitch.ite h]

/-! ### The turn of a pipe -/

theorem cutPack {core pipe byStop} (h : tidy s) : tidy (s.cutPack core pipe byStop) := by
  unfold State.cutPack
  split
  · exact h
  extract_lets s1 _ s2
  have h1 : tidy s1 := h.dropPack
  have h2 : tidy s2 := h1.same
  exact h2.modThreads.pastPack

theorem tagWord {p i} (h : tidy s) : tidy (s.tagWord p i) := by
  unfold State.tagWord
  extract_lets
  split
  · exact h
  split
  next u e =>
  have h1 := h.fresh.snd e
  extract_lets
  split
  · exact h1
  split
  exact h1.same

theorem fetchTurn {p} (h : tidy s) : (s.fetchTurn p).tidy := by
  unfold State.fetchTurn
  extract_lets
  split
  · exact h.triggerStop.cutPack
  · exact h.trapPack
  split
  · exact h.holdPack
  · exact h.trapPack
  next u e =>
  have h1 := h.fetch.ok e
  split
  exacts [h1.same.tagWord, h1.trapPack, h1.trapPack]

theorem issueTurn {core pipe} (h : tidy s) : (s.issueTurn core pipe).tidy := by
  unfold State.issueTurn
  split
  · exact h
  split
  · exact h
  split
  exacts [h.stallPack, h.unhold.fetchTurn]

/-! ### The picker, spill and refill -/

theorem reenter {n} (h : tidy s) : tidy (s.reenter n) := by
  unfold State.reenter
  split
  · exact h
  extract_lets
  split
  split
  · exact h.holdFetch
  · exact h.trapAt
  next u e =>
  have h1 := h.fetch.ok e
  split
  · exact h1.trapAt
  split
  · exact h1.modThread.enter
  split
  · exact h1.trapAt.ite h1.modThread.enter
  split
  · exact h1.trapAt
  split
  exacts [h1.holdFetch, h1.modThread]

theorem meet {core} (h : tidy s) : tidy (s.meet core) := h.foldl (fun _ _ h1 => h1.modThreads)

theorem enterThread {t} (h : tidy s) : tidy (s.enterThread t) := by
  unfold State.enterThread
  split
  exacts [h.reenter.ite h, h.enter.ite h]

theorem enterAll {core} (h : tidy s) : tidy (s.enterAll core) := .meet (h.foldl (fun _ _ h1 => h1.enterThread))

theorem traceIssue {p fresh} (h : tidy s) : tidy (s.traceIssue p fresh) := by
  unfold State.traceIssue
  extract_lets _ _ s1 _ s2
  have h1 : tidy s1 := h.countWords
  have h2 : tidy s2 := h1.same
  split
  · exact h
  split
  exacts [h2.debugRecord.ite h2, h2]

theorem putPick {x} (h : tidy s) : tidy (s.putPick x) := h.same

theorem logPick {p} (h : tidy s) : tidy (s.logPick p) := by
  unfold State.logPick
  refine h.ite ?_
  extract_lets q total
  split
  next b size _ _ _ =>
  extract_lets fresh
  have hf : tidy (fresh s) := h.trailRaw.putPick.ite h.trailClose
  clear_value fresh total
  split
  exacts [.ite (h.setMem (write_wf _ _ h.mem)).putPick hf, hf]

theorem runPack {p fresh} (h : tidy s) : tidy (s.runPack p fresh) := h.same.modThreads.traceIssue

theorem takePack {b p} (h : tidy s) : tidy (s.takePack b p) := h.runPack

theorem resumePack {p pipe} (h : tidy s) : tidy (s.resumePack p pipe) := h.same.runPack

theorem decidedBy {core pipe} (h : tidy s) : tidy (s.decidedBy core pipe) := h.same

theorem pickIf {core pipe ok} (h : tidy s) : tidy (s.pickIf core pipe ok) := by
  unfold State.pickIf
  split
  · exact h
  extract_lets s1
  have h1 : tidy s1 := h.enterAll
  split
  · split
    · split
      exacts [h1.takePack.putPick.replayMoved.decidedBy.ite h1, h1]
    split
    exacts [h1.resumePack.decidedBy.ite h1, h1]
  split
  · exact h1
  · exact h1.resumePack.decidedBy.ite h1
  split
  exacts [h1, h1.ite h1.takePack.logPick.decidedBy]

theorem execAgingPromotion {core slot crew ca} (h : tidy s) : Outcome.tidy (Machine.execAgingPromotion core slot crew ca s) := by
  unfold Machine.execAgingPromotion
  show tidy _
  split
  exacts [h.pickIf, h]

theorem execStarvedBucket {core slot crew ca} (h : tidy s) : Outcome.tidy (Machine.execStarvedBucket core slot crew ca s) := by
  unfold Machine.execStarvedBucket
  show tidy _
  split
  exacts [h.pickIf, h]

theorem execClassPreemption {core pipe} (h : tidy s) : Outcome.tidy (Machine.execClassPreemption core pipe s) := by
  unfold Machine.execClassPreemption
  show tidy _
  split
  · exact h
  extract_lets s1
  have h1 : tidy s1 := h.enterAll
  split
  exacts [h1.cutPack.ite h1, h1]

theorem execRegisterSpill {n regs} (h : tidy s) : Outcome.tidy (Machine.execRegisterSpill n regs s) := by
  unfold Machine.execRegisterSpill
  show tidy _
  split
  · exact h
  extract_lets _ s0 s1
  have h1 : tidy s0 := h.foldl (fun _ _ h1 => h1.spill)
  have h2 : tidy s1 := h1.ite h1.takeDue
  split
  · exact h
  split
  exact h2.same

theorem execRegisterRefill {n r} (h : tidy s) : Outcome.tidy (Machine.execRegisterRefill n r s) := by
  unfold Machine.execRegisterRefill
  show tidy _
  split
  · split
    · exact h
    extract_lets
    split
    · exact h.parkFault.modThread
    · exact h.trapAt
    split
    · exact h.trapAt
    split
    next u e =>
    have h1 := h.walkSeen.homeRead.snd e
    split
    next u1 e1 => exact (h1.watch.snd e1).modThread.allocRegs.foldl (fun _ _ h3 => h3.owe)
  · exact h

/-! ### The tick -/

theorem tick (h : tidy s) : tidy s.tick := h.ite h.barRetry.same

/-! ### Cross-lane words -/

theorem crossBody {f x} (h : tidy s) : (Machine.crossBody f x s).tidy := by
  unfold Machine.crossBody
  split
  exacts [trivial, h.eachThread (fun _ _ h1 => h1.vecWrite) (fun _ _ h1 => h1.vecOff)]

/-! ### Hardware queues -/

theorem writeQueue {core a q} (h : tidy s) : tidy (s.writeQueue core a q) := h.scratchStore.watch

theorem appendArray {r b} (h : tidy s) : tidy (s.appendArray r b) := h.scratchStore.watch.writeQueue

theorem appendSpill {r b} (h : tidy s) : (s.appendSpill r b).tidy := by
  unfold State.appendSpill
  extract_lets
  split
  exacts [trivial, trivial, .writeQueue (h.foldl (fun _ _ h1 => h1.memWrite.watch))]

theorem refillOne {r} (h : tidy s) : (s.refillOne r).tidy := by
  unfold State.refillOne
  extract_lets
  split
  exacts [trivial, trivial, .writeQueue (.watch (.scratchStore (h.foldl (fun _ _ h1 => h1.watch))))]

theorem spillPark {r level va} (h : tidy s) : tidy (s.spillPark r level va) := h.parkFault

theorem refill {r fuel} (h : tidy s) : tidy (s.refill r fuel) := by
  induction fuel generalizing s with
  | zero => exact h
  | succ fuel ih =>
    unfold State.refill
    extract_lets q
    refine h.ite ?_
    split
    next e => exact ih (h.refillOne.ok e)
    · exact h.spillPark
    · exact h

theorem popTo {r dst} (h : tidy s) : tidy (s.popTo r dst) := h.watch.scratchStore.watch.writeQueue.refill

theorem countBlocked {r} (h : tidy s) : tidy (s.countBlocked r) := h.ite h.writeQueue

theorem popPred {n p v} (h : tidy s) : tidy (s.popPred n p v) := by
  unfold State.popPred
  split
  exacts [h.modThread, h]

theorem popperDue {r n d p} (h : tidy s) : Answer.tidy (s.popperDue r n d p) := by
  unfold State.popperDue
  extract_lets
  split
  · split
    exacts [h.wakeTrap, h.popTo.popPred.wake]
  split
  · split
    exacts [h.wakeTrap, trivial]
  split
  exacts [h.popPred.wake, trivial]

theorem pusherDue {r l} (h : tidy s) : tidy (s.pusherDue r l).1 := by
  unfold State.pusherDue
  extract_lets q full
  split
  · exact h
  split
  · exact h.wakeTrap
  split
  · dsimp only
    exact h.appendArray.wake
  split
  · split
    next s2 e =>
      dsimp only
      exact (h.appendSpill.ok e).wake
    · exact h.spillPark
    · exact h.wakeTrap
  split
  · dsimp only
    exact (h.foldl fun _ _ h => h.wakeTrap).writeQueue
  · exact h

theorem queueDue {r} (h : tidy s) : tidy (s.queueDue r).1 := by
  unfold State.queueDue
  split
  · exact h
  extract_lets s1
  have h1 : tidy s1 := h.refill
  split
  next e =>
    obtain ⟨x, _, e⟩ := Option.bind_eq_some_iff.mp e
    exact h1.popperDue.some e
  · exact h1.pusherDue

theorem serveQueue {r fuel} (h : tidy s) : tidy (s.serveQueue r fuel) := by
  induction fuel generalizing s with
  | zero => exact h.countBlocked
  | succ fuel ih =>
    unfold State.serveQueue
    refine h.deferTo.countBlocked.ite ?_
    split
    next e => exact ih (h.queueDue.fst e)
    next e => exact (h.queueDue.fst e).countBlocked

theorem serveCore {core} (h : tidy s) : tidy (s.serveCore core) := by
  unfold State.serveCore
  refine h.foldl fun s1 x h1 => ?_
  split
  exacts [h1.serveQueue, h1]

theorem queueWord {i body} (h : tidy s) (hb : ∀ c s, tidy s → (body c s).tidy) : tidy (Machine.queueWord i body s) := by
  unfold Machine.queueWord
  split
  exacts [(h.runWord hb).serveCore, h.runWord hb]

theorem queueOp {t r} (h : tidy s) : tidy (s.queueOp t r) := h.release.closeRegion.trail

theorem killEntry {o n q} (h : tidy s) : tidy (s.killEntry o n q) := .ite (h.foldl (fun _ _ h1 => h1.spill)) h

theorem queueRecord {core a op done other n} (h : tidy s) : tidy (s.queueRecord core a op done other n) := by
  unfold State.queueRecord
  extract_lets
  split
  exacts [h.debugRecord.ite h, h]

theorem recordedBody {o op body c} (h : tidy s) (hb : ∀ c s, tidy s → (body c s).tidy) :
    (Machine.recordedBody o op body c s).tidy := by
  unfold Machine.recordedBody
  have hg : (Machine.gated (queueEntry o) body c s).tidy := tidy.gated (hb _ _ h)
  split
  next s1 outs _ e _ => exact (hg.done e).foldl fun _ _ h => h.queueRecord
  · exact hg

theorem bodyQinit {o x} (h : tidy s) : (Machine.bodyQinit o x s).tidy := by
  unfold Machine.bodyQinit
  refine h.asBody fun s1 t h1 => ?_
  extract_lets
  split
  · exact h1
  split
  · exact h1
  split
  · exact h1
  split
  exacts [h1, h1.putMark.writeQueue]

theorem pushBody {o consumer x} (h : tidy s) : (Machine.pushBody o consumer x s).tidy := by
  unfold Machine.pushBody
  refine h.recordedBody fun c s1 h1 => ?_
  refine h1.asBody fun s2 t h2 => ?_
  split
  · exact h2
  split
  · exact h2
  extract_lets _ s11
  have h3 : tidy s11 := h2.queueOp
  split
  · exact h3.appendArray.killEntry
  split
  · split
    next u e => exact (h3.appendSpill.ok e).killEntry
    · trivial
    · exact h2
  split
  next u e => exact (h3.nextOrder.snd e).killEntry

theorem bodyQpushClose {o x} (h : tidy s) : (Machine.bodyQpushClose o x s).tidy := by
  unfold Machine.bodyQpushClose
  refine tidy.gated ?_
  refine h.asBody fun s1 t h1 => ?_
  split
  · exact h1
  extract_lets
  split
  exacts [h1, h1.queueOp.writeQueue]

theorem popBody {o pred x} (h : tidy s) : (Machine.popBody o pred x s).tidy := by
  unfold Machine.popBody
  refine h.recordedBody fun c s1 h1 => ?_
  refine h1.asBody fun s2 t h2 => ?_
  extract_lets
  split
  · exact h2
  extract_lets
  split
  · exact h2
  split
  · exact h2
  extract_lets _ _ s11
  have h3 : tidy s11 := h2.queueOp
  clear_value s11
  split
  · exact h2
  split
  · exact h2
  split
  · exact h2
  split
  · exact h2
  split
  · split
    exacts [h2, h3.popTo.popPred.acquire]
  split
  · exact h3.popPred
  split
  next u e => exact h3.nextOrder.snd e

theorem ampDrop {t r} (h : tidy s) : tidy (s.ampDrop t r) := by
  unfold State.ampDrop
  extract_lets _ s1
  have h1 : tidy s1 := by
    dsimp only [s1]
    split
    exacts [h.writeStatus, h.logError]
  exact h1.eventRecord

theorem bodyQpushAmp {o c} (h : tidy s) : (Machine.bodyQpushAmp o c s).tidy := by
  unfold Machine.bodyQpushAmp
  refine h.recordedBody fun c s h => ?_
  extract_lets act
  split
  · trivial
  refine settle (foldFst h fun acc n ha => ?_)
  split
  · exact ha
  split
  · exact ha
  extract_lets s1 fail keep
  have hfail : ∀ info, tidy (fail info).1 := fun _ => ha.ctxTake ha
  have hkeep : ∀ s lost, tidy s → tidy (keep s lost).1 := fun _ _ h => tidy.ctxTake h h
  clear_value fail keep
  split
  · exact hfail _
  split
  · exact hfail _
  extract_lets q s0
  have h0 : tidy s0 := ha.queueOp.killEntry
  clear_value s0
  split
  · exact hkeep _ _ h0.ampDrop
  split
  · exact hkeep _ _ h0.ampDrop
  split
  · exact hkeep _ _ h0.appendArray
  split
  · split
    next s2 e => exact hkeep _ _ (h0.appendSpill.ok e)
    · exact ha.ctxTake trivial
    · exact hfail _
  · exact hkeep _ _ h0.ampDrop

/-! ### Tasks -/

theorem spawnTask {p entry lid q group w cls r chain} (h : tidy s) : tidy (s.spawnTask p entry lid q group w cls r chain) := by
  unfold State.spawnTask
  split
  next u e => exact (h.nextOrder.snd e).same

theorem tspawnGo {c o l} (h : tidy s) : tidy (Machine.tspawnGo c o s l).1 := by
  induction l generalizing s with
  | nil => exact h
  | cons n rest ih =>
    unfold Machine.tspawnGo
    split
    · exact ih h
    split
    · exact h
    split
    · exact ih h.ctxTrapAt
    extract_lets p
    split
    · exact h
    · exact ih h.release.closeRegion.watch.spawnTask.kill

theorem bodyTspawn {o x} (h : tidy s) : (Machine.bodyTspawn o x s).tidy := by
  unfold Machine.bodyTspawn
  extract_lets
  split
  next u _ _ e =>
  have h1 := h.tspawnGo.fst e
  split
  exacts [h1, h1.modPack]

theorem execTspawnTimeout {core pipe} (h : tidy s) : Outcome.tidy (Machine.execTspawnTimeout core pipe s) := by
  unfold Machine.execTspawnTimeout
  show tidy _
  split
  · exact h
  extract_lets
  split
  · split
    · exact h
    extract_lets _ _ s1
    have h1 : tidy s1 := h.foldl (fun _ _ h1 => h1.ctxTrapAt)
    split
    exacts [h1, h1.retire]
  · exact h

theorem execTaskDispatch {cluster entry coreRole} (h : tidy s) : Outcome.tidy (Machine.execTaskDispatch cluster entry coreRole s) := by
  unfold Machine.execTaskDispatch
  show tidy _
  extract_lets
  split
  · exact h
  split
  · exact h
  split
  · exact h
  split
  · exact h
  extract_lets s0 _ _ s1
  have h1 : tidy s0 := h.trail.ite h
  clear_value s0
  have h2 : tidy s1 := h1.same
  clear_value s1
  split
  · exact h1.taskDone
  split
  · exact h
  split
  exacts [h, h2.evict.startGang]

/-! ### Graphics words -/

theorem binStep {t k b i id} (h : tidy s) : tidy (s.binStep t k b i id).1 := by
  unfold State.binStep
  extract_lets va pa core s1 seen
  have h1 : tidy s1 := h.walkSeen.trail
  clear_value s1
  split
  next v s2 e =>
  have h2 : tidy s2 := h1.homeRead.snd e
  extract_lets count drop pe
  have hseen : ∀ s a n rd, tidy s → tidy (seen s a n rd).2 := fun _ _ _ _ h => h.watch
  clear_value seen
  split
  · exact hseen _ _ _ _ h2.homeWrite
  split
  · exact hseen _ _ _ _ (hseen _ _ _ _ h2.homeWrite).homeWrite
  · exact (hseen _ _ _ _ h2.homeWrite).setDreg

theorem binaBody {o clear c} (h : tidy s) : (Machine.binaBody o clear c s).tidy := by
  unfold Machine.binaBody
  refine tidy.gated (h.eachThread (fun s t h => ?_) fun _ _ h => h)
  extract_lets k x first last
  split
  · exact h
  split
  · exact h
  extract_lets va
  split
  · exact h
  · exact h
  · trivial
  split
  · exact h
  · split
    next s1 fired e =>
    refine tidy.fst (foldFst h fun a i ha => ?_) e
    exact ha.binStep

theorem setOcclusion {p i v} (h : tidy s) : tidy (s.setOcclusion p i v) := h.setDreg

theorem occrBody {o clear x} (h : tidy s) : (Machine.occrBody o clear x s).tidy :=
  tidy.gated (h.eachThread (fun _ _ h1 => .modThread (h1.trail.setOcclusion.ite h1.trail)) (fun _ _ h1 => h1))

theorem bodyRast {o c} (h : tidy s) : (Machine.bodyRast o c s).tidy := by
  unfold Machine.bodyRast
  extract_lets act mine drop s1
  split
  · split
    · trivial
    · refine tidy.forEach (s := drop s) h.same fun s t h => ?_
      split
      exacts [h.modThread, h]
  split
  · trivial
  have h1 : tidy s1 := by
    refine h.foldl fun s n h => ?_
    split
    · split
      · exact h.ctxTrapAt
      extract_lets seen s2
      have hseen : ∀ s a len, tidy s → tidy (seen s a len) := by
        intro s a len h
        unfold seen
        split
        next fired s1 e => exact (h.watch.snd e).foldl fun _ _ h => h.owe
      clear_value seen
      have h2 : tidy s2 := hseen _ _ _ (hseen _ _ _ h.nextOrder)
      exact h2.same
    · exact h
  split
  · exact h1
  split
  exacts [h1.stallPack, h1.passOn]

theorem rastSample {r p k z passed} (h : tidy s) : tidy (s.rastSample r p k z passed).1 := by
  unfold State.rastSample
  split
  split
  extract_lets _ _ _ _ _ s1 s2 s3 s4 s21
  have h1 : tidy s1 := h.setOcclusion.ite h
  have h2 : tidy s2 := h1.scratchStore
  have h3 : tidy s3 := h2.scratchStore
  have h4 : tidy s4 := h3.watch
  have h5 : tidy s21 := h1.ite h4.watch
  split
  exacts [h, h5]

theorem rastRun {r} (h : tidy s) : tidy (s.rastRun r).1 := by
  unfold State.rastRun
  refine foldFst h fun a p ha => ?_
  split
  · exact ha
  refine foldFst ha fun a k ha => ?_
  split
  exacts [ha.rastSample, ha]

theorem execRastOperation {cluster} (h : tidy s) : Outcome.tidy (Machine.execRastOperation cluster s) := by
  unfold Machine.execRastOperation
  show tidy _
  extract_lets _ s1
  have h1 : tidy s1 := h.same
  split
  · exact h1
  extract_lets
  split
  · exact h1
  split
  next u _ e => exact (h1.trail.rastRun.fst e).same.creditAll

theorem privOrHome {core pa leaf n} (h : tidy s) : tidy (s.privOrHome core pa leaf n).2 := by
  unfold State.privOrHome
  split
  exacts [h.homeRead, h.privRead]

theorem sampRead {w va len} (h : tidy s) : (s.sampRead w va len).tidy := by
  unfold State.sampRead
  extract_lets
  split
  · trivial
  split
  · trivial
  · trivial
  extract_lets
  split
  · trivial
  split
  next u e =>
  have h1 := h.walkSeen.privOrHome.snd e
  split
  next u1 e1 => exact (h1.watch.snd e1).foldl (fun _ _ h3 => h3.owe)

theorem texel {w x l i j} (h : tidy s) : (s.texel w x l i j).tidy := by
  unfold State.texel
  extract_lets
  split
  next u e => exact h.sampRead.ok e
  · trivial
  · trivial

theorem sampLevel {w x l u v} (h : tidy s) : (s.sampLevel w x l u v).tidy := by
  unfold State.sampLevel
  extract_lets r
  have hr : r.tidy := by
    refine List.foldlRecOn (motive := SampRes.tidy) _ _ h fun a ha p _ => ?_
    split
    split
    split
    next e => exact (tidy.texel ha).ok e
    · trivial
    · trivial
    · exact ha
  clear_value r
  split
  · exact hr
  · trivial
  · trivial

theorem sample {who va ops explicit} (h : tidy s) : (s.sample who va ops explicit).tidy := by
  unfold State.sample
  split
  · trivial
  split
  · trivial
  · trivial
  next b s1 e =>
  have h1 : tidy s1 := h.sampRead.ok e
  split
  · trivial
  extract_lets w nans lam out l0 f
  have hout : ∀ r : SampRes (List Nat), r.tidy → (out r).tidy := by
    intro r hr
    cases r <;> exact hr
  clear_value out
  split
  · exact h1
  split
  · split
    · exact hout _ h1.sampLevel
    · exact hout _ h1.sampLevel
    split
    · trivial
    · trivial
    next r0 s2 e =>
    have h2 : tidy s2 := h1.sampLevel.ok e
    split
    · trivial
    · trivial
    next r1 s3 e => exact h2.sampLevel.ok e
  · exact h1.fresh

theorem bodySamp {o x} (h : tidy s) : (Machine.bodySamp o x s).tidy := by
  unfold Machine.bodySamp
  refine h.eachThread (fun s1 t h1 => ?_) fun _ _ h => h
  split
  extract_lets put
  have hf : ∀ fid s, tidy s → tidy (put fid s) := by
    intro fid s h'
    dsimp only [put]
    exact h'.nextOrder.same
  split
  · exact h1
  · split
    next u e => exact hf _ _ (h1.parkFault.snd e)
  · exact hf _ _ h1

/-! ### Launches -/

theorem recordSeen {asid va n} (h : tidy s) : tidy (s.recordSeen asid va n) := by
  unfold State.recordSeen
  split
  · exact h
  refine h.foldl fun s1 x h1 => ?_
  extract_lets s11
  have h2 : tidy s11 := h1.walkSeen
  split
  exacts [h2.watch, h2]

theorem enrol {l} (h : tidy s) : tidy (s.enrol l).2 := h.same

theorem judgeSeen {asid va strip} (h : tidy s) : tidy (s.judgeSeen asid va strip) := h.foldl (fun _ _ h1 => h1.recordSeen)

theorem refuse {asid status cpl} (h : tidy s) : tidy (s.refuse asid status cpl) := h.ite h.completion

theorem writeLqt {v} (h : tidy s) : tidy (s.writeLqt v) := h.setDreg.ite h.setDreg

theorem launchArrives {l} (h : tidy s) : tidy (s.launchArrives l) := h.foldl (fun _ _ h1 => h1.trail)

theorem execLaunchAdmission (h : tidy s) : Outcome.tidy (Machine.execLaunchAdmission s) := by
  unfold Machine.execLaunchAdmission
  show tidy _
  extract_lets _ _ _ _ _ _ s1 s11
  have h1 : tidy s1 := h.setDreg.watch
  have h2 : tidy s11 := h1.judgeSeen
  split
  · exact h
  split
  · exact h2.refuse
  split
  · split
    next u e => exact (h2.enrol.snd e).launchArrives
  · exact h

theorem execGangStart {lid w} (h : tidy s) : Outcome.tidy (Machine.execGangStart lid w s) := by
  unfold Machine.execGangStart
  show tidy _
  split
  · exact h
  split
  · exact h
  split
  · exact h
  split
  · exact h
  extract_lets
  split
  exacts [h, h.modLaunch.startGang]

theorem dropHeld {g} (h : tidy s) : tidy (s.dropHeld g) := h.ite (h.foldl (fun _ _ h1 => h1.same.deliveryDropped.transferOver))

theorem vacate {g} (h : tidy s) : tidy (s.vacate g) := h.freeTiles.same

theorem execWorkgroupExited {core slot} (h : tidy s) : Outcome.tidy (Machine.execWorkgroupExited core slot s) := by
  unfold Machine.execWorkgroupExited
  show tidy _
  split
  · exact h
  split
  · exact h
  extract_lets _ _ s0 s1 task s2
  have h1 : tidy s0 := h.same
  clear_value s0
  have h2 : tidy s1 := h1.dropHeld
  clear_value s1
  have h3 : tidy s2 := h2.vacate
  clear_value s2
  split
  · exact h2
  clear_value task
  split
  exacts [h3.taskDone, h3.ite h3.modLaunch.launchSettle]

/-! ### The strip scheduler -/

theorem putSerialiser {x} (h : tidy s) : tidy (s.putSerialiser x) := h.same

theorem startRing {r n} (h : tidy s) : tidy (s.startRing r n) := h.setRingPtr.setRingPtr.setRingPtr.setRingPtr

theorem acceptPlan {i p l costs} (h : tidy s) : tidy (s.acceptPlan i p l costs) := by
  unfold State.acceptPlan
  split
  next u e =>
  have h1 := h.enrol.snd e
  extract_lets _ _ _ s2 _ _ s3 s4 s5
  have h2 : tidy s2 := h1.modLaunch
  have h3 : tidy s3 := h2.same
  have h4 : tidy s4 := h3.foldl (fun _ _ h4 => h4.startRing)
  have h5 : tidy s5 := h4.setDreg.setDreg.setDreg.setDreg.setDreg
  split
  · exact h5.same
  split
  exacts [h5.same.putSerialiser, h5]

theorem enable {i} (h : tidy s) : tidy (s.enable i).2 := by
  unfold State.enable
  extract_lets _ _ read s1
  have h1 : tidy s1 := h.recordSeen
  clear_value s1
  clear_value read
  split
  · exact h1
  extract_lets
  split
  extract_lets read s2
  have h2 : tidy s2 := h1.recordSeen.judgeSeen
  clear_value s2
  clear_value read
  split
  · extract_lets
    split
    · exact h2
    split
    · exact h2.refuse
    split
    exacts [h2.acceptPlan, h2]
  · exact h2

theorem writePlan {i v} (h : tidy s) : tidy (s.writePlan i v) := by
  unfold State.writePlan
  split
  · exact h
  split
  · exact h.ite h.modPlan.setDreg.launchSettle
  extract_lets s1
  have h1 : tidy s1 := h.setDreg
  split
  · exact h1
  split
  next u e =>
  have h2 := h1.enable.snd e
  exact h2.setDreg.setDreg.ite h2.setDreg

theorem admitStrip {x l n} (h : tidy s) : tidy (s.admitStrip x l n) := by
  unfold State.admitStrip
  extract_lets _ _ _ _ s1 _ s2 _ s3
  have h1 : tidy s1 := h.writeStatus
  have h2 : tidy s2 := h1.modPlan
  have h3 : tidy s3 := h2.setDreg
  refine h3.foldl fun s4 x1 h4 => ?_
  extract_lets
  split
  exacts [h4.spawnTask, h4]

theorem execStripAdmission {slot} (h : tidy s) : Outcome.tidy (Machine.execStripAdmission slot s) := by
  unfold Machine.execStripAdmission
  show tidy _
  split
  · exact h
  split
  exacts [h, h.ite h.admitStrip]

theorem writeAdj {v} (h : tidy s) : tidy (s.writeAdj v) := h.same

theorem writeStepv {v} (h : tidy s) : tidy (s.writeStepv v) := h.same.ite h.same

/-! ### System words and traps -/

theorem sreadThread {o x x1} (h : tidy s) : (Machine.sreadThread o x s x1).tidy := by
  unfold Machine.sreadThread
  extract_lets num v n latch
  split
  next w s1 e =>
  suffices h1 : tidy s1 from h1.modThread
  split at e
  exacts [h.trailInput.snd e, (show tidy (v, s).2 from h).snd e]

theorem bodySread {o x} (h : tidy s) : (Machine.bodySread o x s).tidy := tidy.gated (h.forEach (fun _ _ h1 => h1.sreadThread))

theorem bodySwrite {o x} (h : tidy s) : (Machine.bodySwrite o x s).tidy := by
  unfold Machine.bodySwrite
  refine h.forEach fun s1 t h1 => ?_
  extract_lets
  split
  · split
    exacts [h1.modThread, h1]
  split
  exacts [h1.modThread, h1]

theorem bodyRoleq {o x} (h : tidy s) : (Machine.bodyRoleq o x s).tidy := h.forEach (fun _ _ h1 => h1.modThread)

theorem bodyTrap {o x} (h : tidy s) : (Machine.bodyTrap o x s).tidy := h.forEach (fun _ _ h1 => h1)

theorem bodyBkpt {o x} (h : tidy s) : (Machine.bodyBkpt o x s).tidy := h.forEach (fun _ _ h1 => h1)

theorem tlbDrop {l} (h : tidy s) : tidy (s.tlbDrop l) := h.same

theorem tlbiBody {range x} (h : tidy s) : (Machine.tlbiBody range x s).tidy := by
  unfold Machine.tlbiBody
  split
  · split
    exacts [trivial, h.passOn]
  extract_lets _ _ s1
  have h1 : tidy s1 := h.tlbDrop
  split
  exacts [h1.passOn, h1.modPack.stallPack]

theorem bodyTlbiPage {o x} (h : tidy s) : (Machine.bodyTlbiPage o x s).tidy := h.tlbiBody

theorem bodyTlbiAsid {o x} (h : tidy s) : (Machine.bodyTlbiAsid o x s).tidy := h.tlbiBody

theorem bodyTlbiAll {x x1} (h : tidy s) : (Machine.bodyTlbiAll x x1 s).tidy := h.tlbiBody

theorem endTrapped {n} (h : tidy s) : tidy (s.endTrapped n) := h.modGroup.endThread

theorem writeTrapRecord {t g r k} (h : tidy s) : tidy (s.writeTrapRecord t g r k) := by
  unfold State.writeTrapRecord
  extract_lets
  split
  next u e => exact (h.deviceStore.ok e).modThread
  · exact h.logError.logError.endTrapped

theorem addThread {t} (h : tidy s) : tidy (s.addThread t) := h.setThreads

theorem startHandler {t g r k} (h : tidy s) : tidy (s.startHandler t g r k) := h.same.addThread

theorem recordTrap {n} (h : tidy s) : tidy (s.recordTrap n) := by
  unfold State.recordTrap
  split
  · split
    · split
      · exact h
      split
      exacts [h.writeTrapRecord, h]
    · exact h
  · exact h

theorem execHandlerContextStart {n} (h : tidy s) : Outcome.tidy (Machine.execHandlerContextStart n s) := by
  unfold Machine.execHandlerContextStart
  show tidy _
  extract_lets _ s1
  have h1 : tidy s1 := h.recordTrap
  split
  · exact h
  split
  · split
    · split
      exacts [h1.startHandler, h1]
    · exact h1
  · exact h1

theorem tretDo {t hd v pa va b} (h : tidy s) : tidy (s.tretDo t hd v pa va b) := by
  unfold State.tretDo
  extract_lets _ _ _ s1
  have h1 : tidy s1 := h.logBatches.dropThread
  split
  · exact h1.logError.endTrapped
  split
  exacts [h1.memWrite.watch.takeTrap, h1.returnTrap]

theorem tretTry {t} (h : tidy s) : (s.tretTry t).tidy := by
  unfold State.tretTry
  split
  · split
    · exact h.logBatches.dropThread
    extract_lets
    split
    · split
      next u e => exact h.parkFault.snd e
    · trivial
    split
    · trivial
    split
    next u e => exact (h.walkSeen.homeRead.snd e).watch.tretDo
  · exact h.logBatches.dropThread

theorem bodyTret {x x1} (h : tidy s) : (Machine.bodyTret x x1 s).tidy := by
  unfold Machine.bodyTret
  refine h.eachThread (fun s1 t h1 => ?_) fun _ _ h => h
  split
  · exact h1
  split
  next u e => exact h1.tretTry.over e
  next u e => exact h1.tretTry.park e
  · exact h1

theorem bodyTretEnd {x x1} (h : tidy s) : (Machine.bodyTretEnd x x1 s).tidy := by
  unfold Machine.bodyTretEnd
  refine h.eachThread (fun s1 t h1 => ?_) fun _ _ h => h
  split
  exacts [h1, h1.tretEnd]

theorem tretAgain {n} (h : tidy s) : tidy (s.tretAgain n) := by
  unfold State.tretAgain
  split
  · exact h
  split
  next u e => exact h.tretTry.over e
  next u e => exact (h.tretTry.park e).modThread
  · exact h.wakeTrap

theorem writeHold {core slot hold svc} (h : tidy s) : tidy (s.writeHold core slot hold svc) := by
  unfold State.writeHold
  split
  · exact h
  split
  exacts [h.ite h.setDreg, h.setDreg]

theorem restoreOver {core} (h : tidy s) : tidy (s.restoreOver core) := h.setDreg

theorem execServiceContextStart {core slot} (h : tidy s) : Outcome.tidy (Machine.execServiceContextStart core slot s) := by
  unfold Machine.execServiceContextStart
  show tidy _
  split
  · split
    · exact h
    extract_lets s0 s1
    have h2 : tidy s0 := h.setDreg.modGroup
    have h3 : tidy s1 := h2.setDreg.restoreOver.ite h2
    split
    next u e => exact (h3.deviceStore.ok e).addThread
    · exact h3.logError.logError
  · exact h

/-! ### The full context switch -/

theorem imageRead {n asid level va k} (h : tidy s) : (s.imageRead n asid level va k).tidy := by
  induction k generalizing s va with
  | zero => exact h
  | succ k ih =>
    unfold State.imageRead
    split
    · trivial
    · trivial
    split
    · trivial
    split
    next b s1 e1 =>
    split
    next w s2 e2 =>
    have h2 : tidy s2 := (h.walkSeen.homeRead.snd e1).watch.snd e2
    split
    next e => exact (ih h2).ok e
    · trivial
    · trivial

theorem writable {core asid level va step kind k} (_h : tidy s) : Written.tidy (s.writable core asid level va step kind k) := by
  induction k generalizing va with
  | zero => trivial
  | succ k ih =>
    unfold State.writable
    split
    exacts [trivial, trivial, ih]

theorem imagePut {n lid asid level va l} (h : tidy s) : tidy (s.imagePut n lid asid level va l).2 := by
  induction l generalizing s va with
  | nil => exact h
  | cons b r ih =>
    unfold State.imagePut
    split
    · exact ih h.walkSeen.homeWrite.watch
    · exact h

theorem imageWrite {n lid asid level va b} (h : tidy s) : (s.imageWrite n lid asid level va b).tidy := by
  unfold State.imageWrite
  split
  next u e => exact h.writable.some e
  split
  next u e => exact h.imagePut.snd e

theorem regImage {n t asid k v} (h : tidy s) : (s.regImage n t asid k v).tidy := by
  induction k generalizing s v with
  | zero => exact h
  | succ k ih =>
    unfold State.regImage
    extract_lets rest va
    have hrest : ∀ s x, tidy s → (rest s x).tidy := by
      intro s x h
      unfold rest
      split
      next e => exact (ih h).ok e
      · trivial
      · trivial
    split
    · exact hrest _ _ h
    · exact hrest _ _ h
    · trivial
    split
    · trivial
    · trivial
    split
    · trivial
    split
    next b s1 e1 =>
    split
    next w s2 e2 =>
    have h2 : tidy s2 := (h.walkSeen.homeRead.snd e1).watch.snd e2
    split
    next e => exact (hrest _ _ h2).ok e
    · exact hrest _ _ h2

theorem loadRegs {n t vals} (h : tidy s) : (s.loadRegs n t vals).tidy := by
  unfold State.loadRegs
  extract_lets asid l va
  split
  · trivial
  · trivial
  split
  next hits s1 e =>
  refine tidy.snd ?_ e
  refine foldSnd h fun a x ha => ?_
  split
  · extract_lets b
    split
    next w s1 e => exact ha.walkSeen.homeWrite.watch.snd e
  · exact ha

theorem rejoin {t b} (h : tidy s) : tidy (s.rejoin t b) := h.ite h.same

theorem ctxStatus {t o code hits} (h : tidy s) : (Machine.ctxStatus s t o code hits).tidy := h.modThread

theorem ctxPark {asid kind level va} (_h : tidy s) : (Machine.ctxPark s asid kind level va).tidy := trivial

theorem saveThread {o allowed effect c} (h : tidy s) (he : ∀ s t, tidy s → tidy (effect s t)) :
    (Machine.saveThread o allowed effect c s).tidy := by
  unfold Machine.saveThread
  refine h.eachThread (fun s t h => ?_) fun _ _ h => h
  split
  next va sel _ =>
  split
  · exact h
  split
  · exact h.ctxStatus
  split
  · exact h.ctxStatus
  split
  · exact h.ctxPark
  · exact h
  next e =>
  have h1 := h.regImage.ok e
  split
  · exact h1.ctxPark
  · exact h
  next e => exact (he _ _ (h1.imageWrite.ok e)).ctxStatus

theorem bodyCtxsvCopy {o x} (h : tidy s) : (Machine.bodyCtxsvCopy o x s).tidy := h.saveThread (fun _ _ h1 => h1)

theorem bodyCtxsvRel {o c} (h : tidy s) : (Machine.bodyCtxsvRel o c s).tidy := by
  unfold Machine.bodyCtxsvRel
  refine h.saveThread fun s t h => ?_
  have h1 : tidy (s.modThread t.name fun t => { t with st := .saved, regs := [], trap := none, solo := none, hdr := none }) := h.modThread
  exact h1.same

theorem moveSlot {core from_ to_} (h : tidy s) : tidy (s.moveSlot core from_ to_) := h.same

theorem sendAway {g} (h : tidy s) : tidy (s.sendAway g) := h.clearScratch.freeTiles.moveSlot.modGroup.same.setDreg

theorem saveGroup {o t} (h : tidy s) : (Machine.saveGroup o s t).1.tidy := by
  unfold Machine.saveGroup
  split
  split
  · show tidy _
    exact h
  split
  · exact h.ctxStatus
  split
  · exact h.ctxStatus
  split
  · exact h.ctxPark
  · show tidy _
    exact h
  next u e => exact (h.imageWrite.ok e).sendAway.ctxStatus

theorem eachMoved {need f c} (h : tidy s) (hf : ∀ s t, tidy s → (f s t).1.tidy) : (Machine.eachMoved need f c s).tidy := by
  unfold Machine.eachMoved
  split
  · trivial
  refine settle (foldFst h fun a n ha => ?_)
  obtain ⟨s, outs, nm⟩ := a
  dsimp only
  split
  · exact ha
  split
  · exact ctxTake ha (hf _ _ ha)
  · exact ha

theorem bodyCtxsvWg {o c} (h : tidy s) : (Machine.bodyCtxsvWg o c s).tidy := h.eachMoved fun _ _ h => h.saveGroup

theorem bodyCtxldRegs {o x} (h : tidy s) : (Machine.bodyCtxldRegs o x s).tidy := by
  unfold Machine.bodyCtxldRegs
  refine h.eachThread (fun s1 t h1 => ?_) fun _ _ h => h
  split
  split
  · exact h1
  split
  · exact h1.ctxStatus
  split
  · split
    · exact h1.ctxStatus
    split
    · exact h1.ctxPark
    · exact h1
    next u e =>
    have h2 := h1.imageRead.ok e
    split
    · exact h2.ctxStatus
    split
    · exact h1.ctxPark
    · exact h1
    next u1 e1 => exact (h2.loadRegs.ok e1).modThread.ctxStatus
  split
  · exact h1.ctxStatus
  split
  · exact h1.ctxPark
  · exact h1
  next u e =>
  have h2 := h1.imageRead.ok e
  split
  · exact h2.ctxStatus
  split
  · exact h1.ctxPark
  · exact h1
  next u1 e1 => exact (h2.loadRegs.ok e1).modThread.ctxStatus

theorem restoreState {v g b vals} (h : tidy s) : Answer.tidy (s.restoreState v g b vals) := by
  unfold State.restoreState
  extract_lets x wk put hdr solo r s1
  have hput : ∀ s f, tidy s → tidy (put s f) := fun _ _ h => h.modThread
  clear_value put wk
  split
  · exact (hput s _ h).same
  · exact (hput s _ h).rejoin
  · split
    · exact hput _ _ h
    · exact hput _ _ h
    · split
      next k s2 e =>
      have h2 : tidy s2 := h.nextOrder.snd e
      split
      · trivial
      split
      · generalize State.waitAgain _ _ _ _ _ _ _ _ = answer
        cases answer with
        | none => trivial
        | some x => exact hput _ _ h2
      · trivial
    · exact hput _ _ h
  · exact hput _ _ h

theorem bodyCtxldFull {o x} (h : tidy s) : (Machine.bodyCtxldFull o x s).tidy := by
  unfold Machine.bodyCtxldFull
  refine h.eachThread (fun s1 t h1 => ?_) fun _ _ h => h
  split
  split
  · exact h1
  split
  · split
    · exact h1.ctxStatus
    split
    · exact h1.ctxPark
    · exact h1
    next u e =>
    have h2 := h1.imageRead.ok e
    extract_lets
    split
    · exact h2.ctxStatus
    split
    · exact h1.ctxPark
    · exact h1
    next u1 e1 =>
    have h3 := h2.loadRegs.ok e1
    split
    next u2 e2 => exact (h3.modThread.restoreState.some e2).ctxStatus
    · exact h2.ctxStatus
  · exact h1.ctxStatus

theorem restoreTiles {g b} (h : tidy s) : tidy (s.restoreTiles g b) := by
  unfold State.restoreTiles
  refine h.foldl fun s1 x h1 => ?_
  split
  split
  · exact h1
  split
  exacts [h1.putInst, h1]

theorem createGroup {core slot b} (h : tidy s) : (s.createGroup core slot b).tidy := by
  unfold State.createGroup
  split
  · trivial
  split
  · trivial
  split
  · trivial
  split
  · trivial
  extract_lets _ _ _ _ _ s1 s2 s3 _ _ s4 s5
  have h1 : tidy s1 := h.clearScratch.freeTiles.moveSlot
  have h2 : tidy s2 := h1.modGroup
  have h3 : tidy s3 := h2.modThreads
  have h4 : tidy s4 := h3.same
  have h5 : tidy s5 := by
    dsimp only [s5]
    split
    exacts [h4.restoreTiles, h4]
  exact h5.setDreg

theorem loadGroup {o t} (h : tidy s) : (Machine.loadGroup o s t).1.tidy := by
  unfold Machine.loadGroup
  split
  split
  · show tidy _
    exact h
  split
  · exact h.ctxStatus
  split
  · exact h.ctxPark
  · show tidy _
    exact h
  next u e =>
  have h1 := h.imageRead.ok e
  split
  · exact h1.ctxStatus
  split
  · exact h.ctxPark
  · show tidy _
    exact h
  next u1 e1 =>
  have h2 := h1.imageRead.ok e1
  extract_lets
  split
  · exact h2.ctxStatus
  next u2 e2 => exact (h2.createGroup.ok e2).ctxStatus

theorem bodyCtxldWg {o c} (h : tidy s) : (Machine.bodyCtxldWg o c s).tidy := h.eachMoved fun _ _ h => h.loadGroup

theorem restore {core} (h : tidy s) : tidy (s.restore core) := by
  unfold State.restore
  extract_lets _ _ _ _ status
  have hf : ∀ s busy c, tidy s → tidy (status s busy c) := by
    intro s busy c h'
    dsimp only [status]
    exact .setDreg (h'.ite h'.restoreOver)
  split
  · exact h
  split
  · exact hf _ _ _ h
  split
  next u e =>
    split
    · exact hf _ _ _ h
    split
    next u1 e1 =>
      split
      · exact hf _ _ _ h
      split
      · exact hf _ _ _ h
      next u2 e2 => exact hf _ _ _ (h.createGroup.ok e2).setDreg.modGroup
    · exact hf _ _ _ h
  · exact hf _ _ _ h

/-! ### The debug unit -/

theorem packRecord {core l} (h : tidy s) : tidy (s.packRecord core l) := h.debugRecord

theorem skidRecord {core pipe l point skid t0} (h : tidy s) : tidy (s.skidRecord core pipe l point skid t0) := h.debugRecord.packRecord

theorem stopArrives {core x} (h : tidy s) : tidy (s.stopArrives core x) :=
  .modStop (.foldl (h.foldl (fun _ _ h1 => h1.skidRecord)) (fun _ _ h1 => h1.skidRecord.cutPack))

theorem execClusterStopArrival {core} (h : tidy s) : Outcome.tidy (Machine.execClusterStopArrival core s) := by
  unfold Machine.execClusterStopArrival
  show tidy _
  split
  exacts [h.ite h.stopArrives, h]

theorem execStopComplete {cluster} (h : tidy s) : Outcome.tidy (Machine.execStopComplete cluster s) := by
  unfold Machine.execStopComplete
  show tidy _
  split
  exacts [h.ite h.setDbg.modStop, h]

theorem fetchAgain {n} (h : tidy s) : tidy (s.fetchAgain n) := h.modThread

theorem thawOne {x} (h : tidy s) : tidy (s.thawOne x) := by
  unfold State.thawOne
  split
  · split
    · split
      exacts [h.acquire.wake, h.fetchAgain, h.tretAgain, h]
    · exact h
  · exact h.barSettle
  · exact h.wakeBatches
  · exact h.serveCore
  split
  exacts [h.endGroup.ite h, h]

theorem thaw {x} (h : tidy s) : tidy (s.thaw x) := h.setDbg.writeFreeze.same.foldl (fun _ _ h1 => h1.thawOne)

theorem stepEnd {p l named sres cause point} (h : tidy s) : tidy (s.stepEnd p l named sres cause point) := by
  unfold State.stepEnd
  extract_lets _ s1 s2 s3 s4
  have h1 : tidy s1 := h.debugRecord
  have h2 : tidy s2 := h1.ite h1.packRecord
  have h3 : tidy s3 := h2.setDbg
  have h4 : tidy s4 := h3.modStop
  split
  exacts [h4.thaw.ite h4, h4]

theorem stepOver {x core pipe sres} (h : tidy s) : tidy (s.stepOver x core pipe sres) :=
  .stepEnd (.foldl (h.cutPack.ite h) (fun _ _ h1 => h1.recordTrap))

theorem afterTurn {before} (h : tidy s) : tidy (s.afterTurn before) := by
  unfold State.afterTurn
  split
  · exact h
  extract_lets _ s1
  have h1 : tidy s1 := h.same.ite h
  split
  · exact h1
  split
  · exact h1
  split
  exacts [h1.ite h1.stepOver, h1.stepOver]

theorem enterStep {n} (h : tidy s) : tidy (s.enterStep n) := by
  unfold State.enterStep
  split
  · exact h
  extract_lets _ first _ _ s1
  have h1 : tidy first := h.enterThread
  have h2 : tidy s1 := by
    dsimp only [s1]
    refine h1.foldl fun s2 x h2 => ?_
    split
    exacts [h2.enterThread.ite h2, h2]
  exact h2.meet.ite h2

theorem goStep {p x} (h : tidy s) : tidy (s.goStep p x) := by
  unfold State.goStep
  extract_lets _ _ s0 none_ start s1
  have h1 : tidy s0 := h.setDbg
  have hf : ∀ s, tidy s → tidy (none_ s) := by
    intro s h'
    dsimp only [none_]
    exact h'.stepEnd
  have hf1 : ∀ s k, tidy s → tidy (start s k) := by
    intro s k h'
    dsimp only [start]
    exact h'.modStop
  have h2 : tidy s1 := h1.enterStep
  split
  · exact hf _ h1
  split
  · exact .ite (hf1 _ _ h1.resumePack) (hf _ h1)
  split
  · exact hf _ h1
  split
  · split
    · exact h2.stepEnd
    split
    exacts [hf1 _ _ h2.takePack, h2.stepEnd.ite (hf _ h1)]
  · exact hf _ h2

theorem execDebugStep {cluster} (h : tidy s) : Outcome.tidy (Machine.execDebugStep cluster s) := by
  unfold Machine.execDebugStep
  show tidy _
  split
  exacts [h.goStep.ite h, h]

theorem askThaw {x} (h : tidy s) : tidy (s.askThaw x) := by
  unfold State.askThaw
  split
  · exact h.thaw
  extract_lets s1
  have h1 : tidy s1 := h.modStop
  split
  exacts [h1.stepOver.ite h1, h1]

theorem execThaw {cluster} (h : tidy s) : Outcome.tidy (Machine.execThaw cluster s) := by
  unfold Machine.execThaw
  show tidy _
  split
  exacts [h.askThaw.ite h, h]

theorem dump {p} (h : tidy s) : tidy (s.dump p) := .setDbg (h.foldl (fun _ _ h1 => h1.debugRecord))

theorem execDump {cluster} (h : tidy s) : Outcome.tidy (Machine.execDump cluster s) := by
  unfold Machine.execDump
  show tidy _
  split
  exacts [h.dump.ite h, h]

theorem execSampleRecord {core pipe} (h : tidy s) : Outcome.tidy (Machine.execSampleRecord core pipe s) := by
  unfold Machine.execSampleRecord
  show tidy _
  extract_lets
  split
  · exact h
  extract_lets
  split
  · exact h
  split
  next u e => exact (h.fresh.snd e).debugRecord.same

theorem execTraceSummary {core} (h : tidy s) : Outcome.tidy (Machine.execTraceSummary core s) :=
  h.ite (h.foldl (fun _ _ h1 => h1.ite h1.debugRecord.same))

theorem writeTrail {p v} (h : tidy s) : tidy (s.writeTrail p v) := by
  unfold State.writeTrail
  extract_lets _ _ s1
  have h1 : tidy s1 := h.setDbg
  split
  · exact h1
  split
  exact h1.same.triggerStop.ite h1.same

theorem execReplayDivergence {cluster} (h : tidy s) : Outcome.tidy (Machine.execReplayDivergence cluster s) := by
  unfold Machine.execReplayDivergence
  show tidy _
  split
  exacts [h.triggerStop.ite h, h]

/-! ### Serialisers, encoders and the timing protocol -/

theorem consume {r} (h : tidy s) : tidy (s.consume r) := h.freeHeld.stepRingPtr

theorem passSlot {r n} (h : tidy s) : tidy (s.passSlot r n) := by
  unfold State.passSlot
  split
  exacts [h.freeSlot.ringSettle, h.ringSettle]

theorem passLate {p first until_ fuel} (h : tidy s) : tidy (s.passLate p first until_ fuel) := by
  induction fuel generalizing s with
  | zero => exact h
  | succ fuel ih =>
    unfold State.passLate
    extract_lets con back
    split
    · exact h
    split
    · exact .ite (ih h.consume.passSlot) h
    · exact h

theorem execSerialiserStripNeed {unit} (h : tidy s) : Outcome.tidy (Machine.execSerialiserStripNeed unit s) := by
  unfold Machine.execSerialiserStripNeed
  show tidy _
  extract_lets
  split
  · exact h
  split
  · exact h
  extract_lets _ s1
  have h1 : tidy s1 := h.ringSettle.passLate
  split
  exacts [h1.modSlot.consume.ringSettle.putSerialiser.ite h1.putSerialiser.passLate, h1.putSerialiser]

theorem execSerialiserLine {unit} (h : tidy s) : Outcome.tidy (Machine.execSerialiserLine unit s) := by
  unfold Machine.execSerialiserLine
  show tidy _
  extract_lets
  split
  · exact h
  split
  · exact h
  extract_lets
  split
  exacts [h.putSerialiser, h.putSerialiser, h.ite (h.putSerialiser.passSlot.ite h.putSerialiser.passLate)]

theorem modEncoder {i f} (h : tidy s) : tidy (s.modEncoder i f) := h.same

theorem deviceBytes {lid asid va b fuel} (h : tidy s) : tidy (s.deviceBytes lid asid va b fuel) := by
  induction fuel generalizing s va b with
  | zero => exact h
  | succ fuel ih =>
    unfold State.deviceBytes
    split
    exacts [h, ih h.deviceStoreLog]

theorem setBs {i drp wr} (h : tidy s) : tidy (s.setBs i drp wr) := h.setDreg

theorem encTake {e l} (h : tidy s) : tidy (s.encTake e l) := by
  unfold State.encTake
  refine h.foldl fun s1 x h1 => ?_
  extract_lets
  split
  · exact h1
  split
  exacts [h1.modSlot.consume, h1]

theorem emitRow {e lo hi} (h : tidy s) : tidy (s.emitRow e lo hi) := by
  unfold State.emitRow
  split
  · exact h
  extract_lets
  split
  next u e1 =>
  have h1 := h.fresh.snd e1
  exact h1.setBs.modEncoder.ite h1.deviceBytes.deviceBytes.setBs

theorem frameOver {e} (h : tidy s) : tidy (s.frameOver e) := .modEncoder (h.writeStatus.ite h)

theorem execEncoderSuperblockRow {slot} (h : tidy s) : Outcome.tidy (Machine.execEncoderSuperblockRow slot s) := by
  unfold Machine.execEncoderSuperblockRow
  show tidy _
  split
  · exact h
  extract_lets _ _ _ _ s0 _ _ _ s1 _ _ s2 _ s3 s4
  have h1 : tidy s0 := h.ringSettle
  have h2 : tidy s1 := h1.encTake
  have h3 : tidy s2 := h2.modEncoder.emitRow
  have h4 : tidy s3 := h3.foldl (fun _ _ h4 => h4.passSlot)
  have h5 : tidy s4 := h4.modEncoder
  split
  · exact h
  split
  · split
    exacts [h5.frameOver, h5]
  · exact h5

theorem writeBsrd {i v} (h : tidy s) : tidy (s.writeBsrd i v) := h.ite h.setDreg

theorem modFw {f} (h : tidy s) : tidy (s.modFw f) := h.same

theorem execPtpAnnounceTimeout {heard} (h : tidy s) : Outcome.tidy (Machine.execPtpAnnounceTimeout heard s) := by
  unfold Machine.execPtpAnnounceTimeout
  show tidy _
  split
  · exact h
  split
  exacts [h.modFw, h]

theorem execPtpMessageReceived {port m} (h : tidy s) : Outcome.tidy (Machine.execPtpMessageReceived port m s) := by
  unfold Machine.execPtpMessageReceived
  show tidy _
  split
  · exact h
  split
  · exact h.modFw
  · split
    · split
      next u e =>
      have h1 := h.fresh.snd e
      exact h1.modFw.ite h1
    · exact h
  · split
    · exact h
    split
    next u e =>
    have h1 := h.fresh.snd e
    exact h1.writeAdj.ite h1.writeAdj.writeStepv
  · exact h

/-! ### The device in its system -/

theorem execPageWalk {cluster asid va turn} (h : tidy s) : Outcome.tidy (Machine.execPageWalk cluster asid va turn s) := by
  unfold Machine.execPageWalk
  show tidy _
  split
  · exact h
  extract_lets _ _ _ s1 into s2 _ s3
  have h1 : tidy s1 := h.same
  have hf : ∀ s t, tidy s → tidy (into s t) := by
    intro s t h'
    dsimp only [into]
    split
    exacts [h', h'.ite h'.same]
  have h2 : tidy s2 := h1.walkSeen
  have h3 : tidy s3 := h2.same
  split
  · exact hf _ _ h1
  split
  exacts [hf _ _ h3.same, h3]

theorem faultWrite {ws} (h : tidy s) : Answer.tidy (s.faultWrite ws) := by
  unfold State.faultWrite
  split
  extract_lets _ s1
  have h1 : tidy s1.2 := by
    dsimp only [s1]
    exact h.memWrite.watch
  split
  exacts [trivial, h1.setDreg]

theorem execFaultRecord (h : tidy s) : Outcome.tidy (Machine.execFaultRecord s) := by
  unfold Machine.execFaultRecord
  show tidy _
  split
  · split
    next u e => exact (h.faultWrite.some e).same
    · exact h
  split
  · split
    next u e => exact (h.faultWrite.some e).same
    · exact h
  · exact h

theorem writeFaultBuffer {v} (h : tidy s) : tidy (s.writeFaultBuffer v) := h.setDreg

theorem settleFault {fid} (h : tidy s) : tidy (s.settleFault fid) := by
  unfold State.settleFault
  exact (h.foldl (fun _ _ h1 => h1.trail)).same

theorem retryFault {fid} (h : tidy s) : tidy (s.retryFault fid) :=
  h.same.modThreads.foldl (fun _ _ h1 => .ite (h1.deferTo.ite (h1.fetchAgain.ite h1.tretAgain)) h1)

theorem serveQueues {f} (h : tidy s) : tidy (s.serveQueues f) := h.ite (h.foldl (fun _ _ h1 => h1.serveCore))

theorem execFaultAnswerRetry {fid} (h : tidy s) : Outcome.tidy (Machine.execFaultAnswerRetry fid s) := by
  unfold Machine.execFaultAnswerRetry
  show tidy _
  split
  exacts [h.settleFault.retryFault.serveQueues, h]

theorem failAccesses {f} (h : tidy s) : tidy (s.failAccesses f) := by
  unfold State.failAccesses
  extract_lets _ _ s1
  have h1 : tidy s1 := h.same
  refine h1.foldl fun s2 x h2 => ?_
  split
  exacts [h2.trapBoundary, h2]

theorem failThread {f t} (h : tidy s) : tidy (s.failThread f t) := by
  unfold State.failThread
  extract_lets _ word
  have hf : ∀ va, tidy (word va) := by
    intro va
    dsimp only [word]
    exact h.trapAt
  split
  · exact .ite (hf _) h
  · split
    · exact h
    split
    exact h.trapAt
  · exact h.wakeTrap.ite h
  split
  exacts [h.modThread.wakeTrap.ite h, h]

theorem failCopy {c} (h : tidy s) : tidy (s.failCopy c) := by
  unfold State.failCopy
  extract_lets
  split
  · exact h.transferError.creditAll.copyOver
  split
  exacts [h.readOver, h.readOver]

theorem failRefills {f} (h : tidy s) : tidy (s.failRefills f) := by
  unfold State.failRefills
  split
  · exact h
  refine h.foldl fun s1 x h1 => ?_
  refine h1.foldl fun s2 x1 h2 => ?_
  split
  · exact h2
  split
  exacts [h2.trapAt, h2]

theorem failQueue {f r} (h : tidy s) : tidy (s.failQueue f r) := by
  unfold State.failQueue
  extract_lets
  split
  · exact h
  split
  · exact h.wakeTrap.ite h
  split
  exacts [h.wakeTrap.ite h, h]

theorem failQueues {f} (h : tidy s) : tidy (s.failQueues f) := by
  unfold State.failQueues
  split
  · exact h
  refine h.foldl fun s1 x h1 => ?_
  split
  exacts [h1.failQueue, h1]

theorem failFault {f} (h : tidy s) : tidy (s.failFault f) := by
  unfold State.failFault
  extract_lets s1 s2 _ s3 s4
  have h1 : tidy s1 := h.failAccesses.foldl (fun _ _ h1 => h1.failThread)
  have h2 : tidy s2 := h1.foldl (fun _ _ h2 => h2.failCopy)
  have h3 : tidy s3 := h2.same
  have h4 : tidy s4 := h3.foldl (fun _ _ h4 => h4.evalFault)
  exact h4.failRefills.failQueues.serveQueues

theorem execFaultAnswerFail {fid} (h : tidy s) : Outcome.tidy (Machine.execFaultAnswerFail fid s) := by
  unfold Machine.execFaultAnswerFail
  show tidy _
  split
  exacts [h.settleFault.failFault, h]

theorem serviceRequest {index} (h : tidy s) : tidy (s.serviceRequest index) := h.setDreg.deviceError

theorem execCorrectedError {unit index} (h : tidy s) : Outcome.tidy (Machine.execCorrectedError unit index s) :=
  h.modFw.ite (h.modFw.same.serviceRequest.ite h.modFw.same)

theorem refetchLine {pa} (h : tidy s) : tidy (s.refetchLine pa) := h.same

theorem poisonUnits {us} (h : tidy s) : tidy (s.poisonUnits us) := h.same

theorem loseLine {core pa} (h : tidy s) : tidy (s.loseLine core pa) := by
  unfold State.loseLine
  split
  exacts [h, h.writeHalf.same.poisonUnits.deviceError]

theorem execUncorrectableError {w} (h : tidy s) : Outcome.tidy (Machine.execUncorrectableError w s) := by
  unfold Machine.execUncorrectableError
  show tidy _
  split
  · exact h.refetchLine.deviceError
  · exact h.loseLine
  · exact h.ite h.poisonUnits.deviceError
  · exact h.modThread.deviceError
  · exact h.ite h.poisonUnits.deviceError
  · extract_lets s1
    have h1 : tidy s1 := by
      dsimp only [s1]
      split
      exacts [h.pitchError, h]
    exact h1.deviceError
  · exact h.ite h.poisonUnits.deviceError
  · exact h.modEncoder.deviceError

theorem execUnitRetirement {cluster testOk} (h : tidy s) : Outcome.tidy (Machine.execUnitRetirement cluster testOk s) := by
  unfold Machine.execUnitRetirement
  show tidy _
  split
  · exact h
  extract_lets s1
  have h1 : tidy s1 := h.setDreg
  split
  exacts [h1.modFw.setDreg.setDreg.ite h1.modFw.serviceRequest, h1.modFw.serviceRequest]

theorem setCk {busy ms cks} (h : tidy s) : tidy (s.setCk busy ms cks) := h.setDreg

theorem checkpointGo {halt} (h : tidy s) : tidy (s.checkpointGo halt) := by
  unfold State.checkpointGo
  extract_lets gib s1 _ s2
  have h1 : tidy s1 := h.setCk
  have h2 : tidy s2 := by
    refine ⟨h1.1, fun x hx => ?_⟩
    obtain ⟨y, hy, rfl⟩ := Option.map_eq_some_iff.mp hx
    exact h1.2 y hy
  exact .ite h (.ite h.setCk (.ite h.setCk (.ite h.setCk (h2.foldl fun _ _ h => .ite h h.triggerStop.modStop))))

theorem ckThaw (h : tidy s) : tidy s.ckThaw := h.foldl (fun _ _ h1 => h1.thaw)

/-- Memory with its low part copied up from a base: what stood there gives way. -/
theorem copied_up {m : Mem} (base size : Nat) (h : Memory.wf m = true) :
    Memory.wf ((m.filter fun x => !(base ≤ x.1 && x.1 < base + size)).filter (·.1 < base) ++
      (m.filter (·.1 < size)).map (fun x => (x.1 + base, x.2)) ++
      (m.filter fun x => !(base ≤ x.1 && x.1 < base + size)).filter fun x => base + size ≤ x.1) = true := by
  refine append_wf (append_wf (filter_wf _ _ (filter_wf _ m h)) (map_wf (· + base) ?_ (filter_wf _ m h)) ?_) (filter_wf _ _ (filter_wf _ m h)) ?_
  · intro x _ y _ hxy
    exact Nat.add_lt_add_right hxy base
  · intro x hx y hy
    obtain ⟨z, hz, rfl⟩ := List.mem_map.mp hy
    have hx : x.1 < base := of_decide_eq_true (List.mem_filter.mp hx).2
    exact Nat.lt_of_lt_of_le hx (Nat.le_add_left base z.1)
  · intro x hx y hy
    have hy : base + size ≤ y.1 := of_decide_eq_true (List.mem_filter.mp hy).2
    suffices hx : x.1 < base + size from Nat.lt_of_lt_of_le hx hy
    rcases List.mem_append.mp hx with hx | hx
    · exact Nat.lt_of_lt_of_le (of_decide_eq_true (List.mem_filter.mp hx).2) (Nat.le_add_right base size)
    · obtain ⟨z, hz, rfl⟩ := List.mem_map.mp hx
      have hz : z.1 < size := of_decide_eq_true (List.mem_filter.mp hz).2
      exact (Nat.add_comm z.1 base).trans_lt (Nat.add_lt_add_left hz base)

theorem writeMem {m : Mem} {a : Nat} {l : List Byte} {p : List Nat} (h : tidy s) (hm : Memory.wf m = true) :
    tidy { s with store := { s.store with mem := m.write a l, poison := p } } :=
  h.sameButMem (write_wf l a hm)

theorem ckCopy (h : tidy s) : tidy s.ckCopy := by
  unfold State.ckCopy
  exact h.fresh.writeMem (copied_up _ _ h.mem)

theorem ckResume {ms cks} (h : tidy s) : tidy (s.ckResume ms cks) := by
  unfold State.ckResume
  extract_lets s1 _ s2
  have h1 : tidy s1 := h.setCk
  have h2 : tidy s2 := h1.ite h1.same.ckThaw
  exact h2.same

/-- The image of a tidy state is canonical: it holds no memory of its own. -/
theorem imageOf (h : tidy s) : storeOk s.imageOf.store = true :=
  canonical_of (u := { s with store := { s.store with mem := [] } }) h.1 rfl h.scratch h.awning rfl rfl

theorem execCheckpointComplete {ms portError} (h : tidy s) : Outcome.tidy (Machine.execCheckpointComplete ms portError s) := by
  unfold Machine.execCheckpointComplete
  split
  · exact h
  split
  · refine tidy.ckResume (h.ofImage fun x hx => ?_)
    obtain ⟨y, hy, rfl⟩ := Option.map_eq_some_iff.mp hx
    exact h.2 y hy
  · extract_lets s1
    have h1 : tidy s1 := h.ckCopy
    clear_value s1
    refine tidy.ckResume (h1.ofImage fun x hx => ?_)
    obtain rfl := Option.some.inj hx
    exact h1.setCk.ckThaw.imageOf

/-- An image's memory and what a restore leaves: LPDDR ends below the rest. -/
theorem imaged_outside {m : Mem} (dest : Nat) (h : Memory.wf m = true) : Memory.wf (m.imaged dest ++ m.outside) = true := by
  refine append_wf (map_wf (· - (dest + 2 ^ 30)) (fun x hx y _ hxy => ?_) (filter_wf _ m h)) (filter_wf _ m h) fun x hx y hy => ?_
  · have := (List.mem_filter.mp hx).2
    simp only [Bool.and_eq_true, decide_eq_true_eq] at this
    omega
  · obtain ⟨z, hz, rfl⟩ := List.mem_map.mp hx
    have hz := (List.mem_filter.mp hz).2
    have hy := (List.mem_filter.mp hy).2
    simp only [Bool.and_eq_true, decide_eq_true_eq] at hz hy
    show z.1 - (dest + 2 ^ 30) < y.1
    omega

theorem execCheckpointRestore (h : tidy s) : Outcome.tidy (Machine.execCheckpointRestore s) := by
  unfold Machine.execCheckpointRestore
  split
  next x hx =>
    have image : tidy { s with store := x.store } := ⟨h.2 x hx, h.2⟩
    exact .ite h ((image.sameButMem (imaged_outside x.dest h.mem)).foldl fun _ _ h => h.setDreg)
  next => exact h

theorem hostHeld {i} (h : tidy s) : Answer.tidy (s.hostHeld i) := by
  unfold State.hostHeld
  split
  exacts [h.same, trivial]

theorem execBringUp {b} (h : tidy s) : Outcome.tidy (Machine.execBringUp b s) := by
  unfold Machine.execBringUp
  show tidy _
  extract_lets _ img
  split
  · exact h
  clear_value img
  split
  · exact h
  split
  · exact h.modFw
  split
  · exact h.modFw
  split
  next u e => exact ((h.fresh.snd e).modFw.foldl (fun _ _ h2 => h2.setDreg.ite h2)).same.setDreg.setDreg.setDreg

theorem execAttestationRequest {nonce} (h : tidy s) : Outcome.tidy (Machine.execAttestationRequest nonce s) := by
  unfold Machine.execAttestationRequest
  show tidy _
  extract_lets
  split
  · exact h
  split
  · exact h.modFw
  split
  next u e => exact (h.fresh.snd e).modFw

theorem powerDown (h : tidy s) : tidy s.powerDown := by
  unfold State.powerDown
  exact ⟨canonical_of (s := State.reset) rfl (filter_wf _ s.store.mem h.mem) rfl rfl rfl rfl, h.2⟩

/-! ### The device registers -/

theorem answer {fid fail} (h : tidy s) : tidy (s.answer fid fail) := by
  unfold State.answer
  split
  exacts [h.settleFault.failFault.ite h.settleFault.retryFault, h]

theorem writeDebug0 {p src w w1 mask} (h : tidy s) : tidy (s.writeDebug0 p src w w1 mask) := by
  unfold State.writeDebug0
  extract_lets s1 s2
  have h1 : tidy s1 := h.setDbg
  have h2 : tidy s2 := by
    dsimp only [s2]
    split
    · exact h1
    split
    · exact h1.triggerStop
    split
    exacts [h1.askThaw.ite h1, h1]
  split
  exacts [h2.dump.ite h2, h2]

theorem writeDebug8 {p w w1} (h : tidy s) : tidy (s.writeDebug8 p w w1) := by
  unfold State.writeDebug8
  extract_lets s1
  have h1 : tidy s1 := h.setDbg
  split
  exacts [h1.goStep.ite h1, h1]

theorem writeDbgReg {p o src w w1 mask} (h : tidy s) : tidy (s.writeDbgReg p o src w w1 mask) := by
  unfold State.writeDbgReg
  split
  · exact h.writeDebug0
  · exact h.writeDebug8
  · exact h.setDbg
  · exact h.setDbg.ite h
  · exact h.setDbg
  · exact h.setDbg
  · exact h.writeTrail.ite h.setDbg
  · exact h.setDbg.ite h
  · exact h.setDbg.ite (h.setDbg.ite h.setDbg)

theorem regWrite {r machine src v mask} (h : tidy s) : tidy (s.regWrite r machine src v mask) := by
  unfold State.regWrite
  extract_lets
  split
  · exact h
  · exact h
  · exact h
  · exact h
  · exact h
  · exact h
  · exact h.writeAdj.ite h
  · exact h.writeStepv.ite h
  · exact h.same.ite h
  · exact h.setDreg
  · exact h.writeLqt.ite h
  · exact h.setDreg.ite h
  · exact h.writeFaultBuffer
  · exact h.setDreg
  · exact h.answer.ite h
  · exact h.setDreg
  · exact h.checkpointGo.ite h
  · exact h.setDreg
  · exact h.setDreg
  · exact h.writeFreeze.ite h
  · split
    exacts [h.writePlan, h.setDreg, h.writeBsrd.ite h, h]
  · exact h.ringDescWrite
  · split
    exacts [h.setDreg, h.setDreg, h]
  · exact h.setDreg
  · exact h.writeHold.ite h
  · exact h.setDreg
  · exact h.setDreg.restore.ite h.setDreg
  · exact h.writeDbgReg

theorem devWrite {pa n v machine src} (h : tidy s) : tidy (s.devWrite pa n v machine src) := h.elim (fun _ => h.regWrite)

theorem execHostRdmaAccess {write pa size data} (h : tidy s) : Outcome.tidy (Machine.execHostRdmaAccess write pa size data s) :=
  h.ite (h.deviceError.ite (.ite (h.ite (h.ite h.trail.devWrite)) (h.watch.ite (h.ite h.trail.memWrite.watch))))

/-! ### Memory accesses -/

theorem writeResult {o x} (h : tidy s) : tidy (s.writeResult o x) := h.modThread

theorem conflictCheck {o scratch a} (h : tidy s) : (s.conflictCheck o scratch a).tidy := by
  unfold State.conflictCheck
  split
  exacts [h.checkGranules, h]

theorem eccTrap {o pa unit} (h : tidy s) : (s.eccTrap o pa unit).tidy := h.logError.ite h

theorem trailFor {e v} (h : tidy s) : tidy (s.trailFor e v) := by
  unfold State.trailFor
  split
  exacts [h.trail, h]

theorem performScratch {o core a} (h : tidy s) : (s.performScratch o core a).tidy := by
  unfold State.performScratch
  split
  · exact h
  split
  · exact h
  · trivial
  next u e =>
  have h1 := h.conflictCheck.ok e
  split
  · exact h1.eccTrap
  extract_lets _ s1 s11 _ s2 r
  have h2 : tidy s1 := h1.trailFor
  have h3 : tidy s11 := h2.release.ite h2
  have h4 : tidy s2 := by
    dsimp only [s2]
    split
    exacts [h3.scratchStore, h3.scratchStore.writeResult, h3.writeResult]
  have h5 : tidy r.2 := by
    dsimp only [r]
    exact h4.watch
  exact h5.acquire.ite h5

theorem performDevice {o pa} (h : tidy s) : tidy (s.performDevice o pa) := h.devWrite.ite h.writeResult

theorem performData {o pa leaf} (h : tidy s) : tidy (s.performData o pa leaf) := by
  unfold State.performData
  extract_lets core line
  split
  · exact h.privWrite.ite h.homeWrite
  iterate 2
    split
    next b s1 e =>
    have h1 := h.homeRead.snd e
    exact h1.homeWrite.writeResult.ite h1.homeWrite
  · split
    next b s1 e =>
    refine tidy.writeResult ?_
    split at e
    exacts [h.privRead.snd e, h.homeRead.snd e]

theorem performMem {o pa leaf} (h : tidy s) : (s.performMem o pa leaf).tidy := by
  unfold State.performMem
  split
  · extract_lets s1 s2
    have h2 : tidy s2 := (h.release.ite h).performDevice
    exact h2.acquire.ite h2
  have hc : (if bit leaf 61 then s.conflictCheck o none pa else .ok s).tidy := by
    split
    exacts [h.conflictCheck, h]
  split
  · exact h
  · trivial
  next s1 e =>
  have h1 : tidy s1 := hc.ok e
  split
  · exact h1.eccTrap
  extract_lets s2 core s3 s4 l1 _ r s5 s6
  have h3 : tidy s3 := h1.trailFor.release.ite h1.trailFor
  have hr : tidy r.2 := h3.performData.watch
  have h5 : tidy s5 := hr.release.ite hr
  have h6 : tidy s6 := h5.release.ite h5
  exact h6.acquire.ite h6

theorem putOut {o} (h : tidy s) : tidy (s.putOut o) := by
  unfold State.putOut
  split
  next u e => exact (h.nextOrder.snd e).same

theorem closeIf {o} (h : tidy s) : tidy (s.closeIf o) := h.closeRegion.ite h

theorem memThread {req batch c t} (h : tidy s) : (Machine.memThread req batch c s t).tidy := by
  unfold Machine.memThread
  extract_lets out
  have hout : ∀ s o, tidy s → (out s o).tidy := fun _ _ h => h.putOut.closeIf
  clear_value out
  split
  next addr o0 e =>
  extract_lets o finish seen
  clear_value o
  split
  next n s0 e0 =>
  have h0 : tidy s0 := h.nextOrder.snd e0
  have hfinish : ∀ r : Perf, r.tidy → (finish r).tidy := by
    intro r hr
    cases r with
    | ok s fired => exact tidy.closeIf hr
    | trap s info => exact hr
    | stall g scratch why => exact h
  clear_value finish
  split
  · exact h
  · split
    next fid s1 e1 => exact hout _ _ (h.walkSeen.parkFault.snd e1)
  · exact hout _ _ h
  · exact hout _ _ h.walkSeen
  · exact hfinish _ h0.walkSeen.performMem
  · exact hfinish _ h0.performScratch

theorem memBody {req x} (h : tidy s) : (Machine.memBody req x s).tidy :=
  tidy.gated (h.eachThread (fun _ _ h1 => h1.memThread) (fun _ _ h1 => h1))

theorem bodyFence {o x} (h : tidy s) : (Machine.bodyFence o x s).tidy :=
  h.eachThread (fun _ _ h1 => .ite (.acquire (.closeRegion (h1.release.ite h1))) (.closeRegion (h1.release.ite h1))) (fun _ _ h1 => h1)

theorem bodyWset {o x} (h : tidy s) : (Machine.bodyWset o x s).tidy := by
  unfold Machine.bodyWset
  extract_lets
  refine h.eachThread (fun s1 t h1 => ?_) fun _ _ h => h
  split
  exacts [h1, h1.modGroup]

theorem iinv {core line} (h : tidy s) : tidy (s.iinv core line) := h.same

theorem cacheOp {core cop pa} (h : tidy s) : tidy (s.cacheOp core cop pa) := by
  unfold State.cacheOp
  split
  · split
    exacts [h.writeBack.putLine, h]
  · exact h.evict
  · exact h.iinv
  · exact h.cleanCore
  · exact h.iinv
  · exact h.ite h.putLine

theorem cctlLine {o x x1} (h : tidy s) : (Machine.cctlLine o x s x1).tidy := by
  unfold Machine.cctlLine
  split
  extract_lets _ _ s1
  have h1 : tidy s1 := h.walkSeen
  split
  · exact h
  split
  · exact h
  · split
    · trivial
    split
    next u e => exact (h.parkFault.snd e).putOut
  extract_lets
  split
  · exact h1
  split
  exacts [h1.putOut, h1.cacheOp]

theorem bodyCctlWb {o x} (h : tidy s) : (Machine.bodyCctlWb o x s).tidy := h.eachThread (fun _ _ h1 => h1.cctlLine) (fun _ _ h1 => h1)

theorem bodyCctlWbinv {o x} (h : tidy s) : (Machine.bodyCctlWbinv o x s).tidy :=
  h.eachThread (fun _ _ h1 => h1.cctlLine) (fun _ _ h1 => h1)

theorem bodyCctlIinv {o x} (h : tidy s) : (Machine.bodyCctlIinv o x s).tidy := h.eachThread (fun _ _ h1 => h1.cctlLine) (fun _ _ h1 => h1)

theorem bodyCctlWball {o x} (h : tidy s) : (Machine.bodyCctlWball o x s).tidy := by
  unfold Machine.bodyCctlWball
  refine h.eachThread (fun s1 t h1 => ?_) fun _ _ h => h
  extract_lets
  split
  exacts [h1.putOut, h1.cacheOp]

theorem bodyCctlIinvall {x x1} (h : tidy s) : (Machine.bodyCctlIinvall x x1 s).tidy :=
  h.eachThread (fun _ _ h1 => h1.cacheOp) (fun _ _ h1 => h1)

theorem bodyCctlPf {o x} (h : tidy s) : (Machine.bodyCctlPf o x s).tidy := by
  unfold Machine.bodyCctlPf
  refine h.eachThread (fun s1 t h1 => ?_) fun _ _ h => h
  split
  split
  · exact h1
  split
  · split
    exacts [h1.cacheOp, h1]
  · exact h1

theorem dropOut {k} (h : tidy s) : tidy (s.dropOut k) := h.same

theorem modOut {k f} (h : tidy s) : tidy (s.modOut k f) := h.same

theorem settleOut {o} {r : Perf} (h : tidy s) (hr : r.tidy) : tidy (s.settleOut o r) := by
  cases r with
  | ok s1 fired => exact (tidy.dropOut hr).foldl fun _ _ h => h.trapBoundary
  | trap s1 info => exact (tidy.dropOut hr).trapBoundary
  | stall g scratch why => exact h.modOut

theorem performSample {o} (h : tidy s) : tidy (s.performSample o) := by
  unfold State.performSample
  extract_lets
  split
  next u e =>
    have h1 := h.sample.ok e
    exact h1.dropOut.modThread.ite h1.dropOut.modThread.takeDue
  · exact h.dropOut.trapBoundary
  split
  next u e => exact (h.parkFault.snd e).modOut

theorem performAt {o pa leaf} (h : tidy s) : tidy (s.performAt o pa leaf) := by
  unfold State.performAt
  exact h.ite (.ite (.dropOut (h.cacheOp.ite h)) ((h.settleOut h.performMem).ite h))

theorem retranslate {o} (h : tidy s) : tidy (s.retranslate o) := by
  unfold State.retranslate
  extract_lets _ parked fail
  have hf : ∀ l, tidy (parked l) := by
    intro l
    dsimp only [parked]
    exact h.parkFault.modOut
  have hf1 : ∀ info, tidy (fail info) := by
    intro info
    dsimp only [fail]
    exact h.dropOut.trapBoundary
  split
  · split
    exacts [h.walkSeen.performAt, hf _, hf1 _]
  split
  exacts [hf _, hf1 _, .ite (hf1 _) h.walkSeen.performAt]

theorem performPeer {o} (h : tidy s) : tidy (s.performPeer o) := by
  unfold State.performPeer
  split
  exacts [h, h.dropOut.trapBoundary, h.ite (h.settleOut h.performScratch)]

theorem execMemoryAccessPerformed {k evict} (h : tidy s) : Outcome.tidy (Machine.execMemoryAccessPerformed k evict s) := by
  unfold Machine.execMemoryAccessPerformed
  show tidy _
  extract_lets _ s1
  have h1 : tidy s1 := h.foldl (fun _ _ h1 => h1.evict)
  split
  · exact h1
  split
  · exact h1
  split
  · exact h1.ite h1.performSample
  split
  · exact h1.performPeer
  split
  exacts [h1.performAt, h1.ite h1.retranslate]

theorem execDetectionStallEnd {n} (h : tidy s) : Outcome.tidy (Machine.execDetectionStallEnd n s) := by
  unfold Machine.execDetectionStallEnd
  show tidy _
  split
  · exact h
  split
  exacts [h.ite h.fetchAgain, h]

theorem execMmxCapacityTimeout {n} (h : tidy s) : Outcome.tidy (Machine.execMmxCapacityTimeout n s) := by
  unfold Machine.execMmxCapacityTimeout
  show tidy _
  split
  · exact h
  split
  · split
    · exact h
    split
    exact h.trapAt
  split
  · split
    exacts [h.dropOut.trapBoundary, h]
  · exact h

/-! ### Vector words -/

theorem bodyNop {x} (h : tidy s) : (Machine.bodyNop x s).tidy := h.eachThread (fun _ _ h1 => h1) (fun _ _ h1 => h1)

theorem bodyPfx {x} (h : tidy s) : (Machine.bodyPfx x s).tidy := h.eachThread (fun _ _ h1 => h1) (fun _ _ h1 => h1)

theorem bodyMov {o x} (h : tidy s) : (Machine.bodyMov o x s).tidy := by
  unfold Machine.bodyMov
  split
  exacts [trivial, h.eachThread (fun _ _ h1 => h1.vecWrite) (fun _ _ h1 => h1.vecOff)]

/-! ### Wakes -/

theorem wakeQueue {n q} (h : tidy s) : tidy (s.wakeQueue n q) := by
  unfold State.wakeQueue
  split
  exacts [h.serveQueue, h]

theorem recheckBarrier {n off phase scope} (h : tidy s) : tidy (s.recheckBarrier n off phase scope) := by
  unfold State.recheckBarrier
  split
  exacts [h.wakeBarrier.ite h, h]

theorem wakeHeader {t} (h : tidy s) : tidy (s.wakeHeader t) := by
  unfold State.wakeHeader
  split
  exacts [h.ite h.enter, h.modThread.ite h]

theorem wakeWait {t w} (h : tidy s) : tidy (s.wakeWait t w) := by
  unfold State.wakeWait
  extract_lets
  split
  · exact h.wakeHeader
  · exact h.wakeHeader.ite h.meet
  · exact h
  · exact h
  · exact h
  · exact h.ite h.fetchAgain
  · exact h
  · exact h.recheckBarrier
  · exact h.wakeBatches
  · exact h.wakeQueue
  · exact h.wakeQueue
  · exact h.wakeRing
  · exact h
  · exact h.wakeApop
  · exact h.ite h.tretAgain
  · exact h.acquire.wake

theorem execThreadWake {n} (h : tidy s) : Outcome.tidy (Machine.execThreadWake n s) := by
  unfold Machine.execThreadWake
  show tidy _
  split
  · exact h
  split
  exacts [h.ite h.wakeWait, h]

/-! ### XFN words -/

theorem xfnBody {f x} (h : tidy s) : (Machine.xfnBody f x s).tidy := by
  unfold Machine.xfnBody
  split
  · trivial
  extract_lets logc
  refine tidy.eachThread h (fun _ _ h1 => h1.modThread) ?_
  intro s1 t h1
  extract_lets s2
  have h2 : tidy s2 := h1.vecOff
  clear_value s2
  clear_value logc
  split
  exacts [h2.modThread.ite h2, h2]

/-! ### XEQ -/

/-- What a word inside an XEQ does keeps the canonical form. -/
theorem xeqBody {i body} (e : Machine.xeqBody i = some body) : ∀ c s, tidy s → (body c s).tidy := by
  unfold Machine.xeqBody at e
  split at e
  case h_61 => cases e
  all_goals
    cases e
    intro c s h
  exacts [h.bodyNop, h.vecBody, h.vecBody, h.vecBody, h.vecBody, h.vecBody, h.vecBody, h.vecBody, h.vecBody, h.vecBody, h.vecBody,
    h.vecBody, h.vecBody, h.vecBody, h.vecBody, h.vecBody, h.vecBody, h.vecBody, h.vecBody, h.vecBody, h.vecBody, h.vecBody, h.vecBody,
    h.vecBody, h.vecBody, h.vecBody, h.vecBody, h.vecBody, h.vecBody, h.vecBody, h.vecBody, h.vecBody, h.vecBody, h.vecBody, h.vecBody,
    h.vecBody, h.vecBody, h.vecBody, h.bodyMov, h.vecBody, h.vecBody, h.vecBody, h.vecBody, h.xfnBody, h.xfnBody, h.xfnBody, h.xfnBody,
    h.xfnBody, h.xfnBody, h.xfnBody, h.xfnBody, h.memBody, h.memBody, h.memBody, h.memBody, h.memBody, h.memBody, h.memBody, h.bodySamp,
    h.memBody]

theorem xeqIssue {c w i l} (h : tidy s) : (Machine.xeqIssue c s w i l).tidy := by
  unfold Machine.xeqIssue
  split
  · exact h
  next body e =>
  extract_lets ci s1 cj
  have h1 : tidy s1 := h.ctxLost
  have hr : (body cj s1).tidy := xeqBody e cj s1 h1
  split
  · exact h.holdOperands
  split
  · exact h
  · exact h
  · trivial
  next s2 e => exact hr.more e
  next s2 outs e => exact (hr.done e).wordRegs

theorem xeqKill {c x i l} (h : tidy s) : tidy (s.xeqKill c x i l) := h.foldl (fun _ _ h1 => .ite (h1.foldl (fun _ _ h2 => h2.spill)) h1)

theorem xeqNested {c w o l} (h : tidy s) : (Machine.xeqNested c s w o l).tidy := by
  unfold Machine.xeqNested
  extract_lets ci s1 words all
  split
  · exact h.holdOperands
  refine List.foldlRecOn (motive := XRes.tidy) (distinctWords words) _ h.ctxLost fun acc ha v _ => ?_
  split
  next a after i _ =>
    have hi : (Machine.xeqIssue c a v i (holders words v)).tidy := xeqIssue ha
    split
    next b more e => exact (hi.ok e).xeqKill
    · exact h.holdOperands
    · trivial
  · exact ha

theorem xeqPut {c rem after} (h : tidy s) : tidy (s.xeqPut c rem after) := h.modPack

theorem xeqFinish {c words} (h : tidy s) : (Machine.xeqFinish c s words).tidy := by
  unfold Machine.xeqFinish
  split
  exacts [h, h.foldl (fun _ _ h1 => h1.xeqKill.ite h1)]

theorem bodyXeq {o c} (h : tidy s) : (Machine.bodyXeq o c s).tidy := by
  unfold Machine.bodyXeq
  extract_lets rem words legal
  split
  · exact h.xeqFinish
  next w rest _ =>
  extract_lets l
  split
  · trivial
  next i _ =>
  extract_lets run
  have hrun : run.tidy := by
    unfold run
    split
    exacts [h.xeqNested, h.xeqIssue]
  clear_value run
  split
  · exact tidy.stallPack hrun
  · trivial
  next s1 after =>
  extract_lets s2
  have h2 : tidy s2 := (tidy.xeqKill hrun).xeqPut
  split
  exacts [h2.xeqFinish, h2]

/-! ### Every instruction and every event -/

theorem exec {i} (h : tidy s) : Outcome.tidy (Machine.exec i s) := by
  cases i with
  | nop => exact h.runWord fun _ _ h => h.bodyNop
  | pfx _ _ => exact h.runWord fun _ _ h => h.bodyPfx
  | bra _ => exact h.runWord fun _ _ h => h.bodyBra
  | brx _ => exact h.runWord fun _ _ h => h.bodyBrx
  | call _ => exact h.runWord fun _ _ h => h.bodyCall
  | callx _ => exact h.runWord fun _ _ h => h.bodyCallx
  | ret _ => exact h.runWord fun _ _ h => h.bodyRet
  | exit _ => exact h.runWord fun _ _ h => h.bodyExit
  | switch _ => exact h.runWord fun _ _ h => h.bodySwitch
  | loop _ => exact h.runWord fun _ _ h => h.bodyLoop
  | lpop _ => exact h.runWord fun _ _ h => h.bodyLpop
  | lpopDrop _ => exact h.runWord fun _ _ h => h.bodyLpopDrop
  | yield _ => exact h.runWord fun _ _ h => h.bodyYield
  | waittAbs _ => exact h.runWord fun _ _ h => h.bodyWaittAbs
  | waittRel _ => exact h.runWord fun _ _ h => h.bodyWaittRel
  | iadd _ => exact h.runWord fun _ _ h => h.vecBody
  | iadc _ => exact h.runWord fun _ _ h => h.vecBody
  | isub _ => exact h.runWord fun _ _ h => h.vecBody
  | imul _ => exact h.runWord fun _ _ h => h.vecBody
  | imulh _ => exact h.runWord fun _ _ h => h.vecBody
  | imad _ => exact h.runWord fun _ _ h => h.vecBody
  | imin _ => exact h.runWord fun _ _ h => h.vecBody
  | imax _ => exact h.runWord fun _ _ h => h.vecBody
  | iabs _ => exact h.runWord fun _ _ h => h.vecBody
  | icmp _ => exact h.runWord fun _ _ h => h.vecBody
  | lea _ => exact h.runWord fun _ _ h => h.vecBody
  | and _ => exact h.runWord fun _ _ h => h.vecBody
  | or _ => exact h.runWord fun _ _ h => h.vecBody
  | xor _ => exact h.runWord fun _ _ h => h.vecBody
  | shl _ => exact h.runWord fun _ _ h => h.vecBody
  | shr _ => exact h.runWord fun _ _ h => h.vecBody
  | sar _ => exact h.runWord fun _ _ h => h.vecBody
  | bfe _ => exact h.runWord fun _ _ h => h.vecBody
  | bfi _ => exact h.runWord fun _ _ h => h.vecBody
  | popc _ => exact h.runWord fun _ _ h => h.vecBody
  | clz _ => exact h.runWord fun _ _ h => h.vecBody
  | brev _ => exact h.runWord fun _ _ h => h.vecBody
  | fadd _ => exact h.runWord fun _ _ h => h.vecBody
  | fsub _ => exact h.runWord fun _ _ h => h.vecBody
  | fmul _ => exact h.runWord fun _ _ h => h.vecBody
  | ffma _ => exact h.runWord fun _ _ h => h.vecBody
  | fmin _ => exact h.runWord fun _ _ h => h.vecBody
  | fmax _ => exact h.runWord fun _ _ h => h.vecBody
  | fminn _ => exact h.runWord fun _ _ h => h.vecBody
  | fmaxn _ => exact h.runWord fun _ _ h => h.vecBody
  | fcmp _ => exact h.runWord fun _ _ h => h.vecBody
  | fclass _ => exact h.runWord fun _ _ h => h.vecBody
  | frnd _ => exact h.runWord fun _ _ h => h.vecBody
  | frndX _ => exact h.runWord fun _ _ h => h.vecBody
  | fcvt _ => exact h.runWord fun _ _ h => h.vecBody
  | icvt _ => exact h.runWord fun _ _ h => h.vecBody
  | dsubs _ => exact h.runWord fun _ _ h => h.vecBody
  | mov _ => exact h.runWord fun _ _ h => h.bodyMov
  | movi _ => exact h.runWord fun _ _ h => h.vecBody
  | sel _ => exact h.runWord fun _ _ h => h.vecBody
  | plop _ => exact h.runWord fun _ _ h => h.vecBody
  | pmov _ => exact h.runWord fun _ _ h => h.vecBody
  | perm _ => exact h.runWord fun _ _ h => h.crossBody
  | bcst _ => exact h.runWord fun _ _ h => h.crossBody
  | vote _ => exact h.runWord fun _ _ h => h.crossBody
  | redx _ => exact h.runWord fun _ _ h => h.crossBody
  | scanx _ => exact h.runWord fun _ _ h => h.crossBody
  | xeq _ => exact h.runWord fun _ _ h => h.bodyXeq
  | logc _ => exact h.runWord fun _ _ h => h.xfnBody
  | expc _ => exact h.runWord fun _ _ h => h.xfnBody
  | lscl _ => exact h.runWord fun _ _ h => h.xfnBody
  | fsin _ => exact h.runWord fun _ _ h => h.xfnBody
  | fcos _ => exact h.runWord fun _ _ h => h.xfnBody
  | actv _ => exact h.runWord fun _ _ h => h.xfnBody
  | rcp _ => exact h.runWord fun _ _ h => h.xfnBody
  | rsq _ => exact h.runWord fun _ _ h => h.xfnBody
  | ld _ => exact h.runWord fun _ _ h => h.memBody
  | st _ => exact h.runWord fun _ _ h => h.memBody
  | lds _ => exact h.runWord fun _ _ h => h.memBody
  | sts _ => exact h.runWord fun _ _ h => h.memBody
  | atom _ => exact h.runWord fun _ _ h => h.memBody
  | atoms _ => exact h.runWord fun _ _ h => h.memBody
  | red _ => exact h.runWord fun _ _ h => h.memBody
  | fence _ => exact h.runWord fun _ _ h => h.bodyFence
  | cctlWb _ => exact h.runWord fun _ _ h => h.bodyCctlWb
  | cctlWbinv _ => exact h.runWord fun _ _ h => h.bodyCctlWbinv
  | cctlIinv _ => exact h.runWord fun _ _ h => h.bodyCctlIinv
  | cctlWball _ => exact h.runWord fun _ _ h => h.bodyCctlWball
  | cctlIinvall _ => exact h.runWord fun _ _ h => h.bodyCctlIinvall
  | cctlPf _ => exact h.runWord fun _ _ h => h.bodyCctlPf
  | samp _ => exact h.runWord fun _ _ h => h.bodySamp
  | ldw _ => exact h.runWord fun _ _ h => h.memBody
  | wset _ => exact h.runWord fun _ _ h => h.bodyWset
  | cpy _ => exact h.runWord fun _ _ h => h.copyBody
  | cpys _ => exact h.runWord fun _ _ h => h.copyBody
  | cseal _ => exact h.runWord fun _ _ h => h.bodyCseal
  | cwaitRel _ => exact h.runWord fun _ _ h => h.cwaitBody
  | cwaitLnd _ => exact h.runWord fun _ _ h => h.cwaitBody
  | town _ => exact h.runWord fun _ _ h => h.bodyTown
  | binit _ => exact h.runWord fun _ _ h => h.bodyBinit
  | barv _ => exact h.runWord fun _ _ h => h.bodyBarv
  | bwait _ => exact h.runWord fun _ _ h => h.bodyBwait
  | bsync _ => exact h.runWord fun _ _ h => h.bodyBsync
  | tspawn _ => exact h.runWord fun _ _ h => h.bodyTspawn
  | qinit _ => exact h.runWord fun _ _ h => h.bodyQinit
  | qpush _ => exact h.queueWord fun _ _ h => h.pushBody
  | qpushC _ => exact h.queueWord fun _ _ h => h.pushBody
  | qpushAmp _ => exact h.queueWord fun _ _ h => h.bodyQpushAmp
  | qpushClose _ => exact h.queueWord fun _ _ h => h.bodyQpushClose
  | qpop _ => exact h.queueWord fun _ _ h => h.popBody
  | qpopE _ => exact h.queueWord fun _ _ h => h.popBody
  | macq _ => exact h.runWord fun _ _ h => h.bodyMacq
  | mrel _ => exact h.runWord fun _ _ h => h.bodyMrel
  | mma _ => exact h.runWord fun _ _ h => h.bodyMma
  | mzero _ => exact h.runWord fun _ _ h => h.bodyMzero
  | mdrn _ => exact h.runWord fun _ _ h => h.bodyMdrn
  | mlda _ => exact h.runWord fun _ _ h => h.bodyMlda
  | apop _ => exact h.runWord fun _ _ h => h.bodyApop
  | geval _ => exact h.runWord fun _ _ h => h.bodyGeval
  | gcfg _ => exact h.runWord fun _ _ h => h.bodyGcfg
  | rast _ => exact h.runWord fun _ _ h => h.bodyRast
  | bina _ => exact h.runWord fun _ _ h => h.binaBody
  | binaClr _ => exact h.runWord fun _ _ h => h.binaBody
  | occr _ => exact h.runWord fun _ _ h => h.occrBody
  | occrClr _ => exact h.runWord fun _ _ h => h.occrBody
  | rgacq _ => exact h.runWord fun _ _ h => h.bodyRgacq
  | rgrelPub _ => exact h.execRgrelPub
  | rgrelRel _ => exact h.runWord fun _ _ h => h.bodyRgrelRel
  | rghold _ => exact h.runWord fun _ _ h => h.bodyRghold
  | sread _ => exact h.runWord fun _ _ h => h.bodySread
  | swrite _ => exact h.runWord fun _ _ h => h.bodySwrite
  | trap _ => exact h.runWord fun _ _ h => h.bodyTrap
  | tret _ => exact h.runWord fun _ _ h => h.bodyTret
  | tretEnd _ => exact h.runWord fun _ _ h => h.bodyTretEnd
  | bkpt _ => exact h.runWord fun _ _ h => h.bodyBkpt
  | tlbiPage _ => exact h.runWord fun _ _ h => h.bodyTlbiPage
  | tlbiAsid _ => exact h.runWord fun _ _ h => h.bodyTlbiAsid
  | tlbiAll _ => exact h.runWord fun _ _ h => h.bodyTlbiAll
  | ctxsvCopy _ => exact h.runWord fun _ _ h => h.bodyCtxsvCopy
  | ctxsvRel _ => exact h.runWord fun _ _ h => h.bodyCtxsvRel
  | ctxsvWg _ => exact h.runWord fun _ _ h => h.bodyCtxsvWg
  | ctxldRegs _ => exact h.runWord fun _ _ h => h.bodyCtxldRegs
  | ctxldFull _ => exact h.runWord fun _ _ h => h.bodyCtxldFull
  | ctxldWg _ => exact h.runWord fun _ _ h => h.bodyCtxldWg
  | roleq _ => exact h.runWord fun _ _ h => h.bodyRoleq
  | launchQueueWrite _ => exact h.writeLqt
  | launchAdmission => exact h.execLaunchAdmission
  | gangStart _ _ => exact h.execGangStart
  | workgroupExited _ _ => exact h.execWorkgroupExited
  | pickerDecision _ _ => exact h.pickIf
  | agingPromotion _ _ _ _ => exact h.execAgingPromotion
  | starvedBucket _ _ _ _ => exact h.execStarvedBucket
  | classPreemption _ _ => exact h.execClassPreemption
  | threadWake _ => exact h.execThreadWake
  | waittWake _ => exact h.execWaittWake
  | registerSpill _ _ => exact h.execRegisterSpill
  | registerRefill _ _ => exact h.execRegisterRefill
  | callStackTransfer _ => exact h.execCallStackTransfer
  | pageWalk _ _ _ _ => exact h.execPageWalk
  | faultRecord => exact h.execFaultRecord
  | faultAnswerRetry _ => exact h.execFaultAnswerRetry
  | faultAnswerFail _ => exact h.execFaultAnswerFail
  | faultBufferConfig _ => exact h.writeFaultBuffer
  | detectionStallEnd _ => exact h.execDetectionStallEnd
  | mmxCapacityTimeout _ => exact h.execMmxCapacityTimeout
  | tspawnTimeout _ _ => exact h.execTspawnTimeout
  | rowQueueTimeout _ => exact h.execRowQueueTimeout
  | taskDispatch _ _ _ => exact h.execTaskDispatch
  | stripAdmission _ => exact h.execStripAdmission
  | chainFinish _ _ => exact h.execChainFinish
  | ringPublish _ _ => exact h.execRingPublish
  | slotSettleAtExit _ _ => exact h.execSlotSettleAtExit
  | serialiserStripNeed _ => exact h.execSerialiserStripNeed
  | serialiserLine _ => exact h.execSerialiserLine
  | linkTraining _ _ _ _ => exact h.ite h.putSerialiser
  | encoderSuperblockRow _ => exact h.execEncoderSuperblockRow
  | bsrdWrite _ _ => exact h.ite h.writeBsrd
  | planEnable _ _ => exact h.writePlan
  | planDisable _ => exact h.writePlan
  | dtcTick => exact h.tick
  | adjWrite _ => exact h.writeAdj
  | stepvWrite _ => exact h.writeStepv
  | ptpEventTimestamp _ => exact h.ite h.modFw
  | ptpAnnounceTimeout _ => exact h.execPtpAnnounceTimeout
  | copyLanding _ _ => exact h.execCopyLanding
  | passGrant _ => exact h.execPassGrant
  | passComplete _ => exact h.execPassComplete
  | grammarEvaluation _ => exact h.execGrammarEvaluation
  | evaluationEnd _ => exact h.execEvaluationEnd
  | evaluationRowPush _ _ => exact h.execEvaluationRowPush
  | drainExecution _ => exact h.accEvent
  | loadBackExecution _ => exact h.accEvent
  | accumulatorClear _ => exact h.accEvent
  | pitchRelease _ _ => exact h.execPitchRelease
  | freezeRequest _ _ => exact h.ite h.writeFreeze
  | freezeDone _ => exact h.setDreg.ite h
  | rastOperation _ => exact h.execRastOperation
  | handlerContextStart _ => exact h.execHandlerContextStart
  | holdRequest _ _ _ _ => exact h.writeHold
  | serviceContextStart _ _ => exact h.execServiceContextStart
  | restoreGo _ => exact h.restore
  | correctedError _ _ => exact h.execCorrectedError
  | uncorrectableError _ => exact h.execUncorrectableError
  | unitRetirement _ _ => exact h.execUnitRetirement
  | clusterStopTrigger _ _ _ => exact h.ite h.triggerStop
  | clusterStopArrival _ => exact h.execClusterStopArrival
  | stopComplete _ => exact h.execStopComplete
  | thaw _ => exact h.execThaw
  | dump _ => exact h.execDump
  | debugStep _ => exact h.execDebugStep
  | sampleRecord _ _ => exact h.execSampleRecord
  | traceSummary _ => exact h.execTraceSummary
  | trailEnable _ _ => exact h.ite h.writeTrail
  | replayDivergence _ => exact h.execReplayDivergence
  | checkpointGo _ => exact h.checkpointGo
  | checkpointComplete _ _ => exact h.execCheckpointComplete
  | hostRdmaAccess _ _ _ _ => exact h.execHostRdmaAccess
  | ringDescriptorWrite _ _ _ => exact h.ringDescWrite
  | attestationRequest _ => exact h.execAttestationRequest
  | bringUp _ => exact h.execBringUp
  | thermalHold _ => exact h.modFw.ite (h.modFw.ite h)
  | thermalTrip _ => exact h.powerDown.ite h
  | powerCapWrite _ => exact h.modFw.ite h
  | registerWrite _ _ _ => exact h.ite h.devWrite
  | memoryAccessPerformed _ _ => exact h.execMemoryAccessPerformed
  | xfnResultWritten _ => exact h.modThread
  | checkpointRestore => exact h.execCheckpointRestore
  | firmwareUpload _ => exact h.modFw.ite h
  | ptpMessageReceived _ _ => exact h.execPtpMessageReceived
  | rdmaConnectionSetup _ _ => exact h.modFw
  | _ => exact h.runWord fun _ _ h => h.crossBody -- MATCH

/-! ### The step -/

theorem turnEnd {before r} (h : Outcome.tidy r) : Outcome.tidy (Machine.afterTurn before r) := by
  cases r with
  | next s => exact tidy.afterTurn h
  | fault f => trivial
  | refused r => trivial

theorem pipeTurn {core pipe} (h : tidy s) : Outcome.tidy (Machine.pipeTurn s core pipe) := by
  unfold Machine.pipeTurn
  have hr : (s.issueTurn core pipe).tidy := h.issueTurn
  split
  next s1 e => exact turnEnd (hr.idle e)
  next i s1 e => exact turnEnd (hr.word e).exec

theorem eventTurn {i} (h : tidy s) : Outcome.tidy (Machine.eventTurn s i) := by
  unfold Machine.eventTurn
  split
  next u e => exact h.hostHeld.some e
  · exact h.exec

theorem step (h : tidy s) : Outcome.tidy (Machine.step s) := by
  unfold Machine.step
  split
  exacts [h.same.exec, h.same.eventTurn, h.same.pipeTurn]

end tidy

/-- Settles O42: what a step keeps is the canonical form of each memory it may write, and of the store of the checkpoint image. -/
theorem stepTidy : Obligations.StepTidy := fun _ u h e => (e ▸ h.step : Outcome.tidy (.next u))

end Sys2Proof

/-! XFN words of a lone pack complete with their values outstanding (R142). Before them, what any body comes to on a lone pack. -/

namespace Sys2Proof

open Machine

section

variable {i : Instr} {s s1 u : State} {p : Pack} {t : Thread}

/-! ## Bodies of a lone pack -/

/-- A word whose body is done with the one thread of a lone pack. -/
theorem lone_done_of_body {body : BodyFn} {fate : Fate} {after : List TrapInfo} (h : Lone i s p t)
    (hb : body (ctxOf p i) s = .done (u.kill t.name i) [{ name := t.name, fate := fate, after := after }]) :
    runWord i body s = finish i p t.name s u fate after := by
  rw [runWord_of_runs _ h.go, hb]
  rfl

/-- No thread lacks what a word without conditions needs. -/
theorem lacks_noNeed (c : Ctx) (s : State) : c.lacks noNeed s = false := by
  unfold Ctx.lacks
  rw [List.any_eq_false]
  intro n _
  cases s.thread? n <;> simp [noNeed]

/-- The thread of a lone pack passes on, in any state that still holds it as it is. -/
theorem passOn_lone (h : Lone i s p t) (found : u.thread? t.name = some t) :
    passOn (ctxOf p i) u = .done (u.kill t.name i) [{ name := t.name, fate := .next, after := [] }] := by
  have threads : (ctxOf p i).pack.threads = [t.name] := h.threads
  simp only [passOn, forEach, eachThread, lacks_noNeed, Bool.false_eq_true, if_false, threads, List.foldl_cons, List.foldl_nil, Ctx.part, found,
    h.active, if_true]
  rfl

/-- Where nothing is logged or replayed for the thread of a lone pack, its word waits for no entry of the trail log. -/
theorem gated_lone {entry : Ctx → State → Thread → Option Entry} {body : BodyFn} (h : Lone i s p t)
    (calm : ∀ x, entry (ctxOf p i) s t = some x → unwatched s x.1 = true) : gated entry body (ctxOf p i) s = body (ctxOf p i) s := by
  unfold gated
  simp only [lone_actives h, List.filterMap_cons, List.filterMap_nil, h.found, Option.bind_some]
  cases e : entry (ctxOf p i) s t with
  | none => simp [trailAll_nil]
  | some x => simp [trailAll_one (calm x e)]

/-- An input of a thread is the value it reads where nothing is logged or replayed (R316). -/
theorem trailInput_none {k : Nat} (calm : unwatched s k = true) (core slot wti src v : Nat) : s.trailInput k core slot wti src v = (v, s) := by
  have live : s.replaying k = false := by
    unfold unwatched at calm
    simp only [Bool.and_eq_true, Bool.not_eq_true'] at calm
    exact calm.2
  simp [State.trailInput, live, trail_none calm]

/-! ## XFN words (R142) -/

/-- An XFN word is run thread by thread with its own function. -/
theorem xfnResult_exec {c : Ctx} {o : VOp} {sp : VSpec} {r : VOut} (h : xfnResult i c o sp t = some r) :
    ∃ f, r = f (vecIn c o sp t) ∧ ∀ s, exec i s = .next (runWord i (xfnBody f) s) := by
  cases i with
  | logc | expc | lscl | fsin | fcos | actv | rcp | rsq => cases h; exact ⟨_, rfl, fun _ => rfl⟩
  | _ => cases h

/-- A thread whose XFN result is outstanding: flags and predicates are set at once. -/
def withOutstanding (o : VOp) (r : VOut) (x : Thread) : Thread :=
  (({ x with xfn := x.xfn ++ [{ reg := o.d.toNat, value := BitVec.ofNat 32 r.val }] } : Thread).setPreds r.preds).addFlags r.flags

theorem xfnBody_done {f : VIn → VOut} {o : VOp} {sp : VSpec} (spec : vecSpec i = some (o, sp)) (h : Lone i s p t) (room : t.xfn.length < 63) :
    runWord i (xfnBody f) s =
      finish i p t.name s (s.modThread t.name (withOutstanding o (f (vecIn (ctxOf p i) o sp t)))) .next
        (fpAfter t.fctl (f (vecIn (ctxOf p i) o sp t)).flags) := by
  have spec' : vecSpec (ctxOf p i).instr = some (o, sp) := spec
  refine lone_done_of_body h ?_
  simp only [xfnBody, spec']
  exact eachThread_lone h (decide_eq_true room) rfl

end

/-- Settles O23: every XFN word has one body, and the thread's count has room. -/
theorem xfnWords : Obligations.XfnWords := by
  intro i o sp s p t r spec lone result room
  obtain ⟨f, rfl, run⟩ := xfnResult_exec result
  rw [run, xfnBody_done spec lone room]
  rfl

end Sys2Proof

/-! The words of the system complete for a lone pack: special registers, translation invalidation and returns from a trap (R159, R250, R298, R407,
R424, R429, R432, R434). -/

namespace Sys2Proof

open Machine

section

variable {i : Instr} {s s1 u : State} {p : Pack} {t : Thread}

/-! ## Special registers (R250, R429) -/

theorem special_dtc (s : State) (t : Thread) (ch : Nat) : s.special t 0x20 ch = s.dtcNs := rfl

/-- A thread's SREAD where nothing is logged or replayed: only a read of DTC latches the fraction. -/
theorem sreadThread_calm {o : SyOp} {c : Ctx} (calm : unwatched s (clusterOf t.name.core) = true) :
    sreadThread o c s t = .ok (s.modThread t.name fun x =>
      let y := x.setRegs o.d.toNat (cutRegs (s.special t o.sub12.toNat o.imm.toNat) (specialRegs o.sub12.toNat))
      if o.sub12.toNat == 0x20 then { y with dtcf := BitVec.ofNat 32 s.dtc96 } else y) := by
  have regs : (if [0x20, 0x22, 0x33].contains o.sub12.toNat then 2 else 1) = specialRegs o.sub12.toNat := by simp [specialRegs]
  unfold sreadThread
  simp only [trailInput_none calm, regs]
  cases inputCode o.sub12.toNat <;> rfl

theorem sread_done {o : SyOp} (h : Lone (.sread o) s p t) (calm : unwatched s (clusterOf t.name.core) = true)
    (hu : sreadThread o (ctxOf p (.sread o)) s t = .ok u) : runWord (.sread o) (bodySread o) s = finish (.sread o) p t.name s u .next := by
  refine lone_done_of_body h ((gated_lone h fun x hx => ?_).trans (eachThread_lone h rfl hu))
  obtain ⟨k, -, rfl⟩ := Option.map_eq_some_iff.mp hx
  exact calm

/-! ## Translation invalidation (R159, R432) -/

/-- TLBI.ALL waits for no access that was not translated. -/
theorem access_all {x : Outstanding} (h : x.tr = none) : TlbiRange.all.access x = false := by simp [TlbiRange.access, h]

theorem tlbDrop_all (s : State) : s.tlbDrop [.all] = { s with store := { s.store with tlb := [], walks := [] } } := by
  simp [State.tlbDrop, TlbiRange.trans, TlbiRange.walks, TlbiRange.hits]

theorem tlbDrop_space (s : State) (a : Nat) : s.tlbDrop [.space a] =
    { s with store := { s.store with tlb := s.store.tlb.filter (fun x => !(x.asid == a)), walks := s.store.walks.filter (fun x => !(x.asid == a)) } } := by
  simp [State.tlbDrop, TlbiRange.trans, TlbiRange.walks, TlbiRange.hits]

theorem tlbDrop_page (s : State) (a va : Nat) : s.tlbDrop [.page a va] =
    { s with store := { s.store with
      tlb := s.store.tlb.filter (fun x => !(x.asid == a && (x.va ≤ va && va < x.va + x.size)))
      walks := s.store.walks.filter (fun x => !(x.asid == a && x.covers x.asid va)) } } := by
  simp [State.tlbDrop, TlbiRange.trans, TlbiRange.walks, TlbiRange.hits]

/-- A TLBI of a lone pack, none of whose accesses used a translation that it removes, retires at once. -/
theorem tlbiBody_fresh {range : Ctx → Thread → TlbiRange} (h : Lone i s p t) (fresh : p.tlbi = none)
    (quiet : ∀ x ∈ s.store.outst, (range (ctxOf p i) t).access x = false) :
    runWord i (tlbiBody range) s = finish i p t.name s (s.tlbDrop [range (ctxOf p i) t]) .next := by
  refine lone_done_of_body h ?_
  have none_ : s.store.outst.filter (fun x => (range (ctxOf p i) t).access x) = [] := by simpa using quiet
  have fresh' : (ctxOf p i).pack.tlbi = none := fresh
  simp only [tlbiBody, fresh', lone_actives h, List.filterMap_cons, List.filterMap_nil, h.found, Option.map_some, List.any_cons, List.any_nil,
    Bool.or_false, none_, List.map_nil, List.isEmpty_nil, if_true]
  exact passOn_lone h h.found

/-- Once the accesses that a TLBI waits for have been performed it retires. -/
theorem tlbiBody_waited {range : Ctx → Thread → TlbiRange} {l : List Nat} (h : Lone i s p t) (removed : p.tlbi = some l)
    (performed : ∀ x ∈ s.store.outst, x.id ∉ l) : runWord i (tlbiBody range) s = finish i p t.name s s .next := by
  refine lone_done_of_body h ?_
  have none_ : s.store.outst.any (fun x => l.contains x.id) = false := by simpa using performed
  have removed' : (ctxOf p i).pack.tlbi = some l := removed
  simp only [tlbiBody, removed', none_, Bool.false_eq_true, if_false]
  exact passOn_lone h h.found

/-! ## Returns from a trap (R298) -/

/-- A prefix half that a record gives back: one that stood at the resume point of the context's start (R298). -/
def recordHalf (h : Handling) (b : List Byte) (hi lo : Nat) : BitVec 28 :=
  if resumeAt (fieldOf b 0x10 8) = h.entryResume then BitVec.ofNat 28 (bits (fieldOf b 0x38 8) hi lo) else 0

/-- Has an instruction comparator stopped the thread (R307)? -/
def atComparator (v : Thread) : Bool := match v.trap with | some r => r.info.cause == .bkpt && 0x1000 ≤ r.info.tval.toNat | none => false

/-- A return whose record names a legal resume point and asks for no pending cause. -/
theorem tretDo_resumes {h : Handling} {v : Thread} {pa va : Nat} {b : List Byte}
    (legal : bits (fieldOf b 0x10 8) 59 57 = 0 ∧ bits (fieldOf b 0x10 8) 2 0 = 0) (noPending : keptIn h.kept (bits (fieldOf b 0 8) 11 8) = []) :
    s.tretDo t h v pa va b =
      ((s.logBatches t).dropThread t.name).returnTrap v.name (resumeAt (fieldOf b 0x10 8)) (recordHalf h b 27 0) (recordHalf h b 55 28)
        (atComparator v && resumeAt (fieldOf b 0x10 8) == h.entryResume)
        (resumeAt (fieldOf b 0x10 8) == h.entryResume && v.trap.any (·.skip)) := by
  obtain ⟨high, low⟩ := legal
  simp [State.tretDo, high, low, noPending, resumeAt, recordHalf, atComparator]
  rfl

/-- A return whose record is read at its home, unseen by the debug unit. -/
theorem tretTry_reads {h : Handling} {v : Thread} {g : Workgroup} {pa tr : Nat} {b : List Byte} (context : t.handling = some h)
    (trapped : (t.handled.bind s.thread?).filter (·.st != .exited) = some v) (group : s.groupOf v.name = some g)
    (reach : s.xlat (.core t.name.core) (s.asidOf t.name) (s.recordVa g h.recSlot) 1 { write := false, thread := true, bytes := 8 } = .ok pa tr)
    (sound : s.poisoned pa 64 = false) (read : s.homeRead t.name.core pa 64 = (b, s1)) (calm : s.watchpoints = []) :
    s.tretTry t = .over (s1.tretDo t h v pa (s.recordVa g h.recSlot) b) := by
  have calm1 : s1.watchpoints = [] := by
    have regs := homeRead_dregs calm t.name.core pa 64
    rw [read] at regs
    exact (watchpoints_of regs).trans calm
  unfold State.tretTry
  simp only [context, trapped, group, reach, sound, Bool.false_eq_true, if_false, walkSeen_none calm, read, watch_none calm1]

/-- A context whose thread is gone, and a service context, have no record to read (R303; DEDUCED, log 85). -/
theorem tretTry_alone {h : Handling} (context : t.handling = some h)
    (alone : (t.handled.bind s.thread?).filter (·.st != .exited) = none) : s.tretTry t = .over ((s.logBatches t).dropThread t.name) := by
  unfold State.tretTry
  simp only [context, alone]

/-- TRET of a context that ends. -/
theorem tret_over {o : SyOp} {h : Handling} (lone : Lone (.tret o) s p t) (context : t.handling = some h)
    (ready : endNeed (ctxOf p (.tret o)) s t = true) (ends : s.tretTry t = .over u) :
    runWord (.tret o) (bodyTret o) s = finish (.tret o) p t.name s u .gone :=
  lone_done lone ready (by simp [context, ends])

theorem tretEnd_over {o : SyOp} {h : Handling} (lone : Lone (.tretEnd o) s p t) (context : t.handling = some h)
    (ready : endNeed (ctxOf p (.tretEnd o)) s t = true) :
    runWord (.tretEnd o) (bodyTretEnd o) s = finish (.tretEnd o) p t.name s (s.tretEnd t.name) .gone :=
  lone_done lone ready (by simp [context])

end

/-- Settles O24, clause by clause. -/
theorem systemWords : Obligations.SystemWords := by
  intro i s p t s1 fate after lone rule
  cases rule with
  | nop | roleq | trap | bkpt => exact congrArg Host.Outcome.next (lone_done lone rfl rfl)
  | sread o calm other => exact congrArg Host.Outcome.next (sread_done lone calm (by simp [sreadThread_calm calm, other]))
  | sreadDtc o calm dtc =>
    exact congrArg Host.Outcome.next (sread_done lone calm (by rw [sreadThread_calm calm, dtc, special_dtc]; rfl))
  | fctl o reg legal => exact congrArg Host.Outcome.next (lone_done lone rfl ((if_pos (by simp [reg])).trans (if_pos legal)))
  | fstat o reg legal => exact congrArg Host.Outcome.next (lone_done lone rfl ((if_neg (by simpa using reg)).trans (if_pos legal)))
  | page o fresh quiet =>
    rw [← tlbDrop_page]
    exact congrArg Host.Outcome.next (tlbiBody_fresh lone fresh quiet)
  | asid o fresh quiet =>
    rw [← tlbDrop_space]
    exact congrArg Host.Outcome.next (tlbiBody_fresh lone fresh quiet)
  | all o fresh quiet =>
    rw [← tlbDrop_all]
    exact congrArg Host.Outcome.next (tlbiBody_fresh lone fresh fun x hx => access_all (quiet x hx))
  | waited _ o l word removed performed =>
    rcases word with rfl | rfl | rfl <;> exact congrArg Host.Outcome.next (tlbiBody_waited lone removed performed)
  | tretEnd o h context ready => exact congrArg Host.Outcome.next (tretEnd_over lone context ready)
  | tret o h v g pa pt tr b s1 context ready trapped group reach sound read calm legal noPending place =>
    subst place
    refine congrArg Host.Outcome.next ((tret_over lone context ready (tretTry_reads context trapped group reach sound read calm)).trans ?_)
    rw [tretDo_resumes legal noPending]
    rfl
  | tretAlone o h context ready alone => exact congrArg Host.Outcome.next (tret_over lone context ready (tretTry_alone context alone))

end Sys2Proof

/-! The results of the integer words, element by element (R124, R129, R384). -/

namespace Sys2Proof

open Machine

/-! ## Elements of integer words (R124, R129) -/

theorem joinElems_lt (w : Nat) (l : List Nat) : joinElems w l < 2 ^ (w * l.length) := by
  induction l with
  | nil => simp [joinElems]
  | cons x r ih =>
    have hx : x % 2 ^ w < 2 ^ w := Nat.mod_lt _ (Nat.two_pow_pos w)
    calc joinElems w (x :: r) < 2 ^ w + 2 ^ w * joinElems w r := Nat.add_lt_add_right hx _
      _ = 2 ^ w * (joinElems w r + 1) := by ring
      _ ≤ 2 ^ w * 2 ^ (w * r.length) := Nat.mul_le_mul_left _ ih
      _ = 2 ^ (w * (x :: r).length) := by rw [List.length_cons, Nat.mul_succ, Nat.add_comm, Nat.pow_add]

/-- Each element of joined elements is the one joined, modulo its width. -/
theorem elem_joinElems (w : Nat) (l : List Nat) (k : Nat) : elem w (joinElems w l) k = l.getD k 0 % 2 ^ w := by
  have hw := Nat.two_pow_pos w
  induction l generalizing k with
  | nil => simp [elem, joinElems]
  | cons x r ih =>
    cases k with
    | zero => simp [elem, joinElems]
    | succ k =>
      have tail : joinElems w (x :: r) / 2 ^ w = joinElems w r := by
        rw [joinElems, Nat.add_mul_div_left _ _ hw, Nat.div_eq_of_lt (Nat.mod_lt _ hw), Nat.zero_add]
      rw [List.getD_cons_succ, ← ih k, elem, elem, Nat.mul_succ, Nat.add_comm, Nat.pow_add, ← Nat.div_div_eq_div_mul, tail]

theorem readInt_elem (sg : Bool) (w x i : Nat) : readInt sg w (elem w x i) = elemInt sg w x i := by
  unfold readInt elemInt elem
  cases sg with
  | false => simp
  | true =>
    simp only [sext, Nat.mod_mod, Bool.true_and, decide_eq_true_eq, if_true, Nat.cast_pow, Nat.cast_ofNat]
    split <;> split <;> omega

theorem wrapInt_cast (w : Nat) (r : Int) : ((wrapInt w r : Nat) : Int) = r % (2 ^ w : Nat) :=
  Int.toNat_of_nonneg (Int.emod_nonneg _ (by positivity))

theorem wrapInt_lt (w : Nat) (r : Int) : wrapInt w r < 2 ^ w := by
  have h := Int.emod_lt_of_pos r (show (0 : Int) < (2 ^ w : Nat) by positivity)
  rw [← wrapInt_cast] at h
  exact Int.ofNat_lt.mp h

theorem satN_eq {lo hi : Int} (h : lo ≤ hi) (x : Int) : satN x lo hi = max lo (min x hi) := by
  unfold satN
  split
  · omega
  · split <;> omega

theorem leastInt_le_greatestInt (sg : Bool) (w : Nat) : leastInt sg w ≤ greatestInt sg w := by
  have h1 := Nat.two_pow_pos w
  have h2 := Nat.two_pow_pos (w - 1)
  cases sg
  · simp only [leastInt, greatestInt, Bool.false_eq_true, if_false]; omega
  · simp only [leastInt, greatestInt, if_true]; omega

theorem clampInt_eq (sg : Bool) (w : Nat) (r : Int) : clampInt sg w r = max (leastInt sg w) (min r (greatestInt sg w)) := by
  rw [← satN_eq (leastInt_le_greatestInt sg w)]
  cases sg <;> rfl

/-! ## The rows of R384 -/

/-- What an R384 word stores of an exact result, before it is wrapped: all of it, or under SAT the nearest value of the type. -/
def fitInt (x : VIn) (e : Int) : Int :=
  if x.ctl.sat then max (leastInt (tySigned x.ty) (elemBits x.ty)) (min e (greatestInt (tySigned x.ty) (elemBits x.ty))) else e

section

variable (f : Nat → Int → Int → Int → Int) (x : VIn)

/-- What an R384 row computes for the elements `i` of its operands. -/
def exactElem (i : Nat) : Int :=
  let w := elemBits x.ty
  let sg := tySigned x.ty
  f w (elemInt sg w x.a i) (elemInt sg w x.b i) (elemInt sg w x.c i)

/-- The elements that an R384 row stores. -/
def rowElems : List Nat := (List.range (elemCount x.ty)).map fun i => wrapInt (elemBits x.ty) (fitInt x (exactElem f x i))

theorem intRow_val : (intRow f x).val = joinElems (elemBits x.ty) (rowElems f x) := by
  simp only [intRow, rowElems, fitInt, exactElem, readInt_elem, clampInt_eq]

theorem length_rowElems : (rowElems f x).length = elemCount x.ty := by simp [rowElems]

theorem intRow_lt : (intRow f x).val < 2 ^ (elemBits x.ty * elemCount x.ty) := by
  rw [intRow_val, ← length_rowElems f x]
  exact joinElems_lt _ _

theorem intRow_elem {k : Nat} (hk : k < elemCount x.ty) :
    ((elem (elemBits x.ty) (intRow f x).val k : Nat) : Int) = fitInt x (exactElem f x k) % (2 ^ elemBits x.ty : Nat) := by
  rw [intRow_val, elem_joinElems, List.getD_eq_getElem _ _ (by rwa [length_rowElems])]
  simp only [rowElems, List.getElem_map, List.getElem_range, Nat.mod_eq_of_lt (wrapInt_lt _ _), wrapInt_cast]

end

/-- A word with an exact integer result is a row of R384, and its function is that result. -/
theorem exactInt_row {i : Instr} {c : Ctx} {s : State} {o : VOp} {sp : VSpec} {t : Thread} {r : VOut} {w : Nat} {a b d e : Int}
    (result : vectorResult i c s o sp t = some r) (exact_ : exactInt i w a b d = some e) :
    ∃ f, r = intRow f (vecIn c o sp t) ∧ e = f w a b d := by
  cases i with
  | iadd | isub | imul | imulh | imad | iabs => cases result; cases exact_; exact ⟨_, rfl, rfl⟩
  | imin | imax => cases result; cases exact_; exact ⟨_, rfl, by split <;> omega⟩
  | _ => cases exact_

/-- Settles O50: every word of R384 is a row of one shape, stored element by element. -/
theorem integerResults : Obligations.IntegerResults := by
  intro i c s o sp t r k e result inside x w sg exact_
  obtain ⟨f, rfl, rfl⟩ := exactInt_row result exact_
  exact ⟨intRow_elem f x inside, intRow_lt f x, rfl, rfl⟩

end Sys2Proof

/-! The values of patterns: infinities and NaNs of the floating-point formats, and products of L6 values (R122, R125, R126). -/

namespace Sys2Proof

open Machine

/-! ## Infinities and NaNs (R122) -/

theorem scale2_eq (m : Nat) (e : Int) : scale2 m e = (m * 2 ^ e.toNat, 2 ^ (-e).toNat) := by
  cases e with
  | ofNat k => simp [scale2]
  | negSucc k => simp [scale2, Int.neg_negSucc]

theorem scale2_den_pos (m : Nat) (e : Int) : 0 < (scale2 m e).2 := by
  rw [scale2_eq]
  exact Nat.two_pow_pos _

/-- A scaled significand is at most what it comes to where the exponent is not negative. -/
theorem fin_scale2_le (s : Bool) {m k : Nat} {e : Int} (h : m * 2 ^ e.toNat ≤ k) :
    ∃ t n d, Ex.fin s (scale2 m e).1 (scale2 m e).2 = .fin t n d ∧ 0 < d ∧ n ≤ k * d := by
  refine ⟨_, _, _, rfl, scale2_den_pos m e, Nat.le_trans ?_ (Nat.le_mul_of_pos_right k (scale2_den_pos m e))⟩
  rw [scale2_eq]
  exact h

namespace Machine

variable {f : Fmt} {b : Nat}

theorem Fmt.val_inf (hf : f.hasInf = true) (he : expField f b = 2 ^ f.eb - 1) (hm : manField f b = 0) :
    f.val b = .inf (b.testBit f.signBit) := by
  unfold expField at he
  unfold manField at hm
  simp [Fmt.val, hf, he, hm]

theorem Fmt.val_nan (hf : f.hasInf = true) (he : expField f b = 2 ^ f.eb - 1) (hm : manField f b ≠ 0) :
    f.val b = .nan (manField f b < 2 ^ (f.p - 1)) := by
  unfold expField at he
  unfold manField at hm ⊢
  simp [Fmt.val, hf, he, hm]

/-- A pattern that is no infinity and no NaN has the value of its fields, subnormal or normal. -/
theorem Fmt.val_fields (h : (f.hasInf = true ∧ expField f b ≠ 2 ^ f.eb - 1) ∨ (f.hasInf = false ∧ b % 2 ^ f.signBit ≠ f.nan)) :
    f.val b = if expField f b = 0 then .fin (b.testBit f.signBit) (scale2 (manField f b) f.qmin).1 (scale2 (manField f b) f.qmin).2
      else .fin (b.testBit f.signBit) (scale2 (manField f b + 2 ^ f.p) (f.qmin + (expField f b : Int) - 1)).1
        (scale2 (manField f b + 2 ^ f.p) (f.qmin + (expField f b : Int) - 1)).2 := by
  unfold expField manField at *
  rcases h with ⟨hf, he⟩ | ⟨hf, hn⟩
  · simp [Fmt.val, hf, he]
  · simp [Fmt.val, hf, hn]

theorem Fmt.val_finite (hf : f.hasInf = true) (he : expField f b ≠ 2 ^ f.eb - 1) : ∃ s n d, f.val b = .fin s n d ∧ 0 < d := by
  rw [Fmt.val_fields (.inl ⟨hf, he⟩)]
  split
  · exact ⟨_, _, _, rfl, scale2_den_pos _ _⟩
  · exact ⟨_, _, _, rfl, scale2_den_pos _ _⟩

end Machine

/-- A mantissa is below half its range exactly where its highest bit is clear. -/
theorem manField_lt_half {f : Fmt} {b : Nat} (hp : 0 < f.p) : decide (manField f b < 2 ^ (f.p - 1)) = !(manField f b).testBit (f.p - 1) := by
  have whole : manField f b < 2 ^ (f.p - 1 + 1) := by
    rw [Nat.sub_add_cancel hp]
    exact Nat.mod_lt _ (Nat.two_pow_pos _)
  rcases Nat.lt_or_ge (manField f b) (2 ^ (f.p - 1)) with low | high
  · simp [low, Nat.testBit_lt_two_pow low]
  · simp [Nat.not_lt.mpr high, Nat.testBit_of_two_pow_le_and_two_pow_add_one_gt high whole]

theorem infFormats_hasInf {f : Fmt} (h : f ∈ infFormats) : f.hasInf = true ∧ 0 < f.p :=
  (show ∀ f ∈ infFormats, f.hasInf = true ∧ 0 < f.p by decide) f h

/-- F8A has no infinities: its NaN patterns are 0x7F and 0xFF. -/
theorem f8a_nan {b : Nat} (h : b % 128 = 127) : f8a.val b = .nan false := by
  simp [Fmt.val, f8a, Fmt.signBit, h]

/-- Every other F8A pattern is finite, of magnitude up to 448. -/
theorem f8a_finite {b : Nat} (h : b % 128 ≠ 127) : ∃ s n d, f8a.val b = .fin s n d ∧ 0 < d ∧ n ≤ 448 * d := by
  have man : manField f8a b = b % 8 := rfl
  have exp : expField f8a b = b / 8 % 16 := rfl
  have qmin : f8a.qmin = -9 := rfl
  have p : f8a.p = 3 := rfl
  rw [Fmt.val_fields (.inr ⟨rfl, h⟩), man, exp, qmin, p]
  split
  · exact fin_scale2_le _ (by simp; omega)
  · apply fin_scale2_le
    rcases Nat.lt_or_ge (b / 8 % 16) 15 with below | top
    · have scale : (2 : Nat) ^ (-9 + ((b / 8 % 16 : Nat) : Int) - 1).toNat ≤ 2 ^ 4 := Nat.pow_le_pow_right (by decide) (by omega)
      calc _ ≤ 15 * 2 ^ 4 := Nat.mul_le_mul (by omega) scale
        _ ≤ 448 := by decide
    · have e : (-9 + ((b / 8 % 16 : Nat) : Int) - 1).toNat = 5 := by omega
      rw [e]
      omega

/-- Settles O54: the fields of a pattern give its class, and F8A spends its topmost exponent on finite values but for one mantissa. -/
theorem floatClasses : Obligations.FloatClasses := by
  refine ⟨fun f hf b he => ⟨fun hm => ?_, fun hm => ?_⟩, fun f hf b he => ?_, fun b _ h => ?_, fun b _ h1 h2 => ?_, ?_⟩
  · exact Fmt.val_inf (infFormats_hasInf hf).1 he hm
  · rw [Fmt.val_nan (infFormats_hasInf hf).1 he hm, manField_lt_half (infFormats_hasInf hf).2]
  · exact Fmt.val_finite (infFormats_hasInf hf).1 he
  · exact f8a_nan (by omega)
  · exact f8a_finite (by omega)
  · exact ⟨448, 1, by decide, rfl, by decide⟩

/-! ## L6 products (R125, R126) -/

theorem l6Field_range (b : Nat) : -16 ≤ l6Field b ∧ l6Field b ≤ 15 := by
  simp only [l6Field]
  split <;> omega

theorem l6Mul_nonzero {a b : Nat} (ha : a % 64 ≠ 0x30) (hb : b % 64 ≠ 0x30) :
    l6Mul a b = .fin (a.testBit 5 != b.testBit 5) (logL (l6Field a + l6Field b)).1 (logL (l6Field a + l6Field b)).2 := by
  simp [l6Mul, ha, hb]

theorem l6Mul_zero {a b : Nat} (h : a % 64 = 0x30 ∨ b % 64 = 0x30) : l6Mul a b = .fin false 0 1 := by
  rcases h with h | h <;> simp [l6Mul, h]

theorem elemMul_l6 (a b : Nat) : elemMul 4 4 a b = l6Mul a b := rfl

/-- Unless both operands are L6 the product is that of their linear values, an L6 zero among them being +0 (DESIGN CHOICE, log 58). -/
theorem elemMul_linear {fa fb : Nat} (h : fa ≠ 4 ∨ fb ≠ 4) (a b : Nat) : elemMul fa fb a b = (fmtVal fa a).mul (fmtVal fb b) := by
  rcases h with h | h <;> simp [elemMul, h]

theorem fmtVal_l6 (b : Nat) : fmtVal 4 b = l6Val b := rfl

/-- Settles O55: L6 by L6 adds exponent codes, and any other pair multiplies linear values. -/
theorem l6Products : Obligations.L6Products := by
  refine ⟨fun a ha b hb na nb => ⟨?_, ?_⟩, fun a ha b hb zero => ?_, fun a _ fb b linear => ?_, fun b _ fa a linear => ?_, fun _ _ _ => rfl, ?_⟩
  · rw [elemMul_l6, l6Mul_nonzero (by omega) (by omega)]
  · have fa := l6Field_range a
    have fb := l6Field_range b
    omega
  · rw [elemMul_l6, l6Mul_zero (by omega)]
  · rw [elemMul_linear (.inr linear), fmtVal_l6]
  · rw [elemMul_linear (.inl linear), fmtVal_l6]
  · refine ⟨by decide, by decide, ?_⟩
    have sum : (elemMul 4 4 0x06 0x3F).add .rne (.fin false 0x9838 (2 ^ 16)) = .fin true (0x9838 * 3) (2 ^ 16) := by decide
    rw [sum]
    exact ⟨rfl, by decide⟩

end Sys2Proof

/-! Scratchpad words of a lone pack, where nothing watches: the access is performed at its word (DESIGN CHOICE, log 93), and what LDS, STS, ATOMS and
LDW change is the bytes at their address and their own result registers (R144, R341, R388, R391, R430). -/

namespace Sys2Proof

open Machine

section

variable {i : Instr} {s s1 u : State} {p : Pack} {t : Thread} {req : ReqFn} {q : Outstanding} {addr core a : Nat}

/-! ## Requests (R388, R391, R430) -/

/-- A memory word is run with its request. -/
theorem exec_of_request (word : requestOf i = some req) (s : State) : exec i s = .next (runWord i (memBody req) s) := by
  cases i with
  | ld | st | lds | sts | atom | atoms | red | ldw => cases word; rfl
  | _ => cases word

theorem request_thread (word : requestOf i = some req) (c : Ctx) (s : State) (t : Thread) : (req c s t).2.thread = t.name := by
  cases i with
  | ld | st | lds | sts | atom | atoms | red | ldw => cases word; rfl
  | _ => cases word

/-- No reduction goes to a scratchpad. -/
theorem request_scratch_kind (word : requestOf i = some req) {c : Ctx} (scratch : (req c s t).2.peer.isSome = true) :
    (req c s t).2.kind ≠ .red := by
  cases i with
  | ld | st | lds | sts | atom | atoms | ldw => cases word; exact OutKind.noConfusion
  | red => cases word; cases scratch
  | _ => cases word

theorem memNeed_of_room {c : Ctx} (name : (req c s t).2.thread = t.name) (room : countsRoom s (req c s t).2) : memNeed req c s t = true := by
  obtain ⟨loads, stores, region⟩ := room
  rw [name] at loads stores region
  unfold memNeed
  simp only [Bool.and_eq_true, Bool.or_eq_true, beq_iff_eq, decide_eq_true_eq, Bool.not_eq_true', Bool.and_eq_false_iff]
  exact ⟨⟨or_assoc.mpr loads, stores⟩, region⟩

/-! ## Performing a scratchpad access (R170, R178, R304, R308) -/

/-- A granule check that passes changes the conflict records alone. -/
theorem checkGranule_ok {n : ThreadName} {region : Word32} {kind : Acc} {sc : Option Nat} {g : Nat}
    (h : s.checkGranule n region kind sc g = .ok u) : ∃ r, u = s.putCon r := by
  unfold State.checkGranule at h
  extract_lets at h
  split at h
  · cases h
  · split at h
    · cases h
    · split at h
      · cases h
      · cases h
        exact ⟨_, rfl⟩

theorem checkGranules_ok {n : ThreadName} {region : Word32} {kind : Acc} {sc : Option Nat} (l : List Nat)
    (h : s.checkGranules n region kind sc l = .ok u) : ∃ l, u = { s with store := { s.store with conflicts := l } } := by
  induction l generalizing s with
  | nil => cases h; exact ⟨_, rfl⟩
  | cons g r ih =>
    unfold State.checkGranules at h
    split at h
    next v e =>
      obtain ⟨x, rfl⟩ := checkGranule_ok e
      obtain ⟨l, rfl⟩ := ih h
      exact ⟨l, rfl⟩
    · cases h
    · cases h

/-- So does the check of an access. -/
theorem conflictCheck_ok {sc : Option Nat} (h : s.conflictCheck q sc a = .ok u) :
    ∃ l, u = { s with store := { s.store with conflicts := l } } := by
  unfold State.conflictCheck at h
  split at h
  · exact checkGranules_ok _ h
  · cases h; exact ⟨_, rfl⟩

/-- A state with the next place in the order of accesses taken, and with these conflict records. -/
def withRecords (s : State) (l : List ConRec) : State := { s.nextOrder.2 with store := { s.store with conflicts := l } }

/-- That is all the checks of a scratchpad access change. -/
theorem AtScratch.records_eq (may : AtScratch s addr q core a s1) : ∃ l, s1 = withRecords s l := conflictCheck_ok may.records

theorem trailFor_calm {k : Nat} (calm : unwatched s k = true) {e : Option Entry} (at_ : ∀ x, e = some x → x.1 = k) (v : Nat) :
    s.trailFor e v = s := by
  cases e with
  | none => rfl
  | some x => exact trail_none (at_ x rfl ▸ calm) x.2.1 v

theorem scratchEntry_cluster {x : Entry} (h : scratchEntry q core a = some x) : x.1 = clusterOf core := by
  unfold scratchEntry at h
  extract_lets k at h
  split at h
  · cases h; rfl
  · split at h <;> cases h
    rfl

/-- A scratchpad access whose checks have passed, seen by nothing, is performed as `scratchDone` says. -/
theorem performScratch_done (may : AtScratch s addr q core a s1) (calm : unwatched s (clusterOf core) = true) :
    ∃ u, s.nextOrder.2.performScratch q core a = .ok u [] ∧ u.closeIf q = scratchDone q core a s1 := by
  have calm1 : unwatched s1 (clusterOf core) = true := (unwatched_of (conflictCheck_dregs may.records) _).trans calm
  have points := unwatched_points calm1
  have released : (if q.releases then s1.release q.thread.core q.scope else s1).watchpoints = [] := by
    split
    · exact (watchpoints_of (release_dregs points _ _)).trans points
    · exact points
  unfold State.performScratch scratchDone
  simp only [may.owner, may.records, may.sound, Bool.false_eq_true, if_false, trailFor_calm calm1 (fun _ => scratchEntry_cluster)]
  rw [watch_none]
  · exact ⟨_, rfl, rfl⟩
  · split
    · exact (watchpoints_of (scratchStore_dregs ..)).trans released
    · exact (watchpoints_of ((writeResult_dregs ..).trans (scratchStore_dregs ..))).trans released
    · exact (watchpoints_of (writeResult_dregs ..)).trans released

/-! ## The word (R47, R391, R392) -/

theorem plan_scratch (may : AtScratch s addr q core a s1) : s.plan addr q = .now (.scr core a) := by
  unfold State.plan
  simp only [may.aligned, may.local_, may.reach, bne_self_eq_false, Bool.false_eq_true, if_false, if_true]
  rcases may.delivered with h | h
  · rw [h]
  · rw [h]
    cases q.lch <;> rfl

theorem planned_scratch (may : AtScratch s addr q core a s1) : s.planned addr q = .now (.scr core a) := by
  unfold State.planned
  simp only [plan_scratch may, may.order, Bool.false_eq_true, if_false]

/-- The scratchpad access of a thread, performed at its word. -/
theorem memThread_scratch (may : AtScratch s (accessOf req i s p t).1 (accessOf req i s p t).2 core a s1)
    (calm : unwatched s (clusterOf core) = true) :
    memThread req (s.work.waitOrder + 1) (ctxOf p i) s t = .ok (scratchDone (accessOf req i s p t).2 core a s1) .next := by
  obtain ⟨u, performed, closed⟩ := performScratch_done may calm
  have plan := planned_scratch may
  unfold accessOf at plan performed closed ⊢
  unfold memThread
  simp only [plan, performed, closed]
  rfl

/-- The trail log has nothing to say to it. -/
theorem memEntry_scratch_calm (may : AtScratch s (accessOf req i s p t).1 (accessOf req i s p t).2 core a s1)
    (calm : unwatched s (clusterOf core) = true) : ∀ x, memEntry req (ctxOf p i) s t = some x → unwatched s x.1 = true := by
  intro x hx
  have plan := planned_scratch may
  unfold accessOf at plan
  unfold memEntry at hx
  simp only [plan] at hx
  rw [scratchEntry_cluster hx]
  exact calm

/-- A scratchpad word that may perform its access at once retires with it performed. -/
theorem scratchWord_done (h : Lone i s p t) (word : requestOf i = some req) (room : countsRoom s (req (ctxOf p i) s t).2)
    (may : AtScratch s (accessOf req i s p t).1 (accessOf req i s p t).2 core a s1) (calm : unwatched s (clusterOf core) = true) :
    exec i s = .next (finish i p t.name s (scratchDone (accessOf req i s p t).2 core a s1) .next) := by
  have need := memNeed_of_room (request_thread word (ctxOf p i) s t) room
  rw [exec_of_request word]
  exact congrArg Host.Outcome.next (lone_done_of_body h ((gated_lone h (memEntry_scratch_calm may calm)).trans
    (eachThread_lone h need (memThread_scratch may calm))))

/-! ## What a plain access changes -/

/-- A state whose scratchpads hold what an access stores, if it stores. -/
def withStored (q : Outstanding) (core a : Nat) (s : State) : State :=
  match q.kind with
  | .store => s.scratchWrite core a (leBytes q.data.toNat q.bytes)
  | .atomic => s.scratchWrite core a (leBytes (atomNew q.aop (8 * q.bytes) (s.scratchVal core a q.bytes) q.data.toNat) q.bytes)
  | _ => s

/-- A thread with the result of its access, which found `old`. -/
def withLoaded (q : Outstanding) (old : Nat) (t : Thread) : Thread :=
  match q.kind with
  | .store => t
  | .atomic => t.setRegs q.dst.toNat (cutRegs old q.regs)
  | _ => t.setRegs q.dst.toNat (cutRegs (q.extend old) q.regs)

/-- Register writes change registers alone. -/
theorem setRegs_eq (t : Thread) (v : Nat) (l : List Word32) : ∃ r, t.setRegs v l = { t with regs := r } := by
  induction l generalizing t v with
  | nil => exact ⟨_, rfl⟩
  | cons x r ih =>
    unfold Thread.setRegs
    split
    · exact ⟨_, rfl⟩
    · obtain ⟨y, e⟩ := ih (t.setReg v x) (v + 1)
      rw [e]
      unfold Thread.setReg
      split <;> exact ⟨y, rfl⟩

theorem withLoaded_eq (q : Outstanding) (old : Nat) (t : Thread) : ∃ r, withLoaded q old t = { t with regs := r } := by
  unfold withLoaded
  split
  · exact ⟨_, rfl⟩
  · exact setRegs_eq ..
  · exact setRegs_eq ..

theorem writeResult_own (found : s.thread? q.thread = some t) (live : t.st ≠ .exited) (x : Nat) :
    Own (s.writeResult q x) s q.thread (t.setRegs q.dst.toNat (cutRegs x q.regs)) := by
  have own := own_modThread (f := fun t => if t.st == .exited then t else t.setRegs q.dst.toNat (cutRegs x q.regs)) found fun y => by
    split
    · rfl
    · exact (outside_setRegs _ _ _).name
  rwa [if_neg (by simpa using live)] at own

/-- A store that meets no poisoned unit writes its bytes (R304). -/
theorem scratchStore_sound {b : List Byte} (sound : s.scratchPoisoned core a b.length = false) (lid : Nat) :
    s.scratchStore lid core a b = s.scratchWrite core a b := by
  unfold State.scratchPoisoned at sound
  simp only [State.scratchStore, State.writeOver, sound, Bool.not_false, if_true]
  rfl

/-- An access that does not synchronise stores its bytes and gives its thread the result. -/
theorem scratchDone_own (plain : q.sync = false) (sound : s.scratchPoisoned core a q.bytes = false) (found : s.thread? q.thread = some t)
    (live : t.st ≠ .exited) :
    Own (scratchDone q core a s) (withStored q core a s) q.thread (withLoaded q (s.scratchVal core a q.bytes) t) := by
  have ord : q.ord = 0 := by simpa [Outstanding.sync] using plain
  have stores (v : Nat) : s.scratchStore q.lid core a (leBytes v q.bytes) = s.scratchWrite core a (leBytes v q.bytes) :=
    scratchStore_sound (by simpa using sound) _
  simp only [scratchDone, withStored, withLoaded, Outstanding.releases, Outstanding.acquires, State.closeIf, plain, ord, Nat.zero_testBit,
    Bool.false_eq_true, if_false, stores]
  cases q.kind with
  | store => exact ⟨Kept.refl _, fun _ _ => rfl, found⟩
  | atomic => exact writeResult_own (s := s.scratchWrite core a _) found live _
  | _ => exact writeResult_own found live _

theorem getD_leBytes (v : Nat) {n k : Nat} (h : k < n) : (leBytes v n).getD k 0 = BitVec.ofNat 8 (v / 256 ^ k) := by
  induction n generalizing v k with
  | zero => omega
  | succ n ih =>
    cases k with
    | zero => simp [leBytes]
    | succ k =>
      rw [leBytes, List.getD_cons_succ, ih _ (by omega), Nat.div_div_eq_div_mul, Nat.pow_succ']

/-- Bytes of a scratchpad after a value is written to it, low byte first (R4). -/
theorem byte_scratchWrite (wf : Memory.wf s.store.scratch = true) (v n b : Nat) :
    (s.scratchWrite core a (leBytes v n)).store.scratch.byte b =
      if core * 2 ^ 20 + a ≤ b ∧ b < core * 2 ^ 20 + a + n then BitVec.ofNat 8 (v / 256 ^ (b - (core * 2 ^ 20 + a)))
      else s.store.scratch.byte b := by
  show (s.store.scratch.write (core * 2 ^ 20 + a) (leBytes v n)).byte b = _
  rw [byte_write _ _ _ wf, length_leBytes]
  split
  · exact getD_leBytes v (by omega)
  · rfl

theorem byte_withStored (wf : Memory.wf s.store.scratch = true) (kind : q.kind ≠ .red) (b : Nat) :
    (withStored q core a s).store.scratch.byte b =
      if q.writes ∧ core * 2 ^ 20 + a ≤ b ∧ b < core * 2 ^ 20 + a + q.bytes then
        BitVec.ofNat 8 ((if q.kind = .store then q.data.toNat else atomNew q.aop (8 * q.bytes) (s.scratchVal core a q.bytes) q.data.toNat) /
          256 ^ (b - (core * 2 ^ 20 + a)))
      else s.store.scratch.byte b := by
  unfold withStored Outstanding.writes
  cases e : q.kind with
  | red => exact absurd e kind
  | store | atomic => simp [byte_scratchWrite wf]
  | _ => simp

/-- Nothing but the scratchpads changes. -/
theorem withStored_eq (q : Outstanding) (core a : Nat) (s : State) : ∃ m, withStored q core a s = s.setScratch m := by
  unfold withStored
  split <;> exact ⟨_, rfl⟩

/-! ## Retirement -/

theorem stepOn_of (h : u.store.dregs = s.store.dregs) (core : Nat) : u.stepOn core = s.stepOn core := by
  unfold State.stepOn State.dbg State.dreg
  rw [h]

/-- A word that only goes on to the next keeps what its effect left: the memories and engines, the other threads, its thread's values. -/
theorem finish_next_kept (h : Lone i s p t) {v : Thread} (found : u.thread? t.name = some v) (noKill : killRegs i = []) (noTrap : v.boundary = [])
    (noStep : (hStep p.hdr && u.stepOn t.name.core) = false) :
    Kept (finish i p t.name s u .next) u ∧ (∀ m, m ≠ t.name → (finish i p t.name s u .next).thread? m = u.thread? m) ∧
      ∃ w, (finish i p t.name s u .next).thread? t.name = some w ∧ SameValues w v := by
  have threads : (ctxOf p i).pack.threads = [t.name] := h.threads
  obtain ⟨kept1, each1⟩ := wordRegs_kept u s (ctxOf p i) [nextOut t.name]
  obtain ⟨v1, found1, same1, due1⟩ := (each1 t.name).2 v found
  have retires : finish i p t.name s u .next = (u.wordRegs s (ctxOf p i) [nextOut t.name]).retire (ctxOf p i) [nextOut t.name]
      (nextHalves i p.pb).1 (nextHalves i p.pb).2 := by
    unfold finish
    rw [kill_nil noKill]
    rfl
  rw [retires]
  generalize u.wordRegs s (ctxOf p i) [nextOut t.name] = w at *
  have noStep1 : (hStep p.hdr && w.stepOn t.name.core) = false := by rwa [stepOn_of (congrArg Store.dregs kept1.store)]
  have noTrap1 : ∀ x, w.thread? t.name = some x → x.boundary = [] := fun x hx => by
    cases found1.symm.trans hx
    exact due1.trans noTrap
  obtain ⟨kept2, each2⟩ := retire_kept (i := i) (p := p) (l := [nextOut t.name]) (s := w) (pa := (nextHalves i p.pb).1)
    (pb := (nextHalves i p.pb).2) (by simp [nextOut]) (by simpa [nextOut] using noStep1) (by simpa [nextOut] using noTrap1)
  obtain ⟨v2, found2, same2⟩ := (each2 t.name).2 v1 found1
  refine ⟨kept2.trans kept1, fun m other => ?_, v2, found2, same2.trans same1⟩
  exact ((each2 m).1 (by simpa [nextOut] using other.symm)).trans ((each1 m).1 (by simpa [threads] using other))

end

/-- Settles O48: the access is performed at the word, stores its bytes and gives its thread the result, and retirement keeps both. -/
theorem scratchFrame : Obligations.ScratchFrame := by
  intro i s p t req core a s1 tidy_ lone word room may calm plain noTrap noKill noStep live
  have name : (accessOf req i s p t).2.thread = t.name := request_thread word (ctxOf p i) s t
  have kind : (accessOf req i s p t).2.kind ≠ .red := request_scratch_kind word may.local_
  have run := scratchWord_done lone word room may calm
  have sound := may.sound
  obtain ⟨l, rfl⟩ := may.records_eq
  generalize (accessOf req i s p t).2 = q at *
  have own := scratchDone_own plain sound (name ▸ lone.found) live
  have bytes := byte_withStored (s := withRecords s l) (core := core) (a := a) (canonical_scratch tidy_) kind
  obtain ⟨m, stored⟩ := withStored_eq q core a (withRecords s l)
  obtain ⟨r, loaded⟩ := withLoaded_eq q (s.scratchVal core a q.bytes) t
  rw [stored] at own bytes
  have noStep1 : (hStep p.hdr && (scratchDone q core a (withRecords s l)).stepOn t.name.core) = false := by
    rwa [stepOn_of (congrArg Store.dregs own.kept.store :)]
  obtain ⟨kept, others, v, mine, same⟩ :=
    finish_next_kept lone (name ▸ own.mine) noKill ((congrArg Thread.boundary loaded).trans noTrap) noStep1
  have all := kept.trans own.kept
  rw [← all.store] at bytes
  have values := same.trans ((congrArg (SameValues · _) loaded).mpr (SameValues.refl _))
  refine ⟨_, v, run, ⟨bytes, fun k => ?_, fun k => ?_, fun k => ?_⟩, (congrArg Store.mem all.store :), (congrArg Store.dregs all.store :),
    (congrArg Store.acc all.store :), all.engines, all.clock, fun n other => (others n other).trans (own.other n (name ▸ other)), mine,
    values.preds, values.fctl, values.fstat, values.region, values.calls, values.depth⟩ <;>
  rw [same.regs, withLoaded, k]

end Sys2Proof

/-! Barrier objects read back what is written to them, and a credit or arrival at one that holds no surplus steps its phase (R200, R201). -/

namespace Sys2Proof

open Machine

/-! ## Words written in turn -/

/-- A part of a row of bytes is read at its own address. -/
theorem read_slice (m : Mem) (a : Nat) {k n len : Nat} (h : k + n ≤ len) : ((m.read a len).drop k).take n = m.read (a + k) n := by
  induction len generalizing a k n with
  | zero =>
    obtain ⟨rfl, rfl⟩ : k = 0 ∧ n = 0 := by omega
    rfl
  | succ len ih =>
    cases k with
    | zero =>
      cases n with
      | zero => rfl
      | succ n => exact congrArg (m.byte a :: ·) (ih (a + 1) (k := 0) (by omega))
    | succ k =>
      rw [show a + (k + 1) = a + 1 + k by omega]
      exact ih (a + 1) (by omega)

theorem length_recBytes (ws : List Nat) : (recBytes ws).length = 8 * ws.length := by
  simp [recBytes, Nat.mul_comm]

/-- Each word of a record stands at its own eight bytes. -/
theorem recBytes_word {ws : List Nat} {k : Nat} (h : k < ws.length) : ((recBytes ws).drop (8 * k)).take 8 = leBytes (ws.getD k 0) 8 := by
  induction ws generalizing k with
  | nil => cases h
  | cons w r ih =>
    have split : recBytes (w :: r) = leBytes w 8 ++ recBytes r := rfl
    cases k with
    | zero => simp [split]
    | succ k =>
      rw [split, show 8 * (k + 1) = (leBytes w 8).length + 8 * k by simp; omega, List.drop_length_add_append]
      exact ih (by simpa using h)

theorem val_write_recBytes {m : Mem} (wf : Memory.wf m = true) (a : Nat) {ws : List Nat} {k : Nat} (h : k < ws.length) :
    (m.write a (recBytes ws)).val (a + 8 * k) 8 = ws.getD k 0 % 2 ^ 64 := by
  have whole := read_write (recBytes ws) a wf
  have part := read_slice (m.write a (recBytes ws)) a (k := 8 * k) (n := 8) (len := (recBytes ws).length) (by rw [length_recBytes]; omega)
  rw [whole, recBytes_word h] at part
  rw [Mem.val, ← part, leVal_leBytes]

/-! ## The content of an object (R200) -/

/-- Each field of an object's content fits its place in the object's words. -/
structure BarFits (b : Bar) : Prop where
  pby : b.pby < 2 ^ 56
  ecause : b.ecause < 2 ^ 8
  rby : b.rby < 2 ^ 56
  rar : b.rar < 2 ^ 32
  par : b.par < 2 ^ 32
  erra : b.erra < 2 ^ 57

theorem bits_lt (x hi lo : Nat) : bits x hi lo < 2 ^ (hi + 1 - lo) := Nat.mod_lt _ (Nat.two_pow_pos _)

theorem readBar_fits (s : State) (core a : Nat) : BarFits (s.readBar core a) :=
  ⟨bits_lt _ 55 0, bits_lt _ 63 56, bits_lt _ 55 0, bits_lt _ 63 32, bits_lt _ 31 0, bits_lt _ 56 0⟩

theorem b2n_lt (x : Bool) : b2n x < 2 := by cases x <;> decide

theorem decide_b2n (x : Bool) : decide (b2n x = 1) = x := by cases x <;> rfl

/-- The flags of word 0 stand above its pending bytes. -/
theorem bits_flagWord (x y z : Bool) {n : Nat} (h : n < 2 ^ 56) :
    let w := (b2n x * 2 ^ 63 + b2n y * 2 ^ 62 + b2n z * 2 ^ 61 + n % 2 ^ 56) % 2 ^ 64
    bit w 63 = x ∧ bit w 62 = y ∧ bit w 61 = z ∧ bits w 55 0 = n := by
  intro w
  have hx := b2n_lt x
  have hy := b2n_lt y
  have hz := b2n_lt z
  have flag63 : w / 2 ^ 63 % 2 = b2n x := by omega
  have flag62 : w / 2 ^ 62 % 2 = b2n y := by omega
  have flag61 : w / 2 ^ 61 % 2 = b2n z := by omega
  have low : bits w 55 0 = n := by simp only [bits]; omega
  simp only [bit, Nat.testBit_eq_decide_div_mod_eq, flag63, flag62, flag61, decide_b2n, low, and_self]

/-- The reload bytes stand below the error's cause in word 1. -/
theorem bits_causeWord {c n : Nat} (hc : c < 2 ^ 8) (hn : n < 2 ^ 56) :
    bits ((c % 256 * 2 ^ 56 + n % 2 ^ 56) % 2 ^ 64) 63 56 = c ∧ bits ((c % 256 * 2 ^ 56 + n % 2 ^ 56) % 2 ^ 64) 55 0 = n := by
  simp only [bits]
  omega

/-- The pending arrivals stand below the reload arrivals in word 2. -/
theorem bits_arrivalWord {r n : Nat} (hr : r < 2 ^ 32) (hn : n < 2 ^ 32) :
    bits ((r % 2 ^ 32 * 2 ^ 32 + n % 2 ^ 32) % 2 ^ 64) 63 32 = r ∧ bits ((r % 2 ^ 32 * 2 ^ 32 + n % 2 ^ 32) % 2 ^ 64) 31 0 = n := by
  simp only [bits]
  omega

theorem bits_errorWord {e : Nat} (he : e < 2 ^ 57) : bits (e % 2 ^ 57 % 2 ^ 64) 56 0 = e := by
  simp only [bits]
  omega

/-- The four words of an object's content. -/
def barWords (b : Bar) : List Nat :=
  [b2n b.ph * 2 ^ 63 + b2n b.err * 2 ^ 62 + b2n b.drp * 2 ^ 61 + b.pby % 2 ^ 56, b.ecause % 256 * 2 ^ 56 + b.rby % 2 ^ 56,
    b.rar % 2 ^ 32 * 2 ^ 32 + b.par % 2 ^ 32, b.erra % 2 ^ 57]

theorem barBytes_eq (b : Bar) : b.bytes = recBytes (barWords b) := rfl

theorem length_barBytes (b : Bar) : b.bytes.length = 32 := length_recBytes (barWords b)

theorem scratchWrite_scratch (s : State) (core a : Nat) (l : List Byte) :
    (s.scratchWrite core a l).store.scratch = s.store.scratch.write (core * 2 ^ 20 + a) l := rfl

theorem scratchVal_scratchWrite (s : State) (core a x n : Nat) (l : List Byte) :
    (s.scratchWrite core a l).scratchVal core x n = (s.store.scratch.write (core * 2 ^ 20 + a) l).val (core * 2 ^ 20 + x) n := rfl

/-- A word of an object's content, once that is written. -/
theorem scratchVal_barBytes {s : State} (wf : canonical s = true) (core a : Nat) (b : Bar) {k : Nat} (h : k < 4) :
    (s.scratchWrite core a b.bytes).scratchVal core (a + 8 * k) 8 = (barWords b).getD k 0 % 2 ^ 64 := by
  rw [scratchVal_scratchWrite, ← Nat.add_assoc, barBytes_eq]
  exact val_write_recBytes (canonical_scratch wf) _ h

/-- An object's four words read back as its content. -/
theorem readBar_scratchWrite {s : State} (wf : canonical s = true) (core a : Nat) {b : Bar} (fits : BarFits b) :
    (s.scratchWrite core a b.bytes).readBar core a = b := by
  have word0 := scratchVal_barBytes wf core a b (k := 0) (by decide)
  have word1 := scratchVal_barBytes wf core a b (k := 1) (by decide)
  have word2 := scratchVal_barBytes wf core a b (k := 2) (by decide)
  have word3 := scratchVal_barBytes wf core a b (k := 3) (by decide)
  obtain ⟨ph, err, drp, pby⟩ := bits_flagWord b.ph b.err b.drp fits.pby
  obtain ⟨ecause, rby⟩ := bits_causeWord fits.ecause fits.rby
  obtain ⟨rar, par⟩ := bits_arrivalWord fits.rar fits.par
  simp only [barWords, Nat.mul_zero, Nat.add_zero, Nat.reduceMul, List.getD_cons_zero, List.getD_cons_succ] at word0 word1 word2 word3
  simp only [State.readBar, word0, word1, word2, word3, ph, err, drp, pby, ecause, rby, rar, par, bits_errorWord fits.erra]

section

variable {s u v : State} {core a bytes n : Nat} {m : Mark} {b b1 : Bar}

/-- With no watchpoint set and no poison in its units an object's bytes are written (R304, R308). -/
theorem writeBar_sound (sound : s.scratchPoisoned core a 32 = false) (points : s.watchpoints = []) (b : Bar) :
    s.writeBar core a b = s.scratchWrite core a b.bytes := by
  have whole : s.scratchPoisoned core a b.bytes.length = false := by rw [length_barBytes]; exact sound
  have unseen : (s.scratchWrite core a b.bytes).watchpoints = [] := (watchpoints_of (State.setScratch_store_dregs s _)).trans points
  rw [State.writeBar, scratchStore_sound whole, watch_none unseen]

/-! ## Marks (R201) -/

/-- A mark without surplus. -/
def noSurplus (m : Mark) : Mark := { m with overBytes := 0, overArrivals := 0 }

theorem noSurplus_eq : noSurplus = fun m => { m with overBytes := 0, overArrivals := 0 } := rfl

/-- An update that leaves marks at their objects gives the mark there its update. -/
theorem mark?_modMark {queue : Bool} {f : Mark → Mark} (place : ∀ x, (f x).core = x.core ∧ (f x).addr = x.addr ∧ (f x).queue = x.queue)
    (found : s.mark? core a queue = some m) : (s.modMark core a queue f).mark? core a queue = some (f m) := by
  have here := List.find?_some found
  unfold State.mark? at *
  unfold State.modMark
  rw [List.find?_map]
  have same : ((fun x : Mark => x.core == core && x.addr == a && x.queue == queue) ∘
      fun x => if x.core == core && x.addr == a && x.queue == queue then f x else x) =
      fun x => x.core == core && x.addr == a && x.queue == queue := by
    funext x
    obtain ⟨hcore, haddr, hqueue⟩ := place x
    by_cases h : (x.core == core && x.addr == a && x.queue == queue) = true
    · simp only [Function.comp, h, if_true, hcore, haddr, hqueue]
    · simp only [Function.comp, h, Bool.false_eq_true, if_false]
  rw [same, found, Option.map_some, if_pos here]

/-- A state in which an object's bytes are these, and no surplus is left of it. -/
def withObject (s : State) (core a : Nat) (l : List Byte) : State := (s.scratchWrite core a l).modMark core a false noSurplus

theorem withObject_store (s : State) (core a : Nat) (l : List Byte) : (withObject s core a l).store = (s.scratchWrite core a l).store := rfl
theorem withObject_clock (s : State) (core a : Nat) (l : List Byte) : (withObject s core a l).clock = s.clock := rfl
theorem withObject_work (s : State) (core a : Nat) (l : List Byte) : (withObject s core a l).work = s.work := rfl
theorem withObject_control (s : State) (core a : Nat) (l : List Byte) : (withObject s core a l).control = s.control := rfl

/-! ## What a step at an object leaves (R201) -/

theorem readBar_of_scratch (same : u.store.scratch = s.store.scratch) (core a : Nat) : u.readBar core a = s.readBar core a := by
  unfold State.readBar State.scratchVal State.scratchRead
  rw [same]

/-- `u` is `s` with an object's content `b`, as far as its bytes, every other byte of a memory and time show. -/
structure Becomes (u s : State) (core a : Nat) (b : Bar) : Prop where
  content : u.readBar core a = b
  frame : ∀ k, (k < core * 2 ^ 20 + a ∨ core * 2 ^ 20 + a + 32 ≤ k) → u.store.scratch.byte k = s.store.scratch.byte k
  mem : u.store.mem = s.store.mem
  clock : u.clock = s.clock

theorem becomes_withObject (wf : canonical s = true) (fits : BarFits b) : Becomes (withObject s core a b.bytes) s core a b := by
  have store := withObject_store s core a b.bytes
  refine ⟨(readBar_of_scratch (congrArg Store.scratch store) core a).trans (readBar_scratchWrite wf core a fits), fun k outside => ?_, ?_,
    withObject_clock s core a b.bytes⟩
  · rw [store, scratchWrite_scratch]
    exact byte_write_outside b.bytes _ k (canonical_scratch wf) (by rw [length_barBytes]; exact outside)
  · rw [store, State.scratchWrite, State.setScratch_store_mem]

theorem Becomes.trans (h : Becomes v u core a b) (k : Becomes u s core a b1) : Becomes v s core a b :=
  ⟨h.content, fun x outside => (h.frame x outside).trans (k.frame x outside), h.mem.trans k.mem, h.clock.trans k.clock⟩

theorem Becomes.of_store (h : Becomes u s core a b) (store : v.store = u.store) (clock : v.clock = u.clock) : Becomes v s core a b where
  content := (readBar_of_scratch (congrArg Store.scratch store) core a).trans h.content
  frame k outside := by rw [store]; exact h.frame k outside
  mem := by rw [store]; exact h.mem
  clock := clock.trans h.clock

/-! ## Completion of a phase (R201) -/

/-- A phase is not over while bytes or arrivals are pending. -/
theorem phases_pending {p q : Int} (pending : 0 < p ∨ 0 < q) (rby rar : Nat) : phases p q rby rar = 0 := by
  simp [phases, pending]

/-- With nothing pending and nothing to reload no phase is over. -/
theorem phases_going {pby par rby rar : Nat} (going : 0 < pby ∨ 0 < par ∨ rby = 0 ∧ rar = 0) : phases pby par rby rar = 0 := by
  by_cases pending : 0 < pby ∨ 0 < par
  · exact phases_pending (by omega) _ _
  · obtain ⟨rfl, rfl, rfl, rfl⟩ : pby = 0 ∧ par = 0 ∧ rby = 0 ∧ rar = 0 := by omega
    rfl

/-- With both counts at exactly zero one phase is over, where there is anything to reload. -/
theorem phases_exact {rby rar : Nat} (reload : 0 < rby ∨ 0 < rar) : phases 0 0 rby rar = 1 := by
  match rby, rar with
  | 0, 0 => simp at reload
  | 0, _ + 1 | _ + 1, 0 | _ + 1, _ + 1 => simp [phases]

/-- Where no thread waits for an object, a completed phase changes no memory and no time. -/
theorem phaseDone_quiet (nobody : ∀ x ∈ s.work.threads, ∀ off ph sc, x.st ≠ .blocked (.barrier off ph sc)) (core a : Nat) :
    (s.phaseDone core a).store = s.store ∧ (s.phaseDone core a).clock = s.clock := by
  unfold State.phaseDone
  extract_lets s1 _ _ s2 waiters
  obtain ⟨store, clock, nobody1⟩ : s1.store = s.store ∧ s1.clock = s.clock ∧ ∀ x ∈ s1.work.threads, ∀ off ph sc, x.st ≠ .blocked (.barrier off ph sc) := by
    dsimp only [s1]
    split
    · refine ⟨rfl, rfl, fun x hx => ?_⟩
      obtain ⟨y, hy, rfl⟩ := List.mem_map.mp hx
      split <;> exact nobody y hy
    · exact ⟨rfl, rfl, nobody⟩
  have none_ : waiters = [] := by
    refine List.filterMap_eq_nil_iff.mpr fun x hx => ?_
    have idle := nobody1 x hx
    split
    next off ph sc g st group => exact absurd st (idle off ph sc)
    · rfl
  rw [none_]
  exact ⟨store, clock⟩

/-! ## Steps at a steady object (R201) -/

/-- An object that BINIT has made, that holds no surplus (DESIGN CHOICE, log 24), that nothing watches and that stands in no poisoned unit. -/
structure Steady (s : State) (core a : Nat) : Prop where
  wf : canonical s = true
  made : ∃ m, s.mark? core a false = some m ∧ m.overBytes = 0 ∧ m.overArrivals = 0
  calm : unwatched s (clusterOf core) = true
  sound : s.scratchPoisoned core a 32 = false

theorem steady_withObject (h : Steady s core a) (l : List Byte) : Steady (withObject s core a l) core a := by
  obtain ⟨m, found, -, -⟩ := h.made
  have store := withObject_store s core a l
  have dregs : (withObject s core a l).store.dregs = s.store.dregs := by rw [store]; rfl
  have poison : (withObject s core a l).store.poison = s.store.poison := by rw [store]; rfl
  refine ⟨?_, ⟨noSurplus m, ?_, rfl, rfl⟩, (unwatched_of dregs _).trans h.calm, ?_⟩
  · rw [canonical_iff, store, ← canonical_iff]
    exact scratchWrite_canonical core a l h.wf
  · exact mark?_modMark (fun _ => ⟨rfl, rfl, rfl⟩) (s := s.scratchWrite core a l) found
  · unfold State.scratchPoisoned State.poisonedIn
    rw [poison]
    exact h.sound

/-- An object with this much less pending. -/
def lowered (b : Bar) (bytes n : Nat) : Bar := { b with pby := b.pby - bytes, par := b.par - n }

/-- An object at the start of its next phase. -/
def reloaded (b : Bar) : Bar := { b with ph := !b.ph, pby := b.rby, par := b.rar }

theorem lowered_fits (h : BarFits b) (bytes n : Nat) : BarFits (lowered b bytes n) :=
  ⟨(Nat.sub_le ..).trans_lt h.pby, h.ecause, h.rby, h.rar, (Nat.sub_le ..).trans_lt h.par, h.erra⟩

theorem reloaded_fits (h : BarFits b) : BarFits (reloaded b) := ⟨h.rby, h.ecause, h.rby, h.rar, h.rar, h.erra⟩

/-- No phase of an object is over. -/
theorem barSettle_going (h : Steady s core a)
    (going : phases (s.readBar core a).pby (s.readBar core a).par (s.readBar core a).rby (s.readBar core a).rar = 0) : s.barSettle core a = s := by
  obtain ⟨m, found, noBytes, noArrivals⟩ := h.made
  simp [State.barSettle, found, noBytes, noArrivals, going]

/-- One phase of an object is over, and no stop of its cluster holds the completion back (R312). -/
theorem barSettle_over (h : Steady s core a) (running : s.stop? (clusterOf core) = none) (bytes : (s.readBar core a).pby = 0)
    (arrivals : (s.readBar core a).par = 0) (reload : 0 < (s.readBar core a).rby ∨ 0 < (s.readBar core a).rar) :
    s.barSettle core a = (withObject s core a (reloaded (s.readBar core a)).bytes).phaseDone core a := by
  obtain ⟨m, found, noBytes, noArrivals⟩ := h.made
  have one := phases_exact reload
  have write := writeBar_sound h.sound (unwatched_points h.calm)
  simp only [State.barSettle, found, noBytes, noArrivals, bytes, arrivals, running, write]
  simp [one, withObject, reloaded, noSurplus_eq]

/-- Its completion wakes no thread, and reloads the counts. -/
theorem barSettle_reloads (h : Steady s core a) (running : s.stop? (clusterOf core) = none)
    (nobody : ∀ x ∈ s.work.threads, ∀ off ph sc, x.st ≠ .blocked (.barrier off ph sc)) (bytes : (s.readBar core a).pby = 0)
    (arrivals : (s.readBar core a).par = 0) (reload : 0 < (s.readBar core a).rby ∨ 0 < (s.readBar core a).rar) :
    Becomes (s.barSettle core a) s core a (reloaded (s.readBar core a)) := by
  obtain ⟨store, clock⟩ := phaseDone_quiet (s := withObject s core a (reloaded (s.readBar core a)).bytes)
    (by rw [withObject_work]; exact nobody) core a
  rw [barSettle_over h running bytes arrivals reload]
  exact (becomes_withObject h.wf (reloaded_fits (readBar_fits s core a))).of_store store clock

/-- A step is made at once where none waits at its object and the trail log has nothing to say (R317, R318). -/
theorem barStep_done {o : BarOp} (idle : ∀ x ∈ s.engines.delayed, x.object ≠ o.object) (calm : unwatched s (clusterOf o.object.core) = true) :
    s.barStep o = s.barDo o := by
  have first : s.engines.delayed.any (·.object == o.object) = false := by simpa using idle
  have may : s.barMay o = true := by rw [State.barMay, trailOk_none calm _ _ _, Bool.or_true]
  rw [State.barStep, first, may]
  rfl

/-- A credit or arrivals within what is pending lower the counts, and the object settles. -/
theorem barDo_within (h : Steady s core a) (enoughBytes : bytes ≤ (s.readBar core a).pby) (enough : n ≤ (s.readBar core a).par)
    (who : Option ThreadName) :
    s.barDo { object := { core := core, addr := a }, bytes := bytes, arrivals := n, err := none, drop := false, who := who } =
      (withObject s core a (lowered (s.readBar core a) bytes n).bytes).barSettle core a := by
  obtain ⟨m, found, noBytes, noArrivals⟩ := h.made
  have write := writeBar_sound h.sound (unwatched_points h.calm)
  have calm := (steady_withObject h (lowered (s.readBar core a) bytes n).bytes).calm
  have leftBytes : ((s.readBar core a).pby - (0 : Nat) - bytes : Int) = ((s.readBar core a).pby - bytes : Nat) := by omega
  have left : ((s.readBar core a).par - (0 : Nat) - n : Int) = ((s.readBar core a).par - n : Nat) := by omega
  simp only [State.barDo, found, noBytes, noArrivals, h.sound, write, leftBytes, left, Bool.false_eq_true, if_false]
  simp only [Int.toNat_natCast, Int.toNat_neg_natCast, Bool.or_false]
  rw [← noSurplus_eq]
  exact congrArg (State.barSettle · core a) (trail_none calm _ _)

/-- So does one that is made at once. -/
theorem barApply_within (h : Steady s core a) (idle : ∀ x ∈ s.engines.delayed, x.object ≠ { core := core, addr := a })
    (enoughBytes : bytes ≤ (s.readBar core a).pby) (enough : n ≤ (s.readBar core a).par) :
    s.barApply { core := core, addr := a } bytes n none false =
      (withObject s core a (lowered (s.readBar core a) bytes n).bytes).barSettle core a :=
  (barStep_done (o := { object := { core := core, addr := a }, bytes := bytes, arrivals := n, err := none, drop := false, who := none })
    idle h.calm).trans (barDo_within h enoughBytes enough none)

/-- What the object then holds, where that completes no phase. -/
theorem barApply_going (h : Steady s core a) (idle : ∀ x ∈ s.engines.delayed, x.object ≠ { core := core, addr := a })
    (enoughBytes : bytes ≤ (s.readBar core a).pby) (enough : n ≤ (s.readBar core a).par)
    (going : bytes < (s.readBar core a).pby ∨ n < (s.readBar core a).par ∨ (s.readBar core a).rby = 0 ∧ (s.readBar core a).rar = 0) :
    Becomes (s.barApply { core := core, addr := a } bytes n none false) s core a (lowered (s.readBar core a) bytes n) := by
  have low := becomes_withObject h.wf (core := core) (a := a) (lowered_fits (readBar_fits s core a) bytes n)
  rw [barApply_within h idle enoughBytes enough, barSettle_going (steady_withObject h _)]
  · exact low
  · rw [low.content]
    exact phases_going (by simpa only [lowered, Nat.sub_pos_iff_lt] using going)

/-- And where it completes one, which wakes no thread. -/
theorem barApply_over (h : Steady s core a) (idle : ∀ x ∈ s.engines.delayed, x.object ≠ { core := core, addr := a })
    (running : s.stop? (clusterOf core) = none) (nobody : ∀ x ∈ s.work.threads, ∀ off ph sc, x.st ≠ .blocked (.barrier off ph sc))
    (reload : 0 < (s.readBar core a).rby ∨ 0 < (s.readBar core a).rar) :
    Becomes (s.barApply { core := core, addr := a } (s.readBar core a).pby (s.readBar core a).par none false) s core a
      (reloaded (s.readBar core a)) := by
  have low := becomes_withObject h.wf (core := core) (a := a) (lowered_fits (readBar_fits s core a) (s.readBar core a).pby (s.readBar core a).par)
  have settled := barSettle_reloads (steady_withObject h (lowered (s.readBar core a) (s.readBar core a).pby (s.readBar core a).par).bytes)
    (by rw [State.stop?, withObject_control]; exact running) (by rw [withObject_work]; exact nobody)
    (by rw [low.content]; exact Nat.sub_self _) (by rw [low.content]; exact Nat.sub_self _) (by rw [low.content]; exact reload)
  rw [low.content] at settled
  rw [barApply_within h idle le_rfl le_rfl]
  exact settled.trans low

end

/-- Settles O49: a step within what is pending lowers the counts; at exactly zero one phase is over, and reloads them. -/
theorem barrierPhase : Obligations.BarrierPhase := by
  intro s core a bytes n m wf found noBytes noArrivals calm running nobody enoughBytes enough idle sound
  have steady : Steady s core a := ⟨wf, ⟨m, found, noBytes, noArrivals⟩, calm, sound⟩
  by_cases last : (s.readBar core a).pby = bytes ∧ (s.readBar core a).par = n ∧ (0 < (s.readBar core a).rby ∨ 0 < (s.readBar core a).rar)
  · obtain ⟨rfl, rfl, reload⟩ := last
    have complete := barApply_over steady idle running nobody reload
    exact ⟨fun going => absurd going (by simp), fun _ _ _ => complete.content, complete.frame, complete.mem, complete.clock⟩
  · have going := barApply_going steady idle enoughBytes enough (by omega)
    exact ⟨fun _ => going.content, fun hb hn reload => absurd ⟨hb, hn, reload⟩ last, going.frame, going.mem, going.clock⟩

end Sys2Proof

/-! The words of barriers, tiles and copies complete for a lone pack (R345, R351, R357, R359, R364, R366, R371, R433). -/

namespace Sys2Proof

open Machine

section

variable {i : Instr} {s s1 u : State} {p : Pack} {t : Thread} {g : Workgroup} {o : AgOp} {a : Nat}

/-! ## The object a word names (R344) -/

theorem barrierAt_any {off : Nat} (at_ : AtObject s t off g a) : barrierAt s t off false = .ok (g, a) := by
  obtain ⟨group, aligned, inside, rfl⟩ := at_
  simp [barrierAt, group, aligned, Nat.not_lt.mpr inside]

theorem barrierAt_made {off : Nat} (at_ : AtObject s t off g a) (made : standing s g a) : barrierAt s t off true = .ok (g, a) := by
  obtain ⟨group, aligned, inside, rfl⟩ := at_
  obtain ⟨mark, sound⟩ := made
  have marked : (s.mark? g.core (g.base + off) false).isNone = false := by rw [← Option.not_isSome, mark]; rfl
  simp [barrierAt, group, aligned, Nat.not_lt.mpr inside, marked, sound]

/-! ## Barrier words -/

theorem binit_done (h : Lone (.binit o) s p t) (drained : s.drained t.name = true) (at_ : AtObject s t (srcReg (ctxOf p (.binit o)) t o.a) g a)
    (counts : ¬(bytesOf p t o = 0 ∧ srcReg (ctxOf p (.binit o)) t o.b = 0)) (bytes : bytesOf p t o < 2 ^ 56)
    (unused : s.barInUse g.core a = false) :
    runWord (.binit o) (bodyBinit o) s = finish (.binit o) p t.name s
      ((((s.release g.core (coreScope o.scope)).putMark g.core a false).writeBar g.core a
        { ph := false, err := false, drp := false, pby := bytesOf p t o, ecause := 0, rby := bytesOf p t o
          rar := srcReg (ctxOf p (.binit o)) t o.b, par := srcReg (ctxOf p (.binit o)) t o.b, erra := 0 }).closeRegion t.name) .next := by
  refine lone_done h drained ?_
  have legal : ¬((bytesOf p t o == 0 && srcReg (ctxOf p (.binit o)) t o.b == 0) || decide (2 ^ 56 ≤ bytesOf p t o)) = true := by
    simp only [Bool.or_eq_true, Bool.and_eq_true, beq_iff_eq, decide_eq_true_eq]
    omega
  simp only [barrierAt_any at_]
  exact (if_neg legal).trans (if_neg (by simp [unused]))

/-- Where nothing watches the object's cluster the trail log has nothing to say to an arrival (R316). -/
theorem arrivalEntry_calm (at_ : AtObject s t (srcReg (ctxOf p i) t o.a) g a) (made : standing s g a)
    (calm : unwatched s (clusterOf g.core) = true) : ∀ x, arrivalEntry o (ctxOf p i) s t = some x → unwatched s x.1 = true := by
  intro x hx
  simp only [arrivalEntry, barrierAt_made at_ made] at hx
  cases hx
  exact calm

theorem barv_done (h : Lone (.barv o) s p t) (drained : s.drained t.name = true) (at_ : AtObject s t (srcReg (ctxOf p (.barv o)) t o.a) g a)
    (made : standing s g a) (calm : unwatched s (clusterOf g.core) = true) :
    runWord (.barv o) (bodyBarv o) s = finish (.barv o) p t.name s
      (arrive s t g a (arrivals (ctxOf p (.barv o)) t o) (coreScope o.scope)) .next := by
  refine lone_done_of_body h ((gated_lone h (arrivalEntry_calm at_ made calm)).trans (eachThread_lone h drained ?_))
  simp only [barrierAt_made at_ made]
  rfl

/-- The parity that a wait names (R359). -/
theorem parity_eq (c : Ctx) : (if o.sub6 == 0 then o.imm.getLsbD 0 else bit (srcReg c t o.b) 0) = (arrivals c t o).testBit 0 := by
  unfold arrivals
  split <;> rfl

theorem bwait_met (h : Lone (.bwait o) s p t) (drained : s.drained t.name = true) (at_ : AtObject s t (srcReg (ctxOf p (.bwait o)) t o.a) g a)
    (made : standing s g a) (met : (s.readBar g.core a).ph ≠ (arrivals (ctxOf p (.bwait o)) t o).testBit 0) :
    runWord (.bwait o) (bodyBwait o) s = finish (.bwait o) p t.name s ((s.closeRegion t.name).acquire g.core (coreScope o.scope)) .next := by
  refine lone_done h drained ?_
  simp only [barrierAt_made at_ made, parity_eq, bne_iff_ne.mpr met, if_true]

theorem bwait_pending (h : Lone (.bwait o) s p t) (drained : s.drained t.name = true)
    (at_ : AtObject s t (srcReg (ctxOf p (.bwait o)) t o.a) g a) (made : standing s g a)
    (pending : (s.readBar g.core a).ph = (arrivals (ctxOf p (.bwait o)) t o).testBit 0) :
    runWord (.bwait o) (bodyBwait o) s = finish (.bwait o) p t.name s (s.closeRegion t.name)
      (.wait (.barrier (a - g.base) ((arrivals (ctxOf p (.bwait o)) t o).testBit 0) (coreScope o.scope))) := by
  refine lone_done h drained ?_
  simp only [barrierAt_made at_ made, parity_eq, pending, bne_self_eq_false, Bool.false_eq_true, if_false]

/-- Does one arrival at an object complete its phase (R201, R357)? -/
def completesHere (s u : State) (g : Workgroup) (a : Nat) : Bool :=
  decide (0 < completions s g.core a) && !(phaseHeld s g) && u.engines.delayed.length == s.engines.delayed.length

/-- The one thread of a lone pack arrives. -/
theorem bsyncArrive_lone (found : s.thread? t.name = some t) {c : Ctx} (at_ : barrierAt s t (srcReg c t o.a) true = .ok (g, a))
    (hu : arrive s t g a 1 (coreScope o.scope) = u) : bsyncArrive c o s [t.name] = (u, [(t.name, .ok (g, a, completesHere s u g a))]) := by
  simp only [bsyncArrive, List.foldl_cons, List.foldl_nil, found, at_, hu, List.map_nil, List.nil_append]
  rfl

/-- BSYNC of a lone pack: its thread arrives, and goes on where that completes the phase. -/
theorem bsync_done (h : Lone (.bsync o) s p t) (drained : s.drained t.name = true)
    (at_ : AtObject s t (srcReg (ctxOf p (.bsync o)) t o.a) g a) (made : standing s g a) (calm : unwatched s (clusterOf g.core) = true)
    (hu : arrive s t g a 1 (coreScope o.scope) = u) :
    runWord (.bsync o) (bodyBsync o) s = if completesHere s u g a then
        finish (.bsync o) p t.name s (u.acquire g.core (coreScope o.scope)) .next
      else finish (.bsync o) p t.name s u (.wait (.barrier (a - g.base) (u.readBar g.core a).ph (coreScope o.scope))) := by
  have threads : (ctxOf p (.bsync o)).pack.threads = [t.name] := h.threads
  have body : bodyBsync o (ctxOf p (.bsync o)) s = _ := gated_lone h (arrivalEntry_calm at_ made calm)
  split
  all_goals
    rename_i last
    refine lone_done_of_body h (body.trans ?_)
    simp only [lone_actives h, List.any_cons, List.any_nil, drained, Bool.not_true, Bool.or_false, Bool.false_eq_true, if_false, threads,
      bsyncArrive_lone h.found (barrierAt_made at_ made) hu, List.foldl_cons, List.foldl_nil, List.find?_cons, beq_self_eq_true, last, if_true]
    rfl

/-! ## TOWN (R191, R217, R433) -/

/-- Of a buffer that the threads own, or that the engine owns and is given again, no owner forbids the word. -/
theorem TownOk.once {tl : Tile} (ok : TownOk s t o g tl) :
    (s.owner tl (s.version g tl (o.sub6.getLsbD 1)) == .stream ||
      (s.owner tl (s.version g tl (o.sub6.getLsbD 1)) == .engine && o.sub6.getLsbD 0)) = false := by
  rcases ok.owner with h | ⟨h, engine⟩
  · rw [h]; rfl
  · rw [h, engine]; rfl

theorem TownOk.need {tl : Tile} (ok : TownOk s t o g tl) (c : Ctx) : townNeed o c s t = true := by
  simp [townNeed, ok.drained, ok.group, ok.tile]

/-- What TOWN makes of the buffer on the thread's own core role, where its tile is homed on another one. -/
def townMine (s : State) (t : Thread) (o : AgOp) (g : Workgroup) (tl : Tile) : State :=
  match (townHome s t o g tl).tileOn g o.imm.toNat (some g.role) with
  | .ok mine => (((townHome s t o g tl).flipMember mine (s.version g tl (o.sub6.getLsbD 1))
      (if o.sub6.getLsbD 0 then .stream else .engine)).deliverHeld mine (s.version g tl (o.sub6.getLsbD 1)) (o.sub6.getLsbD 0))
  | _ => townHome s t o g tl

theorem townMine_ok {tl mine : Tile} (here : (townHome s t o g tl).tileOn g o.imm.toNat (some g.role) = .ok mine) :
    townMine s t o g tl = ((townHome s t o g tl).flipMember mine (s.version g tl (o.sub6.getLsbD 1))
      (if o.sub6.getLsbD 0 then .stream else .engine)).deliverHeld mine (s.version g tl (o.sub6.getLsbD 1)) (o.sub6.getLsbD 0) := by
  rw [townMine, here]

theorem townMine_none {tl : Tile} (none_ : ∀ m, (townHome s t o g tl).tileOn g o.imm.toNat (some g.role) ≠ .ok m) :
    townMine s t o g tl = townHome s t o g tl := by
  unfold townMine
  split
  next m here => exact absurd here (none_ m)
  · rfl

theorem town_done {tl : Tile} (h : Lone (.town o) s p t) (ok : TownOk s t o g tl) :
    runWord (.town o) (bodyTown o) s = finish (.town o) p t.name s
      (if tl.home.role == g.role then townHome s t o g tl else townMine s t o g tl) .next := by
  refine lone_done h (ok.need _) ?_
  simp only [ok.group, ok.tile, ok.once, Bool.false_eq_true, if_false]
  rfl

/-! ## Copies and batches (R202, R203, R364, R366, R371) -/

/-- A copy word whose checks pass. -/
theorem copy_done {store : Bool} {fired : List Nat} (h : Lone i s p t) (near : (s.outOf t.name).all (·.peer.isNone) = true)
    (room : t.batches.any (fun b => b.number.isNone) = true ∨ t.openBatches < 64)
    (checks : s.copyIssue t (srcReg (ctxOf p i) t o.a) store = .ok s1 fired) :
    runWord i (copyBody o store) s = finish i p t.name s s1 .next (watchCause fired) := by
  refine lone_done h ?_ (by simp only [checks])
  simpa only [copyNeed, near, checks, Bool.true_and, Bool.and_true, Bool.or_eq_true, decide_eq_true_eq] using room

/-- The sealed batches of a thread that are unfinished as a CWAIT counts them. -/
def unfinished (t : Thread) (landed : Bool) : List Batch := t.batches.filter (fun b => b.number.isSome && !(b.done landed))

theorem cwait_met {landed : Bool} (h : Lone i s p t) (drained : s.drained t.name = true) (few : (unfinished t landed).length ≤ o.imm.toNat) :
    runWord i (cwaitBody o landed) s = finish i p t.name s ((s.closeRegion t.name).acquire t.name.core o.scope.toNat) .next :=
  lone_done h drained (if_pos (by rw [List.length_map]; exact few))

theorem cwait_pending {landed : Bool} (h : Lone i s p t) (drained : s.drained t.name = true) (many : o.imm.toNat < (unfinished t landed).length) :
    runWord i (cwaitBody o landed) s = finish i p t.name s (s.closeRegion t.name)
      (.wait (.batches landed o.imm.toNat ((unfinished t landed).map (·.key)) o.scope.toNat)) :=
  lone_done h drained (if_neg (by rw [List.length_map]; exact Nat.not_le.mpr many))

end

/-- Settles O19, clause by clause. -/
theorem syncWords : Obligations.SyncWords := by
  intro i s p t s1 fate after lone rule
  cases rule with
  | binit o g a drained at_ counts bytes unused => exact congrArg Host.Outcome.next (binit_done lone drained at_ counts bytes unused)
  | barv o g a drained at_ made calm => exact congrArg Host.Outcome.next (barv_done lone drained at_ made calm)
  | bwaitMet o g a drained at_ made met => exact congrArg Host.Outcome.next (bwait_met lone drained at_ made met)
  | bwait o g a drained at_ made pending => exact congrArg Host.Outcome.next (bwait_pending lone drained at_ made pending)
  | bsyncLast o g a u drained at_ made calm free last after applied =>
    have complete : completesHere s u g a = true := by simp [completesHere, Nat.pos_of_ne_zero last, free, applied]
    exact congrArg Host.Outcome.next ((bsync_done lone drained at_ made calm after.symm).trans (if_pos complete))
  | bsync o g a _ drained at_ made calm after more =>
    have incomplete : ¬completesHere s s1 g a = true := by
      unfold completesHere
      rcases more with h | h | h <;> simp [h]
    exact congrArg Host.Outcome.next ((bsync_done lone drained at_ made calm after.symm).trans (if_neg incomplete))
  | town o g tl ok home => exact congrArg Host.Outcome.next ((town_done lone ok).trans (by simp [home]))
  | townFar o g tl mine ok home here =>
    exact congrArg Host.Outcome.next ((town_done lone ok).trans (by simp [home, townMine_ok here]))
  | townFarOnly o g tl ok home none_ =>
    exact congrArg Host.Outcome.next ((town_done lone ok).trans (by simp [home, townMine_none none_]))
  | cpy o s1 fired near room checks | cpys o s1 fired near room checks =>
    exact congrArg Host.Outcome.next (copy_done lone near room checks)
  | cseal o room => exact congrArg Host.Outcome.next (lone_done lone (decide_eq_true room) rfl)
  | cwaitRelMet o drained few => exact congrArg Host.Outcome.next (cwait_met (landed := false) lone drained few)
  | cwaitRel o drained many => exact congrArg Host.Outcome.next (cwait_pending (landed := false) lone drained many)
  | cwaitLndMet o drained few => exact congrArg Host.Outcome.next (cwait_met (landed := true) lone drained few)
  | cwaitLnd o drained many => exact congrArg Host.Outcome.next (cwait_pending (landed := true) lone drained many)

end Sys2Proof

/-! The pass of a quarter: each of its accumulator elements is updated once, and nothing else but the quarter's pitch (R226). -/

namespace Sys2Proof

open Machine

section

variable {s : State}

/-! ## Accumulator elements (R143) -/

theorem canonical_acc (h : canonical s = true) : sparseWf (0 : Word32) s.store.acc = true := by
  unfold canonical at h
  exact (Bool.and_eq_true_iff.mp h).2

/-- An accumulator element reads as it was written, and every other one as before. -/
theorem accGet_accPut (wf : canonical s = true) {cluster row col : Nat} (hrow : row < 1024) (hcol : col < 128) (v : Word32) {c r k : Nat}
    (hr : r < 1024) (hk : k < 128) :
    (s.accPut cluster row col v).accGet c r k = if c = cluster ∧ r = row ∧ k = col then v else s.accGet c r k := by
  have place : c * 2 ^ 17 + r * 128 + k = cluster * 2 ^ 17 + row * 128 + col ↔ c = cluster ∧ r = row ∧ k = col := by omega
  exact (sget_sput _ _ _ v (canonical_acc wf)).trans (if_congr place rfl rfl)

/-! ## Updating elements one after the other -/

/-- The element at an offset from a corner takes a new value, which may depend on its old one. -/
def updateElem (cluster row col : Nat) (f : Nat × Nat → Word32 → Word32) (s : State) (x : Nat × Nat) : State :=
  s.accPut cluster (row + x.1) (col + x.2) (f x (s.accGet cluster (row + x.1) (col + x.2)))

variable {cluster row col : Nat} {f : Nat × Nat → Word32 → Word32} {l : List (Nat × Nat)}

/-- Updates write the accumulators only. -/
theorem updates_eq (l : List (Nat × Nat)) (s : State) :
    ∃ acc, l.foldl (updateElem cluster row col f) s = { s with store := { s.store with acc := acc } } := by
  induction l generalizing s with
  | nil => exact ⟨_, rfl⟩
  | cons x r ih =>
    obtain ⟨acc, h⟩ := ih (updateElem cluster row col f s x)
    exact ⟨acc, h⟩

/-- An element whose offset is not listed is as before. -/
theorem accGet_updates_other (wf : canonical s = true) (inside : ∀ x ∈ l, row + x.1 < 1024 ∧ col + x.2 < 128) {c r k : Nat} (hr : r < 1024)
    (hk : k < 128) (other : ∀ x ∈ l, ¬(c = cluster ∧ r = row + x.1 ∧ k = col + x.2)) :
    (l.foldl (updateElem cluster row col f) s).accGet c r k = s.accGet c r k := by
  induction l generalizing s with
  | nil => rfl
  | cons x l ih =>
    obtain ⟨⟨hrow, hcol⟩, inside⟩ := List.forall_mem_cons.mp inside
    obtain ⟨here, other⟩ := List.forall_mem_cons.mp other
    exact (ih (accPut_canonical _ _ _ _ wf) inside other).trans ((accGet_accPut wf hrow hcol _ hr hk).trans (if_neg here))

/-- An element whose offset is listed once takes its new value. -/
theorem accGet_updates_mem (wf : canonical s = true) (inside : ∀ x ∈ l, row + x.1 < 1024 ∧ col + x.2 < 128) (once : l.Nodup) {x : Nat × Nat}
    (mem : x ∈ l) :
    (l.foldl (updateElem cluster row col f) s).accGet cluster (row + x.1) (col + x.2) = f x (s.accGet cluster (row + x.1) (col + x.2)) := by
  induction l generalizing s with
  | nil => cases mem
  | cons y l ih =>
    obtain ⟨⟨hrow, hcol⟩, inside'⟩ := List.forall_mem_cons.mp inside
    obtain ⟨fresh, once⟩ := List.nodup_cons.mp once
    obtain ⟨hr, hk⟩ := inside x mem
    have wf1 : canonical (updateElem cluster row col f s y) = true := accPut_canonical _ _ _ _ wf
    have head := fun v => accGet_accPut wf (cluster := cluster) hrow hcol v (c := cluster) hr hk
    rcases List.mem_cons.mp mem with rfl | mem
    · refine (accGet_updates_other wf1 inside' hr hk fun z hz same => fresh ?_).trans ((head _).trans (if_pos ⟨rfl, rfl, rfl⟩))
      obtain ⟨-, h1, h2⟩ := same
      rwa [show x = z from Prod.ext (by omega) (by omega)]
    · refine (ih wf1 inside' once mem).trans (congrArg (f x) ((head _).trans (if_neg fun same => fresh ?_)))
      obtain ⟨-, h1, h2⟩ := same
      rwa [show y = x from Prod.ext (by omega) (by omega)]

/-! ## The elements of a quarter (R226) -/

/-- The new value of a quarter's element. -/
def quarterElem (p : Pass) (q : PassQuarter) (x : Nat × Nat) (old : Word32) : Word32 := roundAcc p.mode (quarterSum p q old.toNat x.1 x.2)

/-- A quarter's elements, by row and column from its corner. -/
def quarterPlaces : List (Nat × Nat) := List.range 8 ×ˢ List.range 64

theorem mem_quarterPlaces {m n : Nat} : (m, n) ∈ quarterPlaces ↔ m < 8 ∧ n < 64 := by simp [quarterPlaces]

theorem nodup_quarterPlaces : quarterPlaces.Nodup := List.nodup_range.product List.nodup_range

/-- A quarter's results are written element by element. -/
theorem writeQuarter_eq (s : State) (p : Pass) (q : PassQuarter) :
    s.writeQuarter p q = quarterPlaces.foldl (updateElem p.cluster q.row (64 * b2n q.half) (quarterElem p q)) s := by
  unfold quarterPlaces
  rw [show List.range 8 ×ˢ List.range 64 = (List.range 8).flatMap fun m => (List.range 64).map (Prod.mk m) from rfl, List.foldl_flatMap]
  simp only [List.foldl_map]
  rfl

theorem quarterPlaces_inside {q : PassQuarter} (inside : q.row + 8 ≤ 1024) :
    ∀ x ∈ quarterPlaces, q.row + x.1 < 1024 ∧ 64 * b2n q.half + x.2 < 128 := by
  rintro ⟨m, n⟩ hx
  have := mem_quarterPlaces.mp hx
  have := b2n_lt q.half
  omega

variable {p : Pass} {q : PassQuarter}

theorem accGet_writeQuarter_mem (wf : canonical s = true) (inside : q.row + 8 ≤ 1024) {m n : Nat} (hm : m < 8) (hn : n < 64) :
    (s.writeQuarter p q).accGet p.cluster (q.row + m) (64 * b2n q.half + n) =
      roundAcc p.mode (quarterSum p q (s.accGet p.cluster (q.row + m) (64 * b2n q.half + n)).toNat m n) := by
  rw [writeQuarter_eq]
  exact accGet_updates_mem (f := quarterElem p q) (x := (m, n)) wf (quarterPlaces_inside inside) nodup_quarterPlaces
    (mem_quarterPlaces.mpr ⟨hm, hn⟩)

theorem accGet_writeQuarter_other (wf : canonical s = true) (inside : q.row + 8 ≤ 1024) {c r k : Nat} (hr : r < 1024) (hk : k < 128)
    (outside : c ≠ p.cluster ∨ r < q.row ∨ q.row + 8 ≤ r ∨ k < 64 * b2n q.half ∨ 64 * b2n q.half + 64 ≤ k) :
    (s.writeQuarter p q).accGet c r k = s.accGet c r k := by
  rw [writeQuarter_eq]
  refine accGet_updates_other wf (quarterPlaces_inside inside) hr hk fun x hx => ?_
  have := mem_quarterPlaces.mp hx
  omega

theorem writeQuarter_acc (s : State) (p : Pass) (q : PassQuarter) :
    ∃ acc, s.writeQuarter p q = { s with store := { s.store with acc := acc } } := by
  obtain ⟨acc, h⟩ := updates_eq (cluster := p.cluster) (row := q.row) (col := 64 * b2n q.half) (f := quarterElem p q) quarterPlaces s
  exact ⟨acc, (writeQuarter_eq s p q).trans h⟩

/-- Passes granted and not yet complete. -/
def withPasses (s : State) (l : List Pass) : State := { s with engines := { s.engines with passes := l } }

/-- A quarter whose results are written credits its tiles and pushes its rows where its pass asks for it (R233, R234). -/
def delivered (cluster : Nat) (q : PassQuarter) (s : State) : State :=
  let u := s.creditQuarter q.creditA q.creditB
  if q.push then u.modPitch cluster q.pitch (fun x => { x with queue := x.queue ++ (List.range 8).map (fun m => (q.row + m, q.half)) }) else u

theorem execPassComplete_first {rest : List Pass} (first : s.engines.passes = p :: rest) :
    execPassComplete p.cluster s =
      .next (p.quarters.foldl (fun s q => delivered p.cluster q (s.writeQuarter p q)) (withPasses s rest)) := by
  have head : s.engines.passes.find? (·.cluster == p.cluster) = some p := by simp [first]
  have rest_ : dropFirst (·.cluster == p.cluster) s.engines.passes = rest := by simp [first, dropFirst]
  unfold execPassComplete
  rw [head, ← rest_]
  rfl

/-- A quarter whose operands are no tiles changes its pitch at most. -/
theorem delivered_untiled (noA : q.creditA = none) (noB : q.creditB = none) (cluster : Nat) (s : State) :
    ∃ e, delivered cluster q s = { s with engines := e } := by
  unfold delivered
  rw [noA, noB]
  dsimp only
  split <;> exact ⟨_, rfl⟩

end

/-- Settles O56: a pass updates the elements of its quarter one by one, each once. -/
theorem quarterResults : Obligations.QuarterResults := by
  intro s p q rest wf first one noA noB inside
  have run := execPassComplete_first first
  rw [one, List.foldl_cons, List.foldl_nil] at run
  have written := @accGet_writeQuarter_mem (withPasses s rest) p q wf inside
  have other := @accGet_writeQuarter_other (withPasses s rest) p q wf inside
  obtain ⟨l, only⟩ := writeQuarter_acc (withPasses s rest) p q
  rw [only] at run written other
  obtain ⟨e, same⟩ := delivered_untiled noA noB p.cluster { withPasses s rest with store := { s.store with acc := l } }
  exact ⟨_, run.trans (congrArg Host.Outcome.next same), fun m hm n hn => written hm hn,
    fun c r hr k hk outside => other hr hk outside, rfl, rfl, rfl, rfl⟩

end Sys2Proof

/-! The matrix, grammar, graphics and sampling words and TSPAWN complete for a lone pack (R221, R223, R235, R243, R273, R284, R399, R401 to R403,
R418, R436), and a leader's MMA makes a unit of it (R225, R230, R403). -/

namespace Sys2Proof

open Machine

section

variable {i : Instr} {s s1 u v : State} {p : Pack} {t : Thread} {g : Workgroup} {x : Pitch}

/-! ## Lone packs in a state that differs from the one at the word -/

@[simp] theorem ctxOf_pack (p : Pack) (i : Instr) : (ctxOf p i).pack = p := rfl

/-- The pack of a lone thread stands in its pipe. -/
theorem lone_pack (h : Lone i s p t) : s.pack? p.core p.pipe = some p := by
  have go := h.go
  simp only [runs, Bool.and_eq_true, decide_eq_true_eq] at go
  obtain ⟨⟨⟨⟨⟨⟨issuing, -⟩, -⟩, -⟩, -⟩, -⟩, -⟩ := go
  unfold State.issuing at issuing
  split at issuing
  next core pipe _ =>
    have at_ := List.find?_some issuing
    simp only [Bool.and_eq_true, beq_iff_eq] at at_
    obtain ⟨hcore, hpipe⟩ := at_
    rwa [hcore, hpipe]
  · cases issuing

/-- The one thread of a lone pack takes its part of a word, in any state that still holds it as it is. -/
theorem parts_lone {f : Ctx → State → Thread → TRes} {off : Ctx → State → Thread → State} {fate : Fate} {after : List TrapInfo}
    (h : Lone i s p t) (found : u.thread? t.name = some t) (hf : f (ctxOf p i) u t = .ok v fate after) :
    p.threads.foldl ((ctxOf p i).part f off) (u, []) = (v.kill t.name i, [{ name := t.name, fate := fate, after := after }]) := by
  simp only [h.threads, List.foldl_cons, List.foldl_nil, Ctx.part, found, h.active, if_true, hf]
  rfl

theorem forEach_lone {f : Ctx → State → Thread → TRes} {fate : Fate} {after : List TrapInfo} (h : Lone i s p t)
    (found : u.thread? t.name = some t) (hf : f (ctxOf p i) u t = .ok v fate after) :
    forEach f (ctxOf p i) u = .done (v.kill t.name i) [{ name := t.name, fate := fate, after := after }] := by
  have parts := parts_lone (off := fun _ s _ => s) h found hf
  unfold forEach eachThread
  rw [lacks_noNeed, ctxOf_pack, parts]
  rfl

/-- At a pitch without a pending error a matrix word does what is its own (R381). -/
theorem withPitch_at {own : Ctx → State → Thread → Workgroup → Pitch → TRes} (at_ : AtPitch s t g x) (c : Ctx) :
    Machine.withPitch own c s t = own c s t g x := by
  obtain ⟨group, pitch, clean⟩ := at_
  simp only [Machine.withPitch, group, pitch, clean]

/-! ## MMA (R225, R230, R403) -/

/-- What the checks of a lone pack's thread have come to at an MMA: the state, and its quarter with B and B's key where it leads. -/
def mmaChecked (s : State) (l : Option (Quarter × Operand × Nat)) : MmaAcc := { s := s, qs := (l.map (·.1)).toList, b := l.map (·.2) }

section

variable {o : MxOp} {c : Ctx} {q : Quarter} {b : Operand} {key : Nat} {fired : List Nat}

theorem mmaThread_leads (found : s.thread? t.name = some t) (at_ : AtPitch s t g x) (leads : bit (srcReg c t o.a) 31 = true)
    (checks : leadQuarter c s t g x o = .ok q b key s1 fired) :
    mmaThread o c { s := s } t.name = mmaChecked (leadOwes c t s1 fired) (some (q, b, key)) := by
  obtain ⟨group, pitch, -⟩ := id at_
  simp only [mmaThread, found, withPitch_at at_, leads, group, Option.bind_some, pitch, checks]
  rfl

theorem mmaThread_follows (found : s.thread? t.name = some t) (at_ : AtPitch s t g x) (follower : bit (srcReg c t o.a) 31 = false) :
    mmaThread o c { s := s } t.name = mmaChecked s none := by
  simp only [mmaThread, found, withPitch_at at_, follower]
  rfl

/-- Must a leader wait for the home member of one of its tiles (R189)? -/
def mmaPending (o : MxOp) (c : Ctx) (s : State) (t : Thread) : Bool :=
  bit (srcReg c t o.a) 31 && ((!(o.sub6.getLsbD 0) && tilePending s t (bits (srcReg c t o.a) 11 0)) ||
    (!(o.sub6.getLsbD 1) && tilePending s t (o.imm.toNat % 4096)))

theorem mmaPending_none (homeA : o.sub6.getLsbD 0 = false → tilePending s t (bits (srcReg c t o.a) 11 0) = false)
    (homeB : o.sub6.getLsbD 1 = false → tilePending s t (o.imm.toNat % 4096) = false) : mmaPending o c s t = false := by
  unfold mmaPending
  cases hA : o.sub6.getLsbD 0 <;> cases hB : o.sub6.getLsbD 1 <;> simp_all

theorem mmaPending_follower (follower : bit (srcReg c t o.a) 31 = false) : mmaPending o c s t = false := by
  rw [mmaPending, follower, Bool.false_and]

/-- The MMA of a lone pack without a unit, in a cluster that runs and whose homes are not pending, goes by what the checks of its thread have come
to: a leader makes a unit, and without one the word retires (R230, R403). -/
theorem bodyMma_checked {l : Option (Quarter × Operand × Nat)} (h : Lone (.mma o) s p t) (fresh : s.unitOf p = none)
    (home : mmaPending o (ctxOf p (.mma o)) s t = false) (running : s.frozen (clusterOf p.core) = false)
    (checked : mmaThread o (ctxOf p (.mma o)) { s := s } t.name = mmaChecked u l) (at_ : AtPitch u t g x) (pack : u.pack? p.core p.pipe = some p) :
    bodyMma o (ctxOf p (.mma o)) s = match l with
      | some (q, b, key) => .more ((putUnit u (newUnit s.now u.nextOrder.1 p g x o q b key)).stallPack p)
      | none => passOn (ctxOf p (.mma o)) u := by
  obtain ⟨group, pitch, -⟩ := at_
  unfold mmaPending at home
  simp only [bodyMma, ctxOf_pack, fresh, lone_actives h, List.any_cons, List.any_nil, h.found, home, Bool.or_false, Bool.false_eq_true, if_false,
    running, Bool.and_false, List.foldl_cons, List.foldl_nil, checked, mmaChecked, List.isEmpty_nil, Bool.not_true, pack, List.head?_cons,
    Option.bind_some, group, pitch]
  cases l <;> rfl

end

theorem mma_granted {o : MxOp} {m : MatUnit} (h : Lone (.mma o) s p t) (issued : s.unitOf p = some m) (granted : m.left = []) :
    runWord (.mma o) (bodyMma o) s = finish (.mma o) p t.name s (s.dropUnit m) .next := by
  refine lone_done_of_body h ?_
  simp only [bodyMma, ctxOf_pack, issued, granted, List.isEmpty_nil, if_true]
  exact passOn_lone h h.found

theorem mma_idle {o : MxOp} (h : Lone (.mma o) s p t) (fresh : s.unitOf p = none) (at_ : AtPitch s t g x)
    (follower : bit (srcReg (ctxOf p (.mma o)) t o.a) 31 = false) (running : s.frozen (clusterOf p.core) = false) :
    runWord (.mma o) (bodyMma o) s = finish (.mma o) p t.name s s .next := by
  refine lone_done_of_body h ?_
  rw [bodyMma_checked h fresh (mmaPending_follower follower) running (mmaThread_follows h.found at_ follower) at_ (lone_pack h)]
  exact passOn_lone h h.found

/-! ## Pitches (R221, R223, R399, R406) -/

theorem acquire_held {req : Nat} (legal : pitchRequest req) (held : s.pitchOf g = some x) :
    s.acquire_ g req = (x.units32 == bits req 5 0, s) := by
  obtain ⟨low, high, exact_⟩ := legal
  unfold State.acquire_
  extract_lets nr cl
  rw [if_neg (by simp; omega), held]

theorem acquire_new {req k base : Nat} (legal : pitchRequest req) (fresh : s.pitchOf g = none)
    (room : s.allot (clusterOf g.core) g.cls (bits req 5 0) = some (k, base)) :
    s.acquire_ g req = (true, { s with
      store := (s.clearRect (clusterOf g.core) { lo := base, hi := base + 32 * bits req 5 0, c0 := 0, c1 := 128 }).store
      engines := { s.engines with pitches := s.engines.pitches ++ [newPitch g req k base] } }) := by
  obtain ⟨low, high, exact_⟩ := legal
  unfold State.acquire_
  extract_lets nr cl
  rw [if_neg (by simp; omega), fresh]
  simp only [cl, nr, room]
  rfl

/-- Without rows or a number to give, a workgroup without a pitch gets none, whatever it asks for. -/
theorem acquire_full {req : Nat} (fresh : s.pitchOf g = none) (full : s.allot (clusterOf g.core) g.cls (bits req 5 0) = none) :
    s.acquire_ g req = (false, s) := by
  unfold State.acquire_
  extract_lets nr cl
  split
  · rfl
  · simp only [fresh, cl, nr, full]

theorem macq_done {o : MxOp} {ok : Bool} (h : Lone (.macq o) s p t) (calm : unwatched s (clusterOf p.core) = true)
    (group : s.groupOf t.name = some g) (answer : s.acquire_ g (srcReg (ctxOf p (.macq o)) t o.a) = (ok, u)) :
    runWord (.macq o) (bodyMacq o) s = finish (.macq o) p t.name s (u.modThread t.name (·.setPred o.d.toNat ok)) .next := by
  refine lone_done_of_body h ?_
  simp only [bodyMacq, ctxOf_pack, lone_actives h, trailOk_none calm, trail_none calm, List.isEmpty_cons, Bool.not_true, Bool.and_false,
    Bool.false_eq_true, if_false]
  exact forEach_lone h h.found (by simp only [group, answer])

theorem mrel_none {o : MxOp} (h : Lone (.mrel o) s p t) (group : s.groupOf t.name = some g) (none_ : s.pitchOf g = none) :
    runWord (.mrel o) (bodyMrel o) s = finish (.mrel o) p t.name s s .next := by
  refine lone_done_of_body h ?_
  simp only [bodyMrel, lone_actives h, List.head?_cons, Option.bind_some, group, none_]
  exact passOn_lone h h.found

theorem mrel_done {o : MxOp} (h : Lone (.mrel o) s p t) (at_ : AtPitch s t g x) (idle : s.pitchBusy x.cluster x.number = false) :
    runWord (.mrel o) (bodyMrel o) s = finish (.mrel o) p t.name s
      { s with engines := { s.engines with
        pitches := s.engines.pitches.filter (fun y => !(y.cluster == x.cluster && y.number == x.number)) } } .next := by
  refine lone_done_of_body h ?_
  obtain ⟨group, pitch, clean⟩ := at_
  simp only [bodyMrel, lone_actives h, List.head?_cons, Option.bind_some, group, pitch, clean, idle, Bool.false_eq_true, if_false, State.freePitch]
  exact passOn_lone h h.found

/-! ## Accumulator operations and evaluations (R236 to R239, R243, R401, R402) -/

theorem mzero_done {o : MxOp} {op : Nat} (h : Lone (.mzero o) s p t) (operand : op = srcReg (ctxOf p (.mzero o)) t o.a) (at_ : AtPitch s t g x)
    (inside : firstRow op + rowCount op ≤ x.rows) :
    runWord (.mzero o) (bodyMzero o) s = finish (.mzero o) p t.name s
      (s.putAccOp g x (.clear (o.sub6.getLsbD 0)) (firstRow op) (rowCount op) (bit op 22) 0 0 none) .next := by
  subst operand
  exact lone_done h rfl ((withPitch_at at_ _).trans (if_neg (Nat.not_lt.mpr inside)))

theorem mdrn_done {o : MxOp} {op n : Nat} {tl : Tile} {tab : List Byte} (h : Lone (.mdrn o) s p t)
    (operand : op = srcReg (ctxOf p (.mdrn o)) t o.a) (at_ : AtPitch s t g x) (home : tilePending s t (bits op 11 0) = false)
    (inside : firstRow op + rowCount op ≤ x.rows)
    (tile : engineTile s g (bits op 11 0) o.fb.toNat (64 * targetBytes o.fb.toNat * rowCount op) true (trapOf .illegalField (bits op 11 0)) =
      .ok (tl, n))
    (table : (o.fb.toNat ≤ 1 → requantTable s g (32 * o.imm.toNat) = .ok tab) ∧ (1 < o.fb.toNat → tab = [])) :
    runWord (.mdrn o) (bodyMdrn o) s = finish (.mdrn o) p t.name s
      (s.putAccOp g x (.drain o.mode.toNat o.fb.toNat tab) (firstRow op) (rowCount op) (bit op 22) tl.home.core (tl.at_ n) (some tl.credit))
      .next := by
  subst operand
  have table' : (if o.fb.toNat ≤ 1 then requantTable s g (32 * o.imm.toNat) else .ok []) = .ok tab := by
    obtain ⟨read, unused⟩ := table
    split
    next few => exact read few
    next many => rw [unused (Nat.not_le.mp many)]
  unfold rowCount at tile
  refine lone_done h (by simp [home]) ((withPitch_at at_ _).trans ((if_neg (Nat.not_lt.mpr inside)).trans ?_))
  simp only [tile, table']
  rfl

theorem mlda_done {o : MxOp} {op n : Nat} {tl : Tile} (h : Lone (.mlda o) s p t) (operand : op = srcReg (ctxOf p (.mlda o)) t o.a)
    (at_ : AtPitch s t g x) (home : tilePending s t (bits op 11 0) = false) (inside : firstRow op + rowCount op ≤ x.rows)
    (tile : engineTile s g (bits op 11 0) o.fb.toNat (256 * rowCount op) false (trapOf .illegalField (bits op 11 0)) = .ok (tl, n)) :
    runWord (.mlda o) (bodyMlda o) s = finish (.mlda o) p t.name s
      (s.putAccOp g x .loadBack (firstRow op) (rowCount op) (bit op 22) tl.home.core (tl.at_ n) (some tl.credit)) .next := by
  subst operand
  unfold rowCount at tile
  refine lone_done h (by simp [home]) ((withPitch_at at_ _).trans ((if_neg (Nat.not_lt.mpr inside)).trans ?_))
  simp only [tile]
  rfl

theorem geval_done {o : MxOp} {cfg : GramCfg} {op n : Nat} {tl : Tile} (h : Lone (.geval o) s p t)
    (operand : op = srcReg (ctxOf p (.geval o)) t o.a) (at_ : AtPitch s t g x) (home : tilePending s t (bits op 11 0) = false)
    (configured : x.gram = some cfg)
    (tile : engineTile s g (bits op 11 0) cfg.fx (fmtBytes cfg.fx ((bits op 16 12 + 1) * cfg.cols)) false (gramTrap 0xFFFFFFFE) = .ok (tl, n)) :
    runWord (.geval o) (bodyGeval o) s = finish (.geval o) p t.name s
      { s.nextOrder.2 with engines := { s.nextOrder.2.engines with evals := s.engines.evals ++ [evalOf s t x cfg tl n op o.q] } } .next := by
  subst operand
  refine lone_done h (by simp [home]) ((withPitch_at at_ _).trans ?_)
  simp only [configured, tile]
  rfl

/-! ## GCFG (R242, R382) -/

theorem gcfg_done {o : MxOp} {va : Nat} {cfg : GramCfg} {b : List Byte} {hits : List Nat} (h : Lone (.gcfg o) s p t)
    (operand : va = t.regsVal o.a.toNat 2) (at_ : AtPitch s t g x) (aligned : va % 64 = 0) (low : va < 2 ^ 57)
    (free : s.headerParked t.name = false ∧ s.acqPending t.name = false ∧ s.loadsOut t.name < 63)
    (read : s.readHeader t va = .ok b s1 hits) (good : gramCfg va x.rows b = some cfg) :
    runWord (.gcfg o) (bodyGcfg o) s = finish (.gcfg o) p t.name s (s1.modPitch x.cluster x.number (fun y => { y with gram := some cfg })) .next
      (watchCause hits) := by
  subst operand
  obtain ⟨unparked, noAcquire, room⟩ := free
  have own : gcfgThread o (ctxOf p (.gcfg o)) s t =
      .ok (s1.modPitch x.cluster x.number (fun y => { y with gram := some cfg })) .next (watchCause hits) := by
    refine (withPitch_at at_ _).trans ?_
    simp only [aligned, bne_self_eq_false, Bool.false_eq_true, if_false, Nat.not_le.mpr low, read, good]
  have parts := parts_lone (off := fun _ s _ => s) h h.found own
  refine lone_done_of_body h ?_
  simp only [bodyGcfg, lone_actives h, List.any_cons, List.any_nil, unparked, noAcquire, Nat.not_le.mpr room, decide_false, Bool.or_false,
    Bool.false_eq_true, if_false, ctxOf_pack, parts]
  rfl

/-! ## APOP (R235, R337, R338) -/

theorem popRow_head {r : Nat} {half : Bool} {rest : List (Nat × Bool)} (calm : unwatched s x.cluster = true) (head : x.queue = (r, half) :: rest)
    (slot wti : Nat) : s.popRow x slot wti = some (r, half, s.modPitch x.cluster x.number (fun y => { y with queue := rest })) := by
  have calm1 : unwatched (s.modPitch x.cluster x.number (fun y => { y with queue := rest })) x.cluster = true := calm
  simp only [State.popRow, head, trail_none calm1]

theorem apop_done {o : MxOp} {r : Nat} {half : Bool} {rest : List (Nat × Bool)} (h : Lone (.apop o) s p t) (at_ : AtPitch s t g x)
    (calm : unwatched s x.cluster = true) (head : x.queue = (r, half) :: rest) (first : s.apops g.core g.slot = []) :
    runWord (.apop o) (bodyApop o) s = finish (.apop o) p t.name s
      ((s.modPitch x.cluster x.number (fun y => { y with queue := rest })).modThread t.name
        (·.setRegs o.d.toNat (s.popValues x.cluster r half (t.name.wti % 32)))) .next := by
  obtain ⟨group, pitch, clean⟩ := at_
  refine lone_done_of_body h ?_
  simp only [bodyApop, lone_actives h, List.head?_cons, Option.bind_some, group, pitch, clean, trailOk_none calm, Bool.not_true, Bool.false_eq_true,
    if_false, first, List.isEmpty_nil, popRow_head calm head]
  rw [if_neg (by simp [head])]
  exact forEach_lone h h.found rfl

theorem apop_waits {o : MxOp} (h : Lone (.apop o) s p t) (at_ : AtPitch s t g x) (calm : unwatched s x.cluster = true)
    (later : x.queue = [] ∨ s.apops g.core g.slot ≠ []) :
    runWord (.apop o) (bodyApop o) s = finish (.apop o) p t.name s s.nextOrder.2 (.wait (.rowQueue o.d s.nextOrder.1)) := by
  obtain ⟨group, pitch, clean⟩ := at_
  have waits : (x.queue.isEmpty || !(s.apops g.core g.slot).isEmpty) = true := by simpa using later
  have noKill : killRegs (.apop o) = [] := by simp [killRegs, flds, vecSpec]
  refine lone_done_of_body h ?_
  simp only [bodyApop, lone_actives h, List.head?_cons, Option.bind_some, group, pitch, clean, trailOk_none calm, Bool.not_true, Bool.false_eq_true,
    if_false, waits, if_true, ctxOf_pack, h.threads, kill_nil noKill, List.map_cons, List.map_nil, List.contains_cons, beq_self_eq_true,
    Bool.true_or]

/-! ## Bins (R273, R350) -/

theorem binEntry_calm {o : AgOp} {b : BinSet} (at_ : BinWord s t o (srcReg (ctxOf p i) t o.a) b) :
    ∀ e, binEntry o (ctxOf p i) s t = some e → unwatched s e.1 = true := by
  intro e he
  simp only [binEntry, at_.set, Option.map_some] at he
  cases he
  exact at_.unlogged

/-- The id that a bin word appends: none for one that clears. -/
def binId (o : AgOp) (c : Ctx) (t : Thread) (clear : Bool) : Option Nat := if clear then none else some (srcReg c t o.b)

theorem bina_done {o : AgOp} {b : BinSet} (clear : Bool) (h : Lone i s p t) (drained : s.drained t.name = true)
    (at_ : BinWord s t o (srcReg (ctxOf p i) t o.a) b) :
    runWord i (binaBody o clear) s = finish i p t.name s
      (binSteps s t o (srcReg (ctxOf p i) t o.a) b (binId o (ctxOf p i) t clear)).1 .next
      (watchCause (binSteps s t o (srcReg (ctxOf p i) t o.a) b (binId o (ctxOf p i) t clear)).2) := by
  refine lone_done_of_body h ((gated_lone h (binEntry_calm at_)).trans (eachThread_lone h drained ?_))
  obtain ⟨set, order, inside, range, sound, -⟩ := at_
  simp only [set, range]
  rw [if_neg (by simp; omega), List.find?_eq_none.mpr fun i hi => by simp [sound i hi]]
  rfl

/-! ## Occlusion counters and rasterisation (R283, R284, R408, R418) -/

theorem occr_done {o : AgOp} (clear : Bool) (h : Lone i s p t) (calm : unwatched s (clusterOf t.name.core) = true) :
    runWord i (occrBody o clear) s = finish i p t.name s
      ((if clear then s.setOcclusion (clusterOf t.name.core) (srcReg (ctxOf p i) t o.a % 4096) 0 else s).modThread t.name (·.setReg o.d.toNat
        (BitVec.ofNat 32 (s.occlusion (clusterOf t.name.core) (srcReg (ctxOf p i) t o.a % 4096))))) .next := by
  refine lone_done_of_body h ((gated_lone h fun e he => ?_).trans (eachThread_lone h rfl ?_))
  · cases he
    exact calm
  · simp only [trail_none calm]

theorem rast_done {o : AgOp} {r : RastOp} {w : Word32} (h : Lone (.rast o) s p t)
    (mine : s.engines.rasts.filter (fun x => [t.name].contains x.thread) = [r]) (performed : r.done = some w) :
    runWord (.rast o) (bodyRast o) s = finish (.rast o) p t.name s
      (State.modThread { s with engines := { s.engines with rasts := s.engines.rasts.filter (fun x => !([t.name].contains x.thread)) } } t.name
        (·.setReg o.d.toNat w)) .next := by
  have own : r.thread = t.name := by
    have mem : r ∈ s.engines.rasts.filter (fun x => [t.name].contains x.thread) := mine ▸ List.mem_singleton_self r
    simpa using (List.mem_filter.mp mem).2
  refine lone_done_of_body h ?_
  simp only [bodyRast, lone_actives h, mine, List.isEmpty_cons, Bool.not_false, if_true, List.any_cons, List.any_nil, performed, Option.isNone_some,
    Bool.or_false, Bool.false_eq_true, if_false]
  exact forEach_lone h h.found (by simp [own, performed])

/-! ## SAMP (R425, R426) -/

theorem samp_done {o : MrOp} {r : List Word32} (h : Lone (.samp o) s p t) (room : s.loadsOut t.name < 63) (open_ : s.acqPending t.name = false)
    (checks : s.sample { name := t.name, level := t.level, pc := (ctxOf p (.samp o)).pc, word := (ctxOf p (.samp o)).word }
      (sampOperands t o.a.toNat).1 (sampOperands t o.a.toNat).2 (o.off.getLsbD 0) = .ok r s1) :
    runWord (.samp o) (bodySamp o) s = finish (.samp o) p t.name s
      { s.nextOrder.2 with store := { s.nextOrder.2.store with outst := s.store.outst ++ [sampleOf s p t o] } } .next := by
  refine lone_done h (by simp [room, open_]) ?_
  simp only [checks]
  rfl

/-! ## TSPAWN (R112, R436) -/

/-- What a spawn makes of a state: a release, the read of its record, and the task in its entry. -/
def spawns (s : State) (t : Thread) (off : Nat) (g : Workgroup) (r : TaskRec) (e : Nat) : State :=
  (((s.release t.name.core 2).closeRegion t.name).watch agentDevice (some g.core) (g.base + off) 128 true false (fun _ => true)).2.spawnTask
    (clusterOf g.core) e g.lid g.q g.group g.w g.cls r none

theorem tspawn_done {o : AgOp} {l : Launch} {r : TaskRec} {e : Nat} (h : Lone (.tspawn o) s p t) (fresh : t.name ∉ p.spawned)
    (drained : s.drained t.name = true) (record : tspawnRec s t (srcReg (ctxOf p (.tspawn o)) t o.a) = .ok (g, l, r))
    (room : s.freeEntry (clusterOf g.core) g.cls = some e) (effect : u = spawns s t (srcReg (ctxOf p (.tspawn o)) t o.a) g r e)
    (stays : ((u.kill t.name (.tspawn o)).thread? t.name).any (fun x => x.st == .issuing) = true) :
    runWord (.tspawn o) (bodyTspawn o) s = finish (.tspawn o) p t.name s u .next := by
  have todo : [t.name].filter (fun n => !(p.spawned.contains n)) = [t.name] := by simpa using fresh
  have gone : tspawnGo (ctxOf p (.tspawn o)) o s [t.name] = (u.kill t.name (.tspawn o), [], false) := by
    simp only [tspawnGo, h.found, drained, Bool.not_true, Bool.false_eq_true, if_false, record, room, effect]
    rfl
  obtain ⟨v, found, issuing⟩ := (Option.any_eq_true _ _).mp stays
  refine lone_done_of_body h ?_
  simp only [bodyTspawn, ctxOf_pack, lone_actives h, todo, gone, h.threads, List.filter_cons, List.filter_nil, found, issuing, if_true,
    List.map_cons, List.map_nil]

end

/-- Settles O28: a leader's checks make one quarter, and the quarter makes the unit. -/
theorem matrixIssue : Obligations.MatrixIssue := by
  intro o s p t g x q b key s1 fired lone fresh at_ running leads tileA tileB checks after pack
  have checked := mmaThread_leads lone.found at_ leads checks
  refine congrArg Host.Outcome.next ?_
  rw [runWord_of_runs _ lone.go, bodyMma_checked lone fresh (mmaPending_none tileA tileB) running checked after pack]
  rfl

/-- Settles O27: each clause of the rule by the lemma of its word. -/
theorem engineWords : Obligations.EngineWords := by
  intro i s p t s1 fate after lone rule
  cases rule with
  | macq o g k base calm group legal fresh room =>
    exact congrArg Host.Outcome.next (macq_done lone calm group (acquire_new legal fresh room))
  | macqHeld o g x calm group legal held => exact congrArg Host.Outcome.next (macq_done lone calm group (acquire_held legal held))
  | macqNone o g calm group fresh full => exact congrArg Host.Outcome.next (macq_done lone calm group (acquire_full fresh full))
  | mrelNone o g group none_ => exact congrArg Host.Outcome.next (mrel_none lone group none_)
  | mrel o g x at_ idle => exact congrArg Host.Outcome.next (mrel_done lone at_ idle)
  | mzero o g x op operand at_ inside => exact congrArg Host.Outcome.next (mzero_done lone operand at_ inside)
  | mdrn o g x op v tl tab operand at_ home inside tile table =>
    exact congrArg Host.Outcome.next (mdrn_done lone operand at_ home inside tile table)
  | mlda o g x op v tl operand at_ home inside tile => exact congrArg Host.Outcome.next (mlda_done lone operand at_ home inside tile)
  | mma o u issued granted => exact congrArg Host.Outcome.next (mma_granted lone issued granted)
  | mmaIdle o g x fresh at_ follower running => exact congrArg Host.Outcome.next (mma_idle lone fresh at_ follower running)
  | apop o g x r h rest at_ calm head first => exact congrArg Host.Outcome.next (apop_done lone at_ calm head first)
  | apopWait o g x at_ calm later => exact congrArg Host.Outcome.next (apop_waits lone at_ calm later)
  | gcfg o g x va cfg b s1 hits operand at_ aligned low free read good =>
    exact congrArg Host.Outcome.next (gcfg_done lone operand at_ aligned low free read good)
  | geval o g x cfg op v tl operand at_ home configured tile =>
    exact congrArg Host.Outcome.next (geval_done lone operand at_ home configured tile)
  | bina o b drained at_ => exact congrArg Host.Outcome.next (bina_done false lone drained at_)
  | binaClr o b drained at_ => exact congrArg Host.Outcome.next (bina_done true lone drained at_)
  | occr o calm => exact congrArg Host.Outcome.next (occr_done false lone calm)
  | occrClr o calm => exact congrArg Host.Outcome.next (occr_done true lone calm)
  | rast o r v mine performed => exact congrArg Host.Outcome.next (rast_done lone mine performed)
  | samp o room open_ op operand checks =>
    subst operand
    obtain ⟨r, s1, checks⟩ := checks
    exact congrArg Host.Outcome.next (samp_done lone room open_ checks)
  | tspawn o g l r e u fresh drained record room effect stays =>
    exact congrArg Host.Outcome.next (tspawn_done lone fresh drained record room effect stays)

end Sys2Proof

/-! Ring words and QINIT complete for a lone pack (R263 to R265, R415, R423), and a publish ends the chains whose work is then over (R261). -/

namespace Sys2Proof

open Machine

section

variable {s : State} {p : Pack} {t : Thread} {g : Workgroup} {o : AgOp} {x : RingSlot} {a : Nat}

/-! ## The ring and the slot a word names (R263, R264) -/

theorem ringCheck_at (at_ : AtRing s t a g) : ringCheck s t a = .ok (g, s.ring a) := by
  obtain ⟨group, valid, bound⟩ := at_
  have chained : ((s.ring a).bnd && g.chain.isNone) = false := by
    cases e : (s.ring a).bnd with
    | false => rfl
    | true => simp [bound e]
  simp only [ringCheck, group, valid, chained, Bool.false_eq_true, if_false]

theorem ringHeld_at {st : SlotState} (holds : HoldsSlot s t a st g x) : ringHeld s t a st = .ok (s.ring (bits a 7 0), x) := by
  obtain ⟨field, ring, found, state, owner⟩ := holds
  simp only [ringHeld, Nat.not_le.mpr field, if_false, ringCheck_at ring, found, state, owner, beq_self_eq_true, Bool.and_self, if_true]

/-! ## Ring words (R265, R423) -/

/-- What RGACQ finds in its turn: the slot word and the state after its acquisition, or none while it must wait. -/
def acquisition (s : State) (t : Thread) (g : Workgroup) (a : Nat) (consumer : Bool) : Option (Nat × State) :=
  if s.nextOrder.2.ringAhead a consumer s.nextOrder.1 then none else s.nextOrder.2.ringTry g t.name.wti a consumer

/-- RGACQ at a ring that its thread may use on the side it asks for. -/
theorem rgacq_done (h : Lone (.rgacq o) s p t) (field : srcReg (ctxOf p (.rgacq o)) t o.a < 256)
    (at_ : AtRing s t (srcReg (ctxOf p (.rgacq o)) t o.a) g)
    (side : o.sub6.getLsbD 0 = true → (s.ring (srcReg (ctxOf p (.rgacq o)) t o.a)).conk = 0) :
    runWord (.rgacq o) (bodyRgacq o) s =
      match acquisition s t g (srcReg (ctxOf p (.rgacq o)) t o.a) (o.sub6.getLsbD 0) with
      | some (w, s1) => finish (.rgacq o) p t.name s (s1.modThread t.name (·.setReg o.d.toNat (BitVec.ofNat 32 w))) .next
      | none => finish (.rgacq o) p t.name s s.nextOrder.2
          (.wait (.ring (srcReg (ctxOf p (.rgacq o)) t o.a) (o.sub6.getLsbD 0) o.d s.nextOrder.1)) := by
  have allowed : (o.sub6.getLsbD 0 && (s.ring (srcReg (ctxOf p (.rgacq o)) t o.a)).conk != 0) = false := by
    cases e : o.sub6.getLsbD 0 with
    | false => rfl
    | true => simp [side e]
  unfold bodyRgacq
  split
  all_goals
    rename_i got
    refine lone_done h rfl ?_
    unfold acquisition at got
    simp only [Nat.not_le.mpr field, if_false, ringCheck_at at_, allowed, Bool.false_eq_true, got]

theorem rgrelRel_done (h : Lone (.rgrelRel o) s p t) (holds : HoldsSlot s t (srcReg (ctxOf p (.rgrelRel o)) t o.a) .draining g x) :
    runWord (.rgrelRel o) (bodyRgrelRel o) s = finish (.rgrelRel o) p t.name s (s.releaseSlot x) .next :=
  lone_done h rfl (by simp only [ringHeld_at holds])

theorem rgrelPub_done (h : Lone (.rgrelPub o) s p t) (holds : HoldsSlot s t (srcReg (ctxOf p (.rgrelPub o)) t o.a) .filling g x)
    (unpublished : x.publishing = false) :
    runWord (.rgrelPub o) (bodyRgrelPub o) s = finish (.rgrelPub o) p t.name s (s.publishSlot x) .next :=
  lone_done h rfl (by simp only [ringHeld_at holds, unpublished, Bool.false_eq_true, if_false])

theorem rghold_done (h : Lone (.rghold o) s p t) (low : srcReg (ctxOf p (.rghold o)) t o.b < 2 ^ 14)
    (clean : bits (srcReg (ctxOf p (.rghold o)) t o.b) 7 6 = 0)
    (holds : HoldsSlot s t (srcReg (ctxOf p (.rghold o)) t o.a) .draining g x)
    (lines : bits (srcReg (ctxOf p (.rghold o)) t o.b) 5 0 + (bits (srcReg (ctxOf p (.rghold o)) t o.b) 13 8 + 1) ≤
      (s.ring (bits (srcReg (ctxOf p (.rghold o)) t o.a) 7 0)).lines) :
    runWord (.rghold o) (bodyRghold o) s = finish (.rghold o) p t.name s
      (s.modSlot x.ring x.slot fun y =>
        { y with hold := some (bits (srcReg (ctxOf p (.rghold o)) t o.b) 5 0, bits (srcReg (ctxOf p (.rghold o)) t o.b) 13 8 + 1) }) .next := by
  refine lone_done h rfl ?_
  have legal : (decide (2 ^ 14 ≤ srcReg (ctxOf p (.rghold o)) t o.b) || bits (srcReg (ctxOf p (.rghold o)) t o.b) 7 6 != 0) = false := by
    simpa [clean] using low
  simp only [legal, Bool.false_eq_true, if_false, ringHeld_at holds, Nat.not_lt.mpr lines]

/-! ## QINIT (R415) -/

theorem queueAt_named {r : QRef} (at_ : AtQueue s t a r) : queueAt s t a false = .ok r := by
  obtain ⟨group, aligned, inside, place⟩ := at_
  simp only [queueAt, group, aligned, bne_self_eq_false, Bool.false_eq_true, if_false, Nat.not_lt.mpr inside, Bool.false_and, ← place]

/-- The fields of a QINIT are legal (R415): reserved bits are zero, no count is zero, the base is aligned, and the spill region is aligned or
absent. `w0` and `w1` are the register pairs, `scap` the spill capacity. -/
structure QinitLegal (w0 w1 scap : Nat) (q : Queue) : Prop where
  clean : bits w0 51 49 = 0 ∧ bits w0 33 20 = 0 ∧ bits w1 62 57 = 0
  counts : q.cap ≠ 0 ∧ q.npr ≠ 0 ∧ q.nco ≠ 0 ∧ q.base % 8 = 0
  spill : (q.sv = true ∧ q.spa % 64 = 0) ∨ (q.sv = false ∧ q.spa = 0 ∧ scap = 0)

theorem QinitLegal.passes {w0 w1 scap : Nat} {q : Queue} (legal : QinitLegal w0 w1 scap q) :
    (bits w0 51 49 != 0 || bits w0 33 20 != 0 || bits w1 62 57 != 0 || q.cap == 0 || q.npr == 0 || q.nco == 0 || q.base % 8 != 0 ||
      (q.sv && q.spa % 64 != 0) || (!q.sv && (q.spa != 0 || scap != 0))) = false := by
  obtain ⟨⟨high, mid, top⟩, ⟨cap, npr, nco, base⟩, ⟨region, aligned⟩ | ⟨region, zero, empty⟩⟩ := legal
  · simp [high, mid, top, cap, npr, nco, base, region, aligned]
  · simp [high, mid, top, cap, npr, nco, base, region, zero, empty]

/-- No thread waits at a queue that is made again, and it holds no spilled entry (R415). -/
theorem remake_free {r : QRef} (idle : s.mark? r.g.core r.a true = none ∨
      (s.pushers r = [] ∧ s.poppers r = [] ∧ (s.readQueue r.g.core r.a).scnt = 0)) :
    ((s.mark? r.g.core r.a true).isSome &&
      (!(s.pushers r).isEmpty || !(s.poppers r).isEmpty || (s.readQueue r.g.core r.a).scnt != 0)) = false := by
  rcases idle with none_ | ⟨pushers, poppers, unspilled⟩
  · simp [none_]
  · simp [pushers, poppers, unspilled]

theorem qinit_done {r : QRef} {q : Queue} (h : Lone (.qinit o) s p t) (at_ : AtQueue s t (srcReg (ctxOf p (.qinit o)) t o.a) r)
    (desc : q = queueOfWords (t.regsVal o.d.toNat 2) (t.regsVal (o.d.toNat + 2) 2) (srcReg (ctxOf p (.qinit o)) t o.b * 2 ^ 32) 0 0 0)
    (fits : q.base + q.cap * q.size ≤ r.g.size)
    (legal : QinitLegal (t.regsVal o.d.toNat 2) (t.regsVal (o.d.toNat + 2) 2) (srcReg (ctxOf p (.qinit o)) t o.b) q)
    (idle : s.mark? r.g.core r.a true = none ∨ (s.pushers r = [] ∧ s.poppers r = [] ∧ (s.readQueue r.g.core r.a).scnt = 0)) :
    runWord (.qinit o) (bodyQinit o) s = finish (.qinit o) p t.name s ((s.putMark r.g.core r.a true).writeQueue r.g.core r.a q) .next := by
  refine lone_done h rfl ?_
  simp only [queueAt_named at_, ← desc]
  exact (if_neg (Nat.not_lt.mpr fits)).trans
    ((if_neg (ne_true_of_eq_false legal.passes)).trans (if_neg (ne_true_of_eq_false (remake_free idle))))

end

/-- Settles O21, clause by clause. -/
theorem ringWords : Obligations.RingWords := by
  intro i s p t s1 fate lone rule
  cases rule with
  | acquire o g w s1 field at_ side first got =>
    have acquired : acquisition s t g _ (o.sub6.getLsbD 0) = some (w, s1) := (if_neg (ne_true_of_eq_false first)).trans got
    refine congrArg Host.Outcome.next ((rgacq_done lone field at_ side).trans ?_)
    rw [acquired]
  | wait o g field at_ side later =>
    have waits : acquisition s t g (srcReg (ctxOf p (.rgacq o)) t o.a) (o.sub6.getLsbD 0) = none := by
      rcases later with ahead | unready
      · exact if_pos ahead
      · exact ite_eq_left_iff.mpr fun _ => unready
    refine congrArg Host.Outcome.next ((rgacq_done lone field at_ side).trans ?_)
    rw [waits]
  | release o g x holds => exact congrArg Host.Outcome.next (rgrelRel_done lone holds)
  | hold o g x b field low clean holds lines =>
    subst field
    exact congrArg Host.Outcome.next (rghold_done lone low clean holds lines)
  | qinit o r q at_ desc fits counts clean spill idle =>
    exact congrArg Host.Outcome.next (qinit_done lone at_ desc fits ⟨clean, counts, spill⟩ idle)

/-- Settles O22: RGREL.PUB publishes as it completes, and then the chains settle. -/
theorem ringPublish : Obligations.RingPublish := by
  intro o s p t g x lone holds unpublished
  exact congrArg (fun u => Host.Outcome.next u.settleChains) (rgrelPub_done lone holds unpublished)

end Sys2Proof

/-! The device time counter (R247, R248): nothing that a cycle does before it advances touches the clock, and its registers read and write
it as they say. -/

namespace Sys2Proof

open Machine

/-! ## What leaves the clock alone -/

section

variable (s : State)

theorem foldl_clock {α : Type} {f : State → α → State} (keeps : ∀ u x, (f u x).clock = u.clock) (l : List α) :
    (l.foldl f s).clock = s.clock :=
  List.foldlRecOn (motive := fun u => u.clock = s.clock) l f rfl fun u same x _ => (keeps u x).trans same

/-! ### Debug records, stops and the trail log (R306 to R318) -/

@[simp] theorem setDbg_clock (p off v : Nat) : (s.setDbg p off v).clock = s.clock := rfl

@[simp] theorem deferTo_clock (p : Nat) (x : Thawing) : (s.deferTo p x).clock = s.clock := rfl

@[simp] theorem debugRecord_clock (p : Nat) (b : List Byte) : (s.debugRecord p b).clock = s.clock := by
  unfold State.debugRecord
  extract_lets
  split
  · rfl
  · split <;> rfl

@[simp] theorem eventRecord_clock (p c : Nat) (n : Option ThreadName) (code detail addr : Nat) :
    (s.eventRecord p c n code detail addr).clock = s.clock := debugRecord_clock ..

@[simp] theorem triggerStop_clock (p src idx : Nat) : (s.triggerStop p src idx).clock = s.clock := by
  unfold State.triggerStop
  split <;> rfl

@[simp] theorem trailRaw_clock (p w0 w1 : Nat) : (s.trailRaw p w0 w1).clock = s.clock := by
  simp only [State.trailRaw, setDbg_clock, State.setMem_clock]

@[simp] theorem trailClose_clock (p : Nat) : (s.trailClose p).clock = s.clock := by
  unfold State.trailClose
  extract_lets pipes s1 s2 s3
  have counted : s1.clock = s.clock := by
    refine foldl_clock s ?_ pipes
    rintro u ⟨core, pipe⟩
    apply trailRaw_clock
  have horizon : s2.clock = s1.clock := by apply trailRaw_clock
  have closed : s3.clock = s2.clock := by apply setDbg_clock
  clear_value s3
  exact (eventRecord_clock ..).trans (closed.trans (horizon.trans counted))

@[simp] theorem trail_clock (p w0 w1 : Nat) : (s.trail p w0 w1).clock = s.clock := by
  unfold State.trail
  split
  · split
    · rfl
    · generalize s.trailBuf p = buffer
      obtain ⟨_, size, _, wp⟩ := buffer
      dsimp only
      split
      · exact triggerStop_clock ..
      · rfl
  · split
    · split
      · exact trailRaw_clock ..
      · exact trailClose_clock ..
    · rfl

@[simp] theorem fireWatch_clock (p i v : Nat) (ag : Agent) (scratch : Option Nat) (addr n : Nat) (rd wr : Bool) :
    (s.fireWatch p i v ag scratch addr n rd wr).clock = s.clock := debugRecord_clock ..

@[simp] theorem watch_clock (ag : Agent) (scratch : Option Nat) (addr n : Nat) (rd wr : Bool) (only : Nat → Bool) :
    (s.watch ag scratch addr n rd wr only).2.clock = s.clock :=
  (foldl_clock _ (fun _ _ => triggerStop_clock ..) _).trans (foldl_clock s (fun _ _ => fireWatch_clock ..) _)

/-! ### Memory at its home and lines (R146, R304) -/

@[simp] theorem logError_clock (lid cause addr : Nat) : (s.logError lid cause addr).clock = s.clock := rfl

@[simp] theorem writeOver_clock (lid base a : Nat) (b : List Byte) (m : Mem) : (s.writeOver lid base a b m).2.clock = s.clock := by
  unfold State.writeOver
  split
  · rfl
  · extract_lets _ _ cut
    cases cut <;> rfl

@[simp] theorem memWrite_clock (lid pa : Nat) (b : List Byte) : (s.memWrite lid pa b).clock = s.clock := writeOver_clock ..

@[simp] theorem scratchStore_clock (lid core a : Nat) (b : List Byte) : (s.scratchStore lid core a b).clock = s.clock := writeOver_clock ..

@[simp] theorem writeHalf_clock (l : Line) (k : Nat) : (s.writeHalf l k).clock = s.clock := by
  unfold State.writeHalf
  extract_lets
  split
  · rfl
  · split
    · rfl
    · split
      · exact memWrite_clock ..
      · rfl

@[simp] theorem writeBack_clock (l : Line) : (s.writeBack l).clock = s.clock := by
  unfold State.writeBack
  split
  · rfl
  · refine (foldl_clock _ (fun u k => ?_) _).trans (by simp)
    split
    · rfl
    · exact watch_clock ..

@[simp] theorem release_clock (core scope : Nat) : (s.release core scope).clock = s.clock := by
  unfold State.release
  split
  · exact foldl_clock s (fun _ _ => writeBack_clock ..) _
  · rfl

@[simp] theorem acquire_clock (core scope : Nat) : (s.acquire core scope).clock = s.clock := by
  unfold State.acquire
  split
  · exact foldl_clock s (fun _ _ => writeBack_clock ..) _
  · rfl

/-! ### Traps, the end of a thread, retirement (R45, R294, R298, R373) -/

@[simp] theorem logBatches_clock (t : Thread) : (s.logBatches t).clock = s.clock := by
  refine foldl_clock s (fun u b => ?_) _
  split
  · split <;> rfl
  · rfl

@[simp] theorem settleExit_clock (core slot : Nat) : (s.settleExit core slot).clock = s.clock := by
  unfold State.settleExit
  extract_lets
  split <;> rfl

@[simp] theorem endThread_clock (n : ThreadName) : (s.endThread n).clock = s.clock := by
  unfold State.endThread
  split
  · rfl
  · simp

@[simp] theorem endHandler_clock (t : Thread) (info : TrapInfo) : (s.endHandler t info).clock = s.clock := by
  unfold State.endHandler
  extract_lets
  split
  · exact endThread_clock ..
  · rfl

@[simp] theorem takeTrap_clock (n : ThreadName) (r : Trapped) : (s.takeTrap n r).clock = s.clock := by
  unfold State.takeTrap
  split
  · rfl
  · split
    · exact endHandler_clock ..
    · rfl

@[simp] theorem takeDue_clock (n : ThreadName) : (s.takeDue n).clock = s.clock := by
  unfold State.takeDue
  split
  · rfl
  · split
    · rfl
    · -- `split` would take the match within the condition apart
      generalize (_ || _ : Bool) = stays
      cases stays
      · exact takeTrap_clock ..
      · rfl

@[simp] theorem trapAfter_clock (n : ThreadName) (l : List TrapInfo) (at_ : Pc) (word own : Word64) (resume : Pc) (pa pb : BitVec 28) :
    (s.trapAfter n l at_ word own resume pa pb).clock = s.clock := by
  unfold State.trapAfter
  split
  · rfl
  · exact takeTrap_clock ..

@[simp] theorem retireThread_clock (o : Out) (pc : Pc) (h w : Word64) (pa pb : BitVec 28) :
    (s.retireThread o pc h w pa pb).clock = s.clock := by
  unfold State.retireThread
  split
  · rfl
  · rfl
  · extract_lets
    split
    · exact takeDue_clock ..
    · exact trapAfter_clock ..
    · rfl

@[simp] theorem wake_clock (n : ThreadName) (fate : Fate) (after : List TrapInfo) : (s.wake n fate after).clock = s.clock := by
  unfold State.wake
  split
  · rfl
  · split
    · rfl
    · exact retireThread_clock ..

/-! ### Barrier objects (R201) -/

@[simp] theorem writeBar_clock (core a : Nat) (b : Bar) : (s.writeBar core a b).clock = s.clock :=
  (watch_clock ..).trans (scratchStore_clock ..)

@[simp] theorem wakeBarrier_clock (n : ThreadName) (scope : Nat) : (s.wakeBarrier n scope).clock = s.clock := by
  unfold State.wakeBarrier
  split
  · rfl
  · exact (wake_clock ..).trans (acquire_clock ..)

@[simp] theorem phaseDone_clock (core a : Nat) : (s.phaseDone core a).clock = s.clock := by
  unfold State.phaseDone
  extract_lets s1 _ _ s2
  have reset : s1.clock = s.clock := by
    dsimp only [s1]
    split <;> rfl
  exact (foldl_clock s2 (fun u x => wakeBarrier_clock u ..) _).trans reset

@[simp] theorem barSettle_clock (core a : Nat) : (s.barSettle core a).clock = s.clock := by
  unfold State.barSettle
  split
  · rfl
  · extract_lets
    split
    · rfl
    · split
      · rfl
      · exact (phaseDone_clock ..).trans (writeBar_clock ..)

@[simp] theorem barDo_clock (o : BarOp) : (s.barDo o).clock = s.clock := by
  unfold State.barDo
  extract_lets
  split
  · rfl
  · split
    · rfl
    · refine (barSettle_clock ..).trans ?_
      split
      · exact writeBar_clock ..
      · exact (trail_clock ..).trans (writeBar_clock ..)

@[simp] theorem barStep_clock (o : BarOp) : (s.barStep o).clock = s.clock := by
  unfold State.barStep
  split
  · rfl
  · exact barDo_clock ..

@[simp] theorem barRetry_clock : s.barRetry.clock = s.clock := foldl_clock _ barStep_clock _

end

/-! ## A cycle (R247, R429) -/

/-- With power on a cycle adds INC to the device time counter and 1 to the cycle counter. -/
theorem tick_clock {s : State} (powered : s.control.fw.powerOff = false) :
    s.tick.clock = { s.clock with dtc := s.clock.dtc + BitVec.ofNat 136 s.clock.inc, clk := s.clock.clk + 1 } := by
  rw [← barRetry_clock s]
  simp only [State.tick, powered, Bool.false_eq_true, if_false]

/-- INC stays within 2^73 units, and no adjustment stops time. -/
theorem inc_bounds (c : Clock) : 0 < c.inc ∧ c.inc < 2 ^ 73 := by
  have low := BitVec.le_toInt c.adj
  have high := BitVec.toInt_lt (x := c.adj)
  unfold Clock.inc
  generalize c.adj.toInt = a at low high
  omega

theorem tick_dtc {s : State} (powered : s.control.fw.powerOff = false) :
    s.tick.clock.dtc.toNat = (s.clock.dtc.toNat + s.clock.inc) % 2 ^ 136 := by
  rw [tick_clock powered, BitVec.toNat_add, BitVec.toNat_ofNat, Nat.add_mod_mod]

theorem dtc_rises {s : State} (powered : s.control.fw.powerOff = false) (room : s.clock.dtc.toNat + 2 ^ 73 < 2 ^ 136) :
    s.clock.dtc.toNat < s.tick.clock.dtc.toNat := by
  obtain ⟨positive, bounded⟩ := inc_bounds s.clock
  rw [tick_dtc powered, Nat.mod_eq_of_lt (by omega)]
  omega

/-! ## The registers (R247) -/

theorem devRead_dtcn (s : State) : s.devRead 0xF000000001000 8 = s.dtcNs % 2 ^ 64 := rfl

theorem devRead_dtcfr (s : State) : s.devRead 0xF000000001008 8 = s.dtc96 % 2 ^ 32 := rfl

theorem writeAdj_adj (s : State) (v : BitVec 32) : (s.writeAdj v).clock.adj.toInt = max (-549755814) (min 549755814 v.toInt) := by
  show (BitVec.ofInt 32 (satN v.toInt (-adjMax) adjMax)).toInt = _
  rw [satN_eq (by decide), adjMax, min_comm, BitVec.toInt_ofInt_eq_self (by decide)] <;> omega

/-- A machine-level register takes no write from below machine level. -/
theorem regWrite_machine {r : DevReg} (machine : r.machine = true) (s : State) (src : Nat) (v mask : Word64) :
    s.regWrite r false src v mask = s := by
  cases r with
  | adj | stepv | stref => rfl
  | _ => cases machine

theorem devWrite_machine {r : DevReg} {pa : Nat} (at_ : devReg (pa / 8 * 8 - 0xF000000000000) = some r) (machine : r.machine = true)
    (s : State) (n v src : Nat) : s.devWrite pa n v false src = s := by
  rw [State.devWrite, at_]
  exact regWrite_machine machine ..

/-- The registers that R247 places at 0x10 to 0x20 are machine level. -/
theorem devReg_timeControl {o : Nat} (place : o = 0x10 ∨ o = 0x18 ∨ o = 0x20) :
    ∃ r, devReg ((0xF000000001000 + o) / 8 * 8 - 0xF000000000000) = some r ∧ r.machine = true := by
  rcases place with rfl | rfl | rfl
  · exact ⟨.adj, rfl, rfl⟩
  · exact ⟨.stepv, rfl, rfl⟩
  · exact ⟨.stref, rfl, rfl⟩

theorem registerWrite_timeControl {o : Nat} (place : o = 0x10 ∨ o = 0x18 ∨ o = 0x20) (s : State) (v : BitVec 64) {level : BitVec 2}
    (low : level.toNat < 2) : exec (.registerWrite (BitVec.ofNat 52 (0xF000000001000 + o)) v level) s = .next s := by
  obtain ⟨r, at_, machine⟩ := devReg_timeControl place
  have address : (BitVec.ofNat 52 (0xF000000001000 + o)).toNat = 0xF000000001000 + o :=
    Nat.mod_eq_of_lt (by omega)
  have below : decide (2 ≤ level.toNat) = false := decide_eq_false (Nat.not_le.mpr low)
  show Host.Outcome.next _ = _
  rw [address, below, devWrite_machine at_ machine, ite_self]

/-- Settles O57: reset by evaluation, the cycle by its effect on the clock, the registers by what stands at their addresses. -/
theorem deviceTime : Obligations.DeviceTime := by
  refine ⟨⟨rfl, rfl, rfl⟩, fun s powered => ⟨_, rfl, tick_dtc powered, dtc_rises powered⟩,
    fun s => ⟨devRead_dtcn s, devRead_dtcfr s⟩, fun s v => ⟨_, rfl, writeAdj_adj s _, rfl⟩, fun s o v level place low => ?_⟩
  exact ⟨s, registerWrite_timeControl place s v low, rfl⟩

/-! ## A step of time (R248) -/

/-- The state with another value of the device time counter. -/
def withDtc (s : State) (d : BitVec 136) : State := { s with clock := { s.clock with dtc := d } }

/-- Setting the counter touches the counter alone. -/
theorem withDtc_frame (s : State) (d : BitVec 136) :
    (withDtc s d).clock = { s.clock with dtc := d } ∧ (withDtc s d).store = s.store ∧ (withDtc s d).work = s.work ∧
      (withDtc s d).engines = s.engines ∧ (withDtc s d).media = s.media := ⟨rfl, rfl, rfl, rfl, rfl⟩

theorem writeStepv_applied {s : State} {v : BitVec 64} (off : s.stripMode = false) (forward : 0 ≤ v.toInt) :
    s.writeStepv v = withDtc s (s.clock.dtc + BitVec.ofNat 136 (v.toNat * 2 ^ 72)) :=
  if_neg (by simp [off, forward])

theorem writeStepv_refused {s : State} {v : BitVec 64} (refused : s.stripMode = true ∨ v.toInt < 0) :
    s.writeStepv v = { s with clock := { s.clock with stref := true } } :=
  if_pos (by simpa using refused)

/-- A step is a whole number of nanoseconds, so the part of the counter below DTCFR keeps its value. -/
theorem step_residue (dtc v : Nat) : (dtc + v * 2 ^ 72) % 2 ^ 136 % 2 ^ 40 = dtc % 2 ^ 40 := by
  omega

theorem stepped_toNat (dtc : BitVec 136) (v : Nat) :
    (dtc + BitVec.ofNat 136 (v * 2 ^ 72)).toNat = (dtc.toNat + v * 2 ^ 72) % 2 ^ 136 := by
  rw [BitVec.toNat_add, BitVec.toNat_ofNat, Nat.add_mod_mod]

/-- Settles O58: a step is applied or refused, and either touches the clock alone. -/
theorem timeStep : Obligations.TimeStep := by
  intro s v
  refine ⟨s.writeStepv v, rfl, ?_⟩
  by_cases refused : s.stripMode = true ∨ v.toInt < 0
  · rw [writeStepv_refused refused]
    refine ⟨fun off forward => ?_, fun _ => ⟨rfl, rfl⟩, rfl, rfl, rfl, rfl, rfl, rfl⟩
    rcases refused with on | backward
    · exact absurd on (ne_true_of_eq_false off)
    · exact absurd forward (Int.not_le.mpr backward)
  · obtain ⟨off, forward⟩ := not_or.mp refused
    rw [writeStepv_applied (Bool.eq_false_iff.mpr off) (Int.not_lt.mp forward)]
    have sum := stepped_toNat s.clock.dtc v.toNat
    -- the kernel must not evaluate the sum when it compares the fields beside it
    generalize s.clock.dtc + BitVec.ofNat 136 (v.toNat * 2 ^ 72) = d at sum ⊢
    obtain ⟨clock, rest⟩ := withDtc_frame s d
    rw [clock]
    exact ⟨fun _ _ => ⟨sum, sum ▸ step_residue .., rfl⟩, fun h => absurd h refused, rfl, rfl, rest⟩

end Sys2Proof

/-! The turns of the agenda that are no pipe's (DESIGN CHOICE, log 1). -/

namespace Sys2Proof

open Machine

theorem step_event {s : State} {i : Instr} {rest : List Turn} (turn : s.agenda = .event i :: rest) :
    step s = eventTurn { s with agenda := rest, cur := none } i := by
  simp only [step, turn]

/-- Settles O8: the agenda's first turn decides, and for an event whether a checkpoint holds it. -/
theorem stepRunsEvent : Obligations.StepRunsEvent := by
  refine ⟨fun s i rest turn free => ?_, fun s i rest s1 turn held => ?_, fun s idle => ?_⟩
  · rw [step_event turn, eventTurn, free]
  · rw [step_event turn, eventTurn, held]
  · simp only [step, idle]

end Sys2Proof

/-! The start of a handler context (R295): a READY supervisor thread joins the threads, and its trapped thread leaves the queue. -/

namespace Sys2Proof

open Machine

section

variable {s : State} {t u : Thread} {m : ThreadName} {g : Workgroup} {l : Launch} {r : Trapped} {k : Nat}

/-! ## A thread that joins -/

theorem thread?_addThread_same (fresh : s.thread? t.name = none) : (s.addThread t).thread? t.name = some t := by
  show (s.work.threads ++ [t]).find? _ = _
  rw [List.find?_append, show s.work.threads.find? _ = none from fresh]
  simp

theorem thread?_addThread_of_some (found : s.thread? m = some u) : (s.addThread t).thread? m = some u := by
  show (s.work.threads ++ [t]).find? _ = _
  rw [List.find?_append, show s.work.threads.find? _ = some u from found]
  rfl

/-! ## A context (R7, R295) -/

/-- A thread with no register written reads 0 from each (R8). -/
theorem reg_of_regs_nil (never : t.regs = []) (v : Nat) : t.reg v = 0 := by
  simp [Thread.reg, Thread.reg?, never]

theorem pred_of_preds_zero (clear : t.preds = 0) {q : Nat} (notP0 : 1 ≤ q) : t.pred q = false := by
  have nonzero : q ≠ 0 := Nat.one_le_iff_ne_zero.mp notP0
  simp [Thread.pred, clear, nonzero]

/-- A context enters at the HPC of its workgroup's launch. -/
theorem contextThread_pc (launched : s.launch? g.lid = some l) (wti crew : Nat) (h : Handling) :
    (s.contextThread g wti crew k h).pc = { ca := l.hpc, wi := 0 } := by
  simp only [State.contextThread, newThread, launched]

theorem contextThread_fctl (launched : s.launch? g.lid = some l) (wti crew : Nat) (h : Handling) :
    (s.contextThread g wti crew k h).fctl = l.fctl := by
  simp only [State.contextThread, newThread, launched]

theorem contextThread_reg (wti crew : Nat) (h : Handling) (v : Nat) : (s.contextThread g wti crew k h).reg v = 0 :=
  reg_of_regs_nil rfl v

theorem contextThread_pred (wti crew : Nat) (h : Handling) {q : Nat} (notP0 : 1 ≤ q) :
    (s.contextThread g wti crew k h).pred q = false :=
  pred_of_preds_zero rfl notP0

theorem special_trapc {h : Handling} (context : t.handling = some h) (ch : Nat) :
    s.special t 0x70 ch = h.cause + 256 * h.recSlot := by
  simp [State.special, context]

theorem special_trapv {h : Handling} (context : t.handling = some h) (ch : Nat) : s.special t 0x71 ch = h.tval.toNat := by
  simp [State.special, context]

/-! ## The context of a trapped thread (R295) -/

/-- What the handler context of a thread is told of its trap. -/
def handlingOf (t : Thread) (r : Trapped) (k : Nat) : Handling :=
  { trapped := some t.name, recSlot := k, cause := r.info.cause.code, tval := r.info.tval, entryResume := r.resume, kept := r.kept }

/-- The handler context that a trapped thread gets. -/
def handlerOf (s : State) (t : Thread) (g : Workgroup) (r : Trapped) (k : Nat) : Thread :=
  s.contextThread g t.name.wti t.crew k (handlingOf t r k)

/-- The state in which a thread no longer waits for a handler context. -/
def unqueued (s : State) (n : ThreadName) : State :=
  { s with work := { s.work with trapQueue := s.work.trapQueue.filter (· != n) } }

theorem startHandler_eq : s.startHandler t g r k = (unqueued s t.name).addThread (handlerOf s t g r k) := rfl

theorem startHandler_thread?_new (fresh : s.thread? { core := g.core, slot := g.slot, wti := t.name.wti, ctx := k + 1 } = none) :
    (s.startHandler t g r k).thread? { core := g.core, slot := g.slot, wti := t.name.wti, ctx := k + 1 } = some (handlerOf s t g r k) := by
  rw [startHandler_eq]
  exact thread?_addThread_same (t := handlerOf s t g r k) fresh

theorem startHandler_thread?_of_some (found : s.thread? m = some u) : (s.startHandler t g r k).thread? m = some u := by
  rw [startHandler_eq]
  exact thread?_addThread_of_some found

theorem startHandler_not_queued : t.name ∉ (s.startHandler t g r k).work.trapQueue := by
  show t.name ∉ s.work.trapQueue.filter (· != t.name)
  simp

theorem startHandler_frame :
    (s.startHandler t g r k).store = s.store ∧ (s.startHandler t g r k).engines = s.engines ∧
      (s.startHandler t g r k).work.packs = s.work.packs := ⟨rfl, rfl, rfl⟩

end

/-- Settles O36: the context is found under its name, starts as a new thread at HPC, and every thread that was there stays as it is. -/
theorem handlerEntry : Obligations.HandlerEntry := by
  intro s t g l r k launched _ _ _ fresh
  have context : (handlerOf s t g r k).handling = some (handlingOf t r k) := rfl
  obtain ⟨store, engines, packs⟩ := startHandler_frame (s := s) (t := t) (g := g) (r := r) (k := k)
  refine ⟨handlerOf s t g r k, startHandler_thread?_new fresh, rfl, contextThread_pc launched .., contextThread_fctl launched .., rfl,
    contextThread_reg _ _ _, fun q notP0 _ => contextThread_pred _ _ _ notP0, rfl, rfl, rfl, rfl, rfl, rfl, ?_⟩
  exact ⟨special_trapc context, special_trapv context, startHandler_not_queued, store, engines, packs,
    fun _ _ => startHandler_thread?_of_some⟩

end Sys2Proof

/-! Fences, cache words and WSET of a lone pack (R361, R379, R439). -/

namespace Sys2Proof

open Machine

section

variable {i : Instr} {s u : State} {p : Pack} {t : Thread} {o : MrOp} {c : Ctx} {a : Nat} {x : Trans}

/-! ## Words that name a line (R361) -/

/-- The request of a CCTL on the line of the byte at `pa`, under the leaf of its translation. -/
def lineRequest (o : MrOp) (c : Ctx) (s : State) (t : Thread) (x : Trans) (pa : Nat) : Outstanding :=
  { (reqCctl o c s t).2 with tr := some (pa / 128 * 128, x.leaf.toNat) }

/-- Where a line word's address is translated, the page decides whether there is a line, and the thread's earlier accesses whether the word waits
for them. -/
theorem cctlLine_found (addr : a = globalAddr c t o (mrOff o 20)) (low : a < 2 ^ 57)
    (found : s.translate (.core t.name.core) (s.asidOf t.name) a = .found x) :
    cctlLine o c s t = .ok (
      if lineCached x.leaf.toNat then
        if copOf o.off != 2 && (walked s t a).behind (lineRequest o c s t x (x.pa + (a - x.va))) then
          (walked s t a).putOut { lineRequest o c s t x (x.pa + (a - x.va)) with page := x.size }
        else (walked s t a).cacheOp t.name.core (copOf o.off) (x.pa + (a - x.va))
      else walked s t a) := by
  have space : (reqCctl o c s t).2.asid = s.asidOf t.name := rfl
  have cop : (reqCctl o c s t).2.aop = copOf o.off := rfl
  have named : (reqCctl o c s t).1 = a := addr.symm
  unfold cctlLine lineRequest
  generalize reqCctl o c s t = r at space cop named ⊢
  obtain ⟨b, q⟩ := r
  dsimp only at space cop named ⊢
  subst named
  simp only [space, cop, Nat.not_le.mpr low, if_false, found]
  cases lineCached x.leaf.toNat with
  | false => rfl
  | true => exact (apply_ite TRes.ok _ _ _).symm

/-- WB, WBINV and IINV complete as their line allows; a write-back has room among the stores (R47). -/
theorem lineWord_done (h : Lone i s p t) (word : lineWord i = some o) (room : s.storesOut t.name < 63 ∨ i = .cctlIinv o)
    (line : cctlLine o (ctxOf p i) s t = .ok u) : exec i s = .next (finish i p t.name s u .next) := by
  cases i with
  | cctlWb | cctlWbinv =>
    cases word
    exact congrArg Host.Outcome.next (lone_done h (decide_eq_true (room.resolve_right nofun)) line)
  | cctlIinv =>
    cases word
    exact congrArg Host.Outcome.next (lone_done h rfl line)
  | _ => cases word

/-! ## Prefetches (R361) -/

/-- What a prefetch makes of the state once its address is translated: it fetches a line into L1 that has no checks. -/
theorem pf_found (h : Lone (.cctlPf o) s p t) (addr : a = globalAddr (ctxOf p (.cctlPf o)) t o (mrOff o 20)) (low : a < 2 ^ 57)
    (here : o.pol = 0) (found : s.translate (.core t.name.core) (s.asidOf t.name) a = .found x) (cached : lineCached x.leaf.toNat = true)
    (unchecked : bit x.leaf.toNat 61 = false) :
    runWord (.cctlPf o) (bodyCctlPf o) s =
      finish (.cctlPf o) p t.name s (s.cacheOp t.name.core 5 (x.pa + (a - x.va))) .next := by
  have inside : ¬(decide (2 ^ 57 ≤ a) || o.pol != 0) = true := by
    simp only [here, bne_self_eq_false, Bool.or_false, decide_eq_true_eq]
    exact Nat.not_le.mpr low
  subst addr
  refine lone_done h rfl ((if_neg inside).trans ?_)
  simp only [reqOf, found, cached, unchecked, Bool.not_false, Bool.and_self, if_true]

theorem pf_out (h : Lone (.cctlPf o) s p t) (out : 2 ^ 57 ≤ globalAddr (ctxOf p (.cctlPf o)) t o (mrOff o 20) ∨ o.pol ≠ 0) :
    runWord (.cctlPf o) (bodyCctlPf o) s = finish (.cctlPf o) p t.name s s .next :=
  lone_done h rfl (if_pos (by simpa using out))

theorem pf_fault {level : Nat} (h : Lone (.cctlPf o) s p t)
    (fault : s.translate (.core t.name.core) (s.asidOf t.name) (globalAddr (ctxOf p (.cctlPf o)) t o (mrOff o 20)) = .fault level) :
    runWord (.cctlPf o) (bodyCctlPf o) s = finish (.cctlPf o) p t.name s s .next := by
  refine lone_done h rfl ?_
  simp only [reqCctl, reqOf, fault, ite_self]

/-! ## Every line, and the uniform registers (R361, R439) -/

theorem wball_done (h : Lone (.cctlWball o) s p t) (room : s.storesOut t.name < 63) :
    runWord (.cctlWball o) (bodyCctlWball o) s = finish (.cctlWball o) p t.name s
      (if s.behind (reqCctl o (ctxOf p (.cctlWball o)) s t).2 then s.putOut { (reqCctl o (ctxOf p (.cctlWball o)) s t).2 with tr := some (0, 0) }
        else s.cleanCore t.name.core) .next :=
  lone_done h (decide_eq_true room) (apply_ite TRes.ok _ _ _).symm

/-- The thread of a lone pack is the lowest active one, which writes the registers. -/
theorem wset_done (h : Lone (.wset o) s p t) :
    runWord (.wset o) (bodyWset o) s = finish (.wset o) p t.name s
      (s.modGroup t.name.core t.name.slot fun g => { g with
        uniform := putRun g.uniform (bits o.off.toNat 4 0) (cutRegs (dataOf (ctxOf p (.wset o)) t o.d (widthRegs o.width)) (widthRegs o.width)) })
      .next := by
  refine lone_done_of_body h (eachThread_lone h rfl ?_)
  exact if_neg (by simp [lone_actives h])

end

/-- Settles O18, clause by clause. -/
theorem cacheWords : Obligations.CacheWords := by
  intro i s p t s1 lone rule
  cases rule with
  | fence o waits => exact congrArg Host.Outcome.next (lone_done lone (by simp only [waits, Bool.not_false]) rfl)
  | line _ o a x word room addr low found cached order =>
    have now : (copOf o.off != 2 && (walked s t a).behind (lineRequest o (ctxOf p i) s t x (x.pa + (a - x.va)))) = false := by
      rcases order with cop | free
      · simp [cop]
      · simp [lineRequest, free]
    exact lineWord_done lone word room (by simp [cctlLine_found addr low found, cached, now])
  | lineNone _ o a x word room addr low found uncached =>
    exact lineWord_done lone word room (by simp [cctlLine_found addr low found, uncached])
  | lineLater _ o a x word room addr low found cached back order =>
    exact lineWord_done lone word room (by simp [cctlLine_found addr low found, cached, back, lineRequest, order])
  | wball o room order => exact congrArg Host.Outcome.next ((wball_done lone room).trans (by simp [order]))
  | wballLater o room order => exact congrArg Host.Outcome.next ((wball_done lone room).trans (by simp [order]))
  | iinvall o => exact congrArg Host.Outcome.next (lone_done lone rfl rfl)
  | pf o a x addr low here found cached unchecked =>
    exact congrArg Host.Outcome.next (pf_found lone addr low here found cached unchecked)
  | pfNone o out => exact congrArg Host.Outcome.next (pf_out lone out)
  | pfFault o level fault => exact congrArg Host.Outcome.next (pf_fault lone fault)
  | wset o => exact congrArg Host.Outcome.next (wset_done lone)

end Sys2Proof

/-! The context-switch words of a lone pack (R367 to R370). -/

namespace Sys2Proof

open Machine

section

variable {i : Instr} {s s1 s2 s3 u : State} {p : Pack} {t v : Thread} {o : SyOp} {b : List Byte} {hits : List Nat}

/-! ## Image addresses (R367) -/

theorem imageAddr_legal {va align : Nat} (aligned : va % align = 0) (low : va < 2 ^ 57) : imageAddr va align = none := by
  have legal : ¬(va % align != 0) = true := by simp [aligned]
  exact (if_neg legal).trans (if_neg (Nat.not_le.mpr low))

/-! ## Saving a thread (R368) -/

theorem saveNeed_saved (save : Saved s t o v s1 hits) (c : Ctx) : saveNeed o c s t = true := by
  obtain ⟨out, xfn, calls, fetch, operand, word⟩ := save.quiet
  unfold saveNeed
  -- `fetch`, `operand` and `word` leave the last case of the match on the thread's state.
  simp only [save.drained, save.names, out, xfn, calls, List.isEmpty_nil, Option.isNone_none, Bool.true_and]

/-- A CTXSV of a thread that may be saved writes its image, and has its effect on the thread. -/
theorem saveThread_done {allowed : State → Thread → Bool} {effect : State → Thread → State} (h : Lone i s p t) (may : allowed s v = true)
    (save : Saved s t o v s1 hits) :
    runWord i (saveThread o allowed effect) s =
      finish i p t.name s (withStatus (effect s1 v) t.name o 0) .next (watchCause hits) := by
  obtain ⟨vals, h0, h1, s0, regs, rfl, image⟩ := save.written
  refine lone_done h (saveNeed_saved save _) ?_
  simp only [imageAddr_legal save.aligned save.low, save.names, may, Bool.not_true, Bool.false_eq_true, if_false, regs, image]
  rfl

theorem saveThread_none {allowed : State → Thread → Bool} {effect : State → Thread → State} (h : Lone i s p t)
    (aligned : (ctxOperands t o).1 % 256 = 0) (low : (ctxOperands t o).1 < 2 ^ 57) (drained : s.drained t.name = true)
    (none_ : s.target t (ctxOperands t o).2 = none) :
    runWord i (saveThread o allowed effect) s = finish i p t.name s (withStatus s t.name o 1) .next := by
  refine lone_done h (by simp [saveNeed, drained, none_]) ?_
  simp only [imageAddr_legal aligned low, none_]
  rfl

/-! ## Loading a thread (R368, R369) -/

/-- The register values of a thread image. -/
def imageRegs (b : List Byte) : List Nat := (List.range 127).map fun i => fieldOf b (4 * i) 4

theorem ctxldRegs_done {x : List Nat} {l : Sparse Reg} {why : Susp} (h : Lone (.ctxldRegs o) s p t) (st : v.st = .suspended why)
    (image : ImageFor s t o v true b hits s1) (loaded : s1.loadRegs t.name v (imageRegs b) = .ok l x s2) :
    runWord (.ctxldRegs o) (bodyCtxldRegs o) s = finish (.ctxldRegs o) p t.name s
      (withStatus (s2.modThread v.name (fun v => { v with
        regs := l, preds := BitVec.ofNat 16 (fieldOf b 0x200 8 / 2 * 2), fctl := BitVec.ofNat 32 (fieldOf b 0x210 8 / 2 ^ 32)
        fstat := BitVec.ofNat 32 (fieldOf b 0x210 8) })) t.name o 0) .next (watchCause (hits ++ x)) := by
  refine lone_done h image.drained ?_
  simp only [imageRegs] at loaded
  simp only [imageAddr_legal image.aligned image.low, image.names, st, Bool.false_eq_true, if_false, image.read, image.good, loaded]
  rfl

theorem ctxldFull_done {g : Workgroup} {x : List Nat} {l : Sparse Reg} (h : Lone (.ctxldFull o) s p t) (st : v.st = .saved)
    (group : s.groupOf v.name = some g) (restored : g.restored = true) (image : ImageFor s t o v false b hits s1)
    (loaded : s1.loadRegs t.name v (imageRegs b) = .ok l x s2)
    (state : (s2.modThread v.name (loadFields b l)).restoreState v g b (imageRegs b) = some s3) :
    runWord (.ctxldFull o) (bodyCtxldFull o) s = finish (.ctxldFull o) p t.name s (withStatus s3 t.name o 0) .next (watchCause (hits ++ x)) := by
  refine lone_done h image.drained ?_
  simp only [imageRegs] at loaded state
  simp only [imageAddr_legal image.aligned image.low, image.names, Option.bind_some, group, st, bne_self_eq_false, restored, Bool.not_true,
    Bool.or_self, Bool.false_eq_true, if_false, image.read, image.good, loaded, state]
  rfl

/-! ## Workgroup images (R368, R370) -/

/-- The thread of a lone pack whose word moves names, where it keeps its own. -/
theorem eachMoved_lone {need : Ctx → State → Thread → Bool} {f : State → Thread → TRes × (ThreadName → ThreadName)} {nm : ThreadName → ThreadName}
    {fate : Fate} {after : List TrapInfo} (h : Lone i s p t) (ready : need (ctxOf p i) s t = true) (hf : f s t = (.ok u fate after, nm))
    (keeps : nm t.name = t.name) : runWord i (eachMoved need f) s = finish i p t.name s u fate after := by
  have threads : (ctxOf p i).pack.threads = [t.name] := h.threads
  refine lone_done_of_body h ?_
  simp only [eachMoved, lone_actives h, List.any_cons, List.any_nil, h.found, ready, Bool.not_true, Bool.or_false, Bool.false_eq_true, if_false,
    threads, List.foldl_cons, List.foldl_nil, id, h.active, if_true, hf, keeps]
  rfl

/-- A thread's name once the workgroup of a slot, if any, stands in another one. -/
def movedName (core : Nat) (from_ : Option Nat) (to_ : Nat) (n : ThreadName) : ThreadName :=
  if n.core == core && some n.slot == from_ then { n with slot := to_ } else n

theorem movedName_other {core to_ : Nat} {from_ : Option Nat} {n : ThreadName} (other : n.core = core → from_ ≠ some n.slot) :
    movedName core from_ to_ n = n := by
  refine if_neg fun moved => ?_
  rw [Bool.and_eq_true, beq_iff_eq, beq_iff_eq] at moved
  exact other moved.1 moved.2.symm

/-- A word that moves names gives its status to its thread, whose own name stays. -/
theorem ctxStatus_renamed {n : ThreadName} {code : Nat} (keeps : n = t.name) :
    ctxStatus s { t with name := n } o code hits = .ok (withStatus s t.name o code) .next (watchCause hits) := by
  subst keeps
  rfl

theorem ctxsvWg_done {g : Workgroup} (h : Lone (.ctxsvWg o) s p t) (aligned : (ctxOperands t o).1 % 4096 = 0)
    (low : (ctxOperands t o).1 < 2 ^ 57) (drained : s.drained t.name = true) (names : s.targetGroup t (ctxOperands t o).2 = some g)
    (may : s.savable g = true)
    (written : s.imageWrite t.name t.lid (s.asidOf t.name) t.level (ctxOperands t o).1 (s.groupImage g) = .ok () hits s1)
    (other : t.name.core = g.core → t.name.slot ≠ g.slot) :
    runWord (.ctxsvWg o) (bodyCtxsvWg o) s =
      finish (.ctxsvWg o) p t.name s (withStatus (s1.sendAway g) t.name o 0) .next (watchCause hits) := by
  have keeps : movedName g.core (some g.slot) (s1.awaySlot g.core) t.name = t.name :=
    movedName_other fun core slot => other core (Option.some.inj slot).symm
  refine eachMoved_lone h drained (nm := movedName g.core (some g.slot) (s1.awaySlot g.core)) ?_ keeps
  simp only [saveGroup, imageAddr_legal aligned low, names, may, Bool.not_true, Bool.false_eq_true, if_false, written]
  exact Prod.ext (ctxStatus_renamed keeps) rfl

theorem ctxldWg_done {slot wti k : Nat} {r : List Byte} {hits2 : List Nat} (h : Lone (.ctxldWg o) s p t)
    (aligned : (ctxOperands t o).1 % 4096 = 0) (low : (ctxOperands t o).1 < 2 ^ 57) (drained : s.drained t.name = true)
    (names : s.selected t (ctxOperands t o).2 = some (slot, wti))
    (read : s.imageRead t.name (s.asidOf t.name) t.level (ctxOperands t o).1 192 = .ok b hits s1)
    (good : bits (imgW b 0) 63 48 = 0x5E18 ∧ bits (imgW b 8) 63 53 ≤ 1024)
    (records : s1.imageRead t.name (s.asidOf t.name) t.level ((ctxOperands t o).1 + 12288) (128 * bits (imgW b 8) 63 53) = .ok r hits2 s2)
    (created : s2.createGroup t.name.core slot (b ++ r) = .ok k s3)
    (other : ∀ x, s2.savedGroup t.name.core b = some x → x.2.1.slot ≠ t.name.slot) :
    runWord (.ctxldWg o) (bodyCtxldWg o) s =
      finish (.ctxldWg o) p t.name s (withStatus s3 t.name o 0) .next (watchCause (hits ++ hits2)) := by
  have keeps : movedName t.name.core ((s2.savedGroup t.name.core b).map (·.2.1.slot)) k t.name = t.name :=
    movedName_other fun _ old => by
      obtain ⟨x, found, slot⟩ := Option.map_eq_some_iff.mp old
      exact other x found slot
  refine eachMoved_lone h drained (nm := movedName t.name.core ((s2.savedGroup t.name.core b).map (·.2.1.slot)) k) ?_ keeps
  have head : ¬(bits (imgW b 0) 63 48 != 0x5E18 || decide (1024 < bits (imgW b 8) 63 53)) = true := by simpa using good
  simp only [loadGroup, imageAddr_legal aligned low, names, read, head, records, created]
  exact Prod.ext (ctxStatus_renamed keeps) rfl

end

/-- Settles O26, clause by clause. -/
theorem imageWords : Obligations.ImageWords := by
  intro i s p t s1 after lone rule
  cases rule with
  | copy o v s1 hits may save =>
    refine congrArg Host.Outcome.next (saveThread_done lone ?_ save)
    rcases may with ⟨_, st⟩ | ⟨_, st⟩ | ⟨st, held⟩
    · rw [st]
    · rw [st]
    · rw [st]; exact held
  | rel o v s1 hits held live save =>
    exact congrArg Host.Outcome.next (saveThread_done lone (by simp [held, live]) save)
  | wg o g s1 hits aligned low drained names may written other =>
    exact congrArg Host.Outcome.next (ctxsvWg_done lone aligned low drained names may written other)
  | regs o v b hits x l s1 s2 why st image loaded => exact congrArg Host.Outcome.next (ctxldRegs_done lone st image loaded)
  | full o v g b hits x l s1 s2 s3 st group restored image loaded state =>
    exact congrArg Host.Outcome.next (ctxldFull_done lone st group restored image loaded state)
  | load o slot k wti b r hits hits2 s1 s2 s3 aligned low drained names read good records created other =>
    exact congrArg Host.Outcome.next (ctxldWg_done lone aligned low drained names read good records created other)
  | copyNone o aligned low drained none_ | relNone o aligned low drained none_ =>
    exact congrArg Host.Outcome.next (saveThread_none lone aligned low drained none_)
  | regsNone o aligned low drained none_ | fullNone o aligned low drained none_ =>
    exact congrArg Host.Outcome.next (lone_done lone drained (by simp only [imageAddr_legal aligned low, none_]; rfl))

end Sys2Proof

/-! Predicates, shifts and the state after reset: what IADC, SHL, SHR and SAR answer (R385, R427), and that reset is canonical (R445). -/

namespace Sys2Proof

open Machine

/-! ## Predicates (R7) -/

@[simp] theorem pred_zero (t : Thread) : t.pred 0 = true := rfl

/-- The mask of a predicate: one bit, and none past P15. -/
theorem getLsbD_predMask (p q : Nat) : (1#16 <<< p).getLsbD q = decide (q = p ∧ p < 16) := by
  rw [BitVec.getLsbD_shiftLeft, BitVec.getLsbD_one, Bool.eq_iff_iff]
  simp only [Nat.ofNat_pos, decide_true, Bool.true_and, Bool.and_eq_true, decide_eq_true_eq, Bool.not_eq_true',
    decide_eq_false_iff_not, Bool.decide_and]
  omega

/-- A write to a predicate is read back there and nowhere else; P0 and what is no predicate take none. -/
theorem pred_setPred (t : Thread) (p q : Nat) (v : Bool) :
    (t.setPred p v).pred q = if q ≠ 0 ∧ q = p ∧ p < 16 then v else t.pred q := by
  unfold Thread.pred Thread.setPred
  rcases Nat.eq_zero_or_pos p with rfl | hp
  · have none_ : ¬(q ≠ 0 ∧ q = 0 ∧ 0 < 16) := by omega
    rw [if_neg none_]
    rfl
  · rw [if_neg (by simpa using hp.ne')]
    cases v with
    | true =>
      simp only [if_true, BitVec.getLsbD_or, getLsbD_predMask]
      by_cases hq : q = p ∧ p < 16 <;> grind
    | false =>
      simp only [Bool.false_eq_true, if_false, BitVec.getLsbD_and, BitVec.getLsbD_not, getLsbD_predMask]
      have past : 16 ≤ q → t.preds.getLsbD q = false := BitVec.getLsbD_of_ge _ _
      by_cases hq : q = p ∧ p < 16 <;> grind

/-! ## IADC (R385) -/

theorem fnIadc_val (x : VIn) : (fnIadc x).val = (x.a + x.b + if x.t.pred x.sub then 1 else 0) % 2 ^ elemBits x.ty := rfl

theorem fnIadc_preds (x : VIn) :
    (fnIadc x).preds = [(x.sub, decide (2 ^ elemBits x.ty ≤ x.a + x.b + if x.t.pred x.sub then 1 else 0))] := rfl

theorem fnIadc_flags (x : VIn) : (fnIadc x).flags = 0 := rfl

theorem setPreds_single (t : Thread) (p : Nat) (v : Bool) : t.setPreds [(p, v)] = t.setPred p v := rfl

theorem vecIn_thread (c : Ctx) (o : VOp) (sp : VSpec) (t : Thread) : (vecIn c o sp t).t = t := by
  cases o <;> rfl

/-- Settles O51: the word's one predicate write is the carry out, and P0 takes no write. -/
theorem addWithCarry : Obligations.AddWithCarry := by
  intro o c s v sp t r result x n sum
  obtain rfl : fnIadc x = r := Option.some.inj result
  have thread : x.t = t := vecIn_thread c v sp t
  have val := fnIadc_val x
  have preds := fnIadc_preds x
  rw [thread] at val preds
  refine ⟨val, fun q notP0 => ?_, pred_zero _, pred_zero t, fnIadc_flags x⟩
  rw [preds, setPreds_single, pred_setPred]
  exact if_congr (and_iff_right notP0) rfl rfl

/-! ## Shifts (R427) -/

/-- A value of `n` bits read as two's complement. -/
theorem sext_eq_elemInt (n a : Nat) : sext n a = elemInt true n a 0 := by
  rw [← readInt_elem]
  simp [readInt, elem, sext]

theorem elemInt_lt (sg : Bool) (w x i : Nat) : elemInt sg w x i < (2 ^ w : Nat) := by
  have inside : x / 2 ^ (w * i) % 2 ^ w < 2 ^ w := Nat.mod_lt _ (Nat.two_pow_pos w)
  unfold elemInt
  dsimp only
  split <;> omega

theorem neg_elemInt_le (sg : Bool) (w x i : Nat) : -elemInt sg w x i ≤ (2 ^ w : Nat) := by
  unfold elemInt
  dsimp only
  split <;> omega

/-- A shift right by the whole width leaves the sign alone. -/
theorem elemInt_ediv_width (sg : Bool) (w x i : Nat) :
    elemInt sg w x i / (2 ^ w : Nat) = if elemInt sg w x i < 0 then -1 else 0 := by
  split
  next negative => exact Int.ediv_eq_neg_one_of_neg_of_le negative (neg_elemInt_le sg w x i)
  next positive => exact Int.ediv_eq_zero_of_lt (Int.not_lt.mp positive) (elemInt_lt sg w x i)

/-- The count of a shift is the low eight bits of its operand. -/
theorem bits_count (b : Nat) : bits b 7 0 = b % 256 := by simp [bits]

theorem fnShl_val (x : VIn) :
    (fnShl x).val = if x.b % 256 < elemBits x.ty then x.a * 2 ^ (x.b % 256) % 2 ^ elemBits x.ty else 0 := by
  rw [← bits_count]; rfl

theorem fnShr_val (x : VIn) : (fnShr x).val = if x.b % 256 < elemBits x.ty then x.a / 2 ^ (x.b % 256) else 0 := by
  rw [← bits_count]; rfl

theorem fnSar_val (x : VIn) :
    ((fnSar x).val : Int) =
      (if x.b % 256 < elemBits x.ty then elemInt true (elemBits x.ty) x.a 0 / (2 ^ (x.b % 256) : Nat)
        else if elemInt true (elemBits x.ty) x.a 0 < 0 then -1 else 0) % (2 ^ elemBits x.ty : Nat) := by
  have val : (fnSar x).val =
      wrapInt (elemBits x.ty) (elemInt true (elemBits x.ty) x.a 0 / (2 ^ min (x.b % 256) (elemBits x.ty) : Nat)) := by
    rw [← bits_count, ← sext_eq_elemInt]; rfl
  rw [val, wrapInt_cast]
  split
  next below => rw [Nat.min_eq_left below.le]
  next above => rw [Nat.min_eq_right (Nat.not_lt.mp above), elemInt_ediv_width]

/-- Settles O52: SAR by a count past the width is SAR by the width, which leaves the sign. -/
theorem shifts : Obligations.Shifts := by
  intro i c s o sp t r result x n k
  refine ⟨fun p shl => ?_, fun p shr => ?_, fun p sar _ _ => ?_, fun p any => ?_⟩
  · subst shl; cases result; exact fnShl_val x
  · subst shr; cases result; exact fnShr_val x
  · subst sar; cases result; exact fnSar_val x
  · rcases any with rfl | rfl | rfl <;> cases result <;> exact ⟨rfl, rfl⟩

/-! ## Reset (R445) -/

/-- Reset lists no byte, no device register and no accumulator element. -/
theorem canonical_reset : Sys2Proof.canonical State.reset = true := by
  obtain ⟨mem, scratch, awning⟩ := reset_memories
  have dregs : sparseWf (0 : Word64) State.reset.store.dregs = true := rfl
  have acc : sparseWf (0 : Word32) State.reset.store.acc = true := rfl
  simp only [Sys2Proof.canonical, mem, scratch, awning, dregs, acc, Bool.and_self]

theorem image_reset : State.reset.control.image = none := rfl

/-- Settles O41: reset's memories are empty, and it holds no image whose memories could be listed otherwise. -/
theorem resetTidy : Obligations.ResetTidy := by
  refine ⟨⟨canonical_reset, fun x held => ?_⟩, image_reset⟩
  rw [image_reset] at held
  cases held

end Sys2Proof
